-- ==== Sys2Proof/Word.lean ====
section
/-!
DEFINITION. The word types of the architecture (00_scope R9).  Registers whose width is XLEN are held in 64 bits on every
implementation (R12: on a 32-bit implementation bits 0 to 31 do not exist, read as 0 and drop what is written).
-/

namespace Sys2Proof

/-- 8 bits. -/
abbrev Byte := BitVec 8

/-- 16 bits. -/
abbrev Half := BitVec 16

/-- 32 bits. -/
abbrev Word := BitVec 32

/-- 64 bits; also an XLEN-bit register or effective address. -/
abbrev Dword := BitVec 64

end Sys2Proof
end

