-- ==== Sys2Proof/Config.lean ====
section
/-!
DEFINITION. What an implementation fixes (00_scope R8), as plain data, and the values the spec leaves open, as constants
with no body: nothing can be proved of one but what holds of every value.
-/

namespace Sys2Proof

/-- What a scalar load or store does at an address that is no multiple of its size (20_memory R98, 92 D4). -/
inductive MisalignedPolicy where
  /-- The access is done as independent byte accesses. -/
  | perform
  /-- An alignment exception is taken. -/
  | trap
  deriving DecidableEq, Repr

/-- What `dcbz` does to a caching-inhibited or write-through page (49 R567, 92 D24). -/
inductive DcbzPolicy where
  /-- The block is cleared. -/
  | clear
  /-- An alignment exception is taken. -/
  | trap
  deriving DecidableEq, Repr

/-- Where FP_RESULT comes from (00_scope R8; 43 R310; 92 D11). -/
inductive FpSource where
  /-- The reference instance: the IEEE 754 arithmetic of 43 R311 to R313 and the conversions of 44 R355 to R360. -/
  | reference
  /-- The functions the host supplies: `Config.fpArith` and `Config.fpConvert`. -/
  | supplied
  deriving DecidableEq, Repr

/-- The operations of FP_RESULT.arith (43 R310). -/
inductive FpOp where
  | add
  | sub
  | mul
  | div
  | sqrt
  | madd
  | msub
  | nmadd
  | nmsub
  | res
  | rsqrte
  deriving DecidableEq, Repr

/-- The kinds of FP_RESULT.convert (44 R350). -/
inductive FpKind where
  | rsp
  | ctiw
  | ctiwz
  | ctid
  | ctidz
  | cfid
  deriving DecidableEq, Repr

/-- What the arguments of FP_RESULT.arith are (43 R310): the operation, its precision, FPSCR[RN], the operands (0 where the
instruction has none) and the enables VE, ZE, OE, UE. -/
structure FpRequest where
  op : FpOp
  single : Bool
  rn : BitVec 2
  a : Dword
  b : Dword
  c : Dword
  ve : Bool
  ze : Bool
  oe : Bool
  ue : Bool
  deriving DecidableEq, Repr

/-- What the arguments of FP_RESULT.convert are (44 R350). -/
structure FpConversion where
  kind : FpKind
  rn : BitVec 2
  b : Dword
  ve : Bool
  deriving DecidableEq, Repr

/-- What FP_RESULT answers (43 R310): a value, FR, FI and the exception bits raised, at their places in the FPSCR. -/
structure FpAnswer where
  value : Dword
  fr : Bool
  fi : Bool
  raised : Word
  deriving DecidableEq, Repr, Inhabited

/-- The implementation parameters of 00_scope R8. -/
structure Config where
  /-- IMPL64: a 64-bit implementation. -/
  impl64 : Bool
  /-- BRIDGE: the temporary 64-bit bridge (meaningful only with `impl64`). -/
  bridge : Bool
  /-- BRIDGE_MTMSR_RFI: the bridge's optional mtmsr and rfi. -/
  bridgeMtmsrRfi : Bool
  /-- BRIDGE_MTSRD: the bridge's optional mtsrd and mtsrdin. -/
  bridgeMtsrd : Bool
  optFsqrt : Bool
  optFres : Bool
  optFrsqrte : Bool
  optFsel : Bool
  optStfiwx : Bool
  optDcba : Bool
  optExtctl : Bool
  optTlbia : Bool
  optTlbie : Bool
  optTlbsync : Bool
  optSlbia : Bool
  optSlbie : Bool
  /-- The base-2 logarithm of CACHE_BLOCK_BYTES. -/
  cacheBlockLog : Nat
  /-- The base-2 logarithm of RESERVATION_GRANULE_BYTES, where it is at least 2 (3 with `impl64`); a smaller number stands for
  that least one (`State.granuleOf`). -/
  granuleLog : Nat
  misaligned : MisalignedPolicy
  dcbzUncached : DcbzPolicy
  optTrace : Bool
  optDabr : Bool
  /-- FP_RESULT: the reference instance or the host's. -/
  fpResult : FpSource
  deriving DecidableEq, Repr

/-- The memory attributes W, I, M, G of a page or block (20_memory R100). -/
structure Attributes where
  writeThrough : Bool
  inhibited : Bool
  coherent : Bool
  guarded : Bool
  deriving DecidableEq, Repr, Inhabited

/-- One SLB entry: the image of a segment table entry (10_state R50) and the `by_move` flag (49 R580). -/
structure SlbEntry where
  dw0 : Dword
  dw1 : Dword
  byMove : Bool
  deriving DecidableEq, Repr, Inhabited

/-- One TLB entry: the segment and the page of the effective addresses it serves (20_memory R103) and contents that only
the translation function reads. -/
structure TlbEntry where
  segment : BitVec 36
  page : BitVec 16
  contents : BitVec 128
  deriving DecidableEq, Repr, Inhabited

/-- The state of the memory management unit that the translation function reads (92 D10), beside memory. -/
structure MmuView where
  ir : Bool
  sr : Vector Word 16
  slb : Vector SlbEntry 16
  tlb : List TlbEntry
  sdr1 : Dword
  asr : Dword
  ibat : Vector Dword 8
  dbat : Vector Dword 8
  deriving DecidableEq, Repr

/-- The kinds of access that translation tells apart (20_memory R96); cache operations are translated as the load or
store they are treated as (20_memory R126). -/
inductive AccessKind where
  | load
  | store
  | fetch
  deriving DecidableEq, Repr

/-- Why a translation fails (60 R610, R612, R627). -/
inductive XlateCause where
  /-- No translation is found: a page fault. -/
  | noTranslation
  /-- A protection violation. -/
  | protection
  /-- A search of the segment table fails (64-bit implementations). -/
  | segmentSearch
  /-- A fetch from a direct-store segment or from guarded or no-execute memory. -/
  | noExecute
  deriving DecidableEq, Repr, Inhabited

/-- What a translation answers: the frame (all but the 12 low-order bits) and attributes of the physical address, or why it
fails. -/
inductive XlateResult where
  | frame (f : BitVec 52) (attributes : Attributes)
  | fails (cause : XlateCause)
  deriving DecidableEq, Repr, Inhabited

/-- The whole answer of the translation function: the result, whether the segment is a direct-store segment, and the TLB
and SLB entries the hardware loads meanwhile (10_state R50, R54). -/
structure Xlate where
  result : XlateResult
  directStore : Bool
  tlbFill : Option TlbEntry
  slbFill : Option (BitVec 4 × SlbEntry)
  deriving DecidableEq, Repr, Inhabited

/-- The translation function (20_memory R96, R102; 92 D10). It has no body: nothing is known of a translated address but
that its 12 low-order bits are those of the effective address. -/
opaque Config.translate (view : MmuView) (mem : List Host.Cell) (kind : AccessKind) (user : Bool) (ea : Dword) : Xlate

/-- The value of the `n`-th draw, `w` bits wide: an undefined value of the spec (00_scope R17). It has no body that
anything can see. -/
opaque Config.drawn (w n : Nat) : BitVec w

/-- The word the device named `rid` answers to an `eciwx` at physical address `pa`, at the `n`-th draw (92 D25). -/
opaque Config.deviceIn (n : Nat) (rid : BitVec 6) (pa : Dword) : Word

/-- FP_RESULT.arith as the host supplies it (43 R310), a function of the arguments that the rule lists. It has no body; the
constraints of R310 are put on what it answers (`Machine.admitAnswer`). -/
opaque Config.fpArith (q : FpRequest) : FpAnswer

/-- FP_RESULT.convert as the host supplies it (44 R350). -/
opaque Config.fpConvert (q : FpConversion) : FpAnswer

end Sys2Proof
end

