-- ==== Sys2Proof/Machine/Bits.lean ====
section
/-!
DEFINITION. Bit fields under the spec's numbering (00_scope R11: bit 0 is the most significant), sign and zero extension,
masks and rotations (R14, R15), and the byte order (20_memory R90).
-/

namespace Sys2Proof.Machine

/-- The low-order word of a register (bits 32:63). -/
def low (x : Dword) : Word := x.setWidth 32

/-- The high-order word of a register (bits 0:31). -/
def high (x : Dword) : Word := x.extractLsb' 32 32

/-- A word zero-extended to a register. -/
def zext (x : Word) : Dword := x.setWidth 64

/-- A word sign-extended to a register. -/
def sext (x : Word) : Dword := x.signExtend 64

/-- A register with high-order word `h` and low-order word `l`. -/
def joinWords (h l : Word) : Dword := h ++ l

/-- Bits `a` to `b` (numbered from the most significant, R11) of a `w`-bit value, as an `n`-bit one. -/
def slice {w : Nat} (n : Nat) (x : BitVec w) (a : Nat) : BitVec n := x.extractLsb' (w - a - n) n

/-- `x` with bit `i` (numbered from the most significant) made `v`. -/
def putBit {w : Nat} (x : BitVec w) (i : Nat) (v : Bool) : BitVec w :=
  if v then x ||| BitVec.twoPow w (w - 1 - i) else x &&& ~~~ BitVec.twoPow w (w - 1 - i)

/-- `x` where `mask` is 0, `y` where it is 1. -/
def merge {w : Nat} (mask y x : BitVec w) : BitVec w := (y &&& mask) ||| (x &&& ~~~ mask)

/-- One-bits from position `x` to 63. -/
def onesFrom (x : Nat) : Dword := BitVec.allOnes 64 >>> x

/-- MASK(x, y) of 00_scope R14: one-bits from `x` to `y`, wrapping when `x > y`. -/
def mask64 (x y : Nat) : Dword :=
  if x ≤ y then onesFrom x &&& ~~~ onesFrom (y + 1) else onesFrom x ||| ~~~ onesFrom (y + 1)

/-- ROTL[64] (R13). -/
def rotl64 (x : Dword) (n : Nat) : Dword := x.rotateLeft (n % 64)

/-- ROTL[32] (R15). -/
def rotl32 (x : Word) (n : Nat) : Word := x.rotateLeft (n % 32)

/-- The value of bytes, the first the most significant (20_memory R90), as a number. -/
def bytesValue (bytes : List Byte) : Nat := bytes.foldl (fun acc b => acc * 256 + b.toNat) 0

/-- The same as a bit vector. -/
def ofBytes (w : Nat) (bytes : List Byte) : BitVec w := BitVec.ofNat w (bytesValue bytes)

/-- The `n` low-order bytes of a value, the most significant first (20_memory R90). -/
def toBytes {w : Nat} (n : Nat) (v : BitVec w) : List Byte :=
  (List.range n).map (fun k => v.extractLsb' (8 * (n - 1 - k)) 8)

/-- A list with `x` added unless it is there (a set as a list with no repeats). -/
def addNew {α : Type} [DecidableEq α] (x : α) (l : List α) : List α := if x ∈ l then l else x :: l

end Sys2Proof.Machine
end

