-- ==== Sys2Proof/Machine/State.lean ====
section
/-!
DEFINITION. The state of the machine as plain data (10_state; INVENTORY.md lists every field with its rule and reset value),
the reasons a step can stop, and the state after reset (70 R650).
-/

namespace Sys2Proof.Machine

/-- Physical memory: (address, byte) pairs, addresses strictly rising. A byte that is not listed has no value: reading it
is the fault `unwrittenRead` (70 R650). -/
abbrev Memory := List Host.Cell

/-- Addresses strictly rise from `lo` on. -/
def Memory.risesFrom (lo : Nat) (m : Memory) : Bool :=
  match m with
  | [] => true
  | c :: rest => decide (lo ≤ c.1) && Memory.risesFrom (c.1 + 1) rest

/-- The canonical form of memory: addresses strictly rise. (An unlisted byte reads as no value, so no entry can equal
what an unlisted address reads as.) -/
def Memory.wf (m : Memory) : Bool := Memory.risesFrom 0 m

/-- The sub-types of the program exception (60 R600). -/
inductive ProgramCause where
  | fpEnabled
  | illegal
  | privileged
  | trap
  deriving DecidableEq, Repr

/-- The exceptions of 60 R600. -/
inductive Exc where
  | systemReset
  | machineCheck
  /-- DSI with the address of the failing access and the DSISR bits of R610. -/
  | dsi (ea : Dword) (status : Word)
  /-- ISI with its cause. -/
  | isi (cause : XlateCause)
  | external
  | alignment (ea : Dword)
  | program (cause : ProgramCause)
  | fpUnavailable
  | decrementer
  | systemCall
  | trace
  deriving DecidableEq, Repr

/-- What decides how an instruction fetch translates: the translation state and MSR[PR]. -/
structure FetchView where
  mmu : MmuView
  user : Bool
  deriving DecidableEq, Repr

/-- The marks of context changes that no context synchronizing event has followed yet (70 R660; log 14). -/
structure StaleMarks where
  /-- What decided fetches before each such change: a fetch that translates otherwise under one of them is stale. -/
  views : List FetchView
  /-- The computation mode (MSR[SF]) has changed: every access whose address may depend on it is stale. -/
  sf : Bool
  /-- Such a change has decided where the next fetch is (it, or what came after it, has cut the high half off an instruction
  address, or a test of CTR comes out otherwise in the other mode): every fetch is stale. -/
  sfCut : Bool
  /-- MSR[DR] has changed: every data access is stale. -/
  dr : Bool
  /-- SDR1, ASR, a DBAT, the whole SLB or the whole TLB has changed: every translated data access is stale. -/
  allPages : Bool
  /-- The segments changed (EA[0:35]). -/
  segments : List (BitVec 36)
  /-- The page indexes a `tlbie` has invalidated (EA[36:51]). -/
  pages : List (BitVec 16)
  /-- DABR has changed (only with OPT_DABR): every checked access is stale. -/
  dabr : Bool
  /-- EAR has changed: `eciwx` and `ecowx` are stale. -/
  ear : Bool
  deriving DecidableEq, Repr

/-- No context change is unsynchronized. -/
def StaleMarks.none : StaleMarks :=
  { views := [], sf := false, sfCut := false, dr := false, allPages := false, segments := [], pages := [], dabr := false,
    ear := false }

/-- What the world outside the processor does at one instruction boundary (60 R629, R621; 92 D16, D17, D31). -/
structure Boundary where
  /-- How many ticks the time base and decrementer take. -/
  ticks : Nat
  /-- The level of the external interrupt input from now on. -/
  extInt : Bool
  /-- A system reset is requested. -/
  reset : Bool
  /-- A machine check is requested. -/
  mcheck : Bool
  /-- The reservation is lost without any other cause (D31). -/
  loseReservation : Bool
  /-- Bytes other agents store, at physical addresses, in order. -/
  stores : List Host.Cell
  /-- Page indexes that other processors' `tlbie` instructions invalidate. -/
  tlbies : List (BitVec 16)
  /-- Block numbers that other processors' `icbi` instructions invalidate. -/
  icbis : List Nat
  deriving DecidableEq, Repr

/-- One output event of `ecowx`: `DeviceOut(RID, paddr, word)` (49 R570). -/
structure DeviceEvent where
  rid : BitVec 6
  pa : Dword
  word : Word
  deriving DecidableEq, Repr

/-- The state. Registers of width XLEN are held in 64 bits (Word.lean). -/
structure State where
  /-- The implementation parameters; no step changes them. -/
  cfg : Config
  gpr : Vector Dword 32
  fpr : Vector Dword 32
  /-- The `single_origin` tags (46 R469). -/
  fprSingle : Vector Bool 32
  /-- The next instruction address; CIA while an instruction executes (10_state R33). -/
  nia : Dword
  cr : Word
  xer : Word
  lr : Dword
  ctr : Dword
  msr : Dword
  srr0 : Dword
  srr1 : Dword
  dsisr : Word
  dar : Dword
  dec : Word
  /-- The time base, TBU || TBL. -/
  tb : Dword
  sdr1 : Dword
  sprg : Vector Dword 4
  asr : Dword
  ear : Word
  pvr : Word
  /-- IBAT0U, IBAT0L, ..., IBAT3U, IBAT3L: SPR 528 to 535. -/
  ibat : Vector Dword 8
  /-- DBAT0U, DBAT0L, ..., DBAT3U, DBAT3L: SPR 536 to 543. -/
  dbat : Vector Dword 8
  dabr : Dword
  fpscr : Word
  sr : Vector Word 16
  slb : Vector SlbEntry 16
  tlb : List TlbEntry
  reserve : Bool
  reserveAddr : Dword
  extInt : Bool
  resetPending : Bool
  mcheckPending : Bool
  decPending : Bool
  fpPending : Bool
  tracePending : Bool
  mem : Memory
  /-- Block numbers stored to since their last `icbi` and context synchronization (70 R661). -/
  staleInsn : List Nat
  /-- Block numbers invalidated by `icbi` since the last context synchronization and not stored to since (70 R661; 20_memory
  R125). -/
  icbiDone : List Nat
  stale : StaleMarks
  /-- The `ecowx` events so far, oldest first. -/
  deviceOut : List DeviceEvent
  /-- The exceptions entered so far, oldest first (60 R629). -/
  entered : List Exc
  /-- What the outside world does at the coming boundaries; empty: nothing more happens. -/
  env : List Boundary
  /-- How many undefined values have been drawn. -/
  draws : Nat
  deriving DecidableEq, Repr

/-- The reasons the model stops where the hardware's behaviour is not defined (60 R628). Every one is safe: nothing is
claimed of what the hardware does then. -/
inductive Fault where
  /-- A reserved instruction bit is 1 (30 R164, D7). Raised by `step`. Safe. -/
  | reservedBitsNonZero
  /-- An invalid instruction form (30 R165, D5). Raised by the meanings of the instructions R165 lists. Safe. -/
  | invalidForm
  /-- Boundedly undefined results with no exception offered (D6). Raised by `eciwx` and `ecowx` in real addressing mode and by
  `lswx` with rA or rB in the range loaded. Safe. -/
  | boundedlyUndefined
  /-- A fetch from a block stored to without the sequence of 70 R661. Raised by `step`. Safe. -/
  | staleInstruction
  /-- An access that depends on a context change not yet synchronized (70 R660). Raised by fetches and data accesses. Safe. -/
  | staleTranslation
  /-- A byte of memory that nothing has written is read (70 R650). Raised by fetches and loads. Safe. -/
  | unwrittenRead (address : Nat)
  /-- A machine check with MSR[ME] = 0 (60 R605): the processor stops. Raised by `step`. Safe. -/
  | checkstop
  deriving DecidableEq, Repr

/-- The reasons the model refuses to go on. -/
inductive Refusal where
  /-- The instruction has no meaning yet. Raised by `exec`. Safe. -/
  | notModelled (mnemonic : String)
  /-- MSR[LE] is 1 (20_memory R91, D1). Raised by `step`. Safe. -/
  | littleEndian
  /-- MSR[POW] is 1 (60 R625). Raised by `step`. Safe. -/
  | powerSave
  deriving DecidableEq, Repr

/-- The parameters of the machine that `State.reset` describes: a 64-bit implementation with the bridge and every option
but trace and DABR, with the reference arithmetic (log 5). -/
def State.resetConfig : Config :=
  { impl64 := true, bridge := true, bridgeMtmsrRfi := true, bridgeMtsrd := true,
    optFsqrt := true, optFres := true, optFrsqrte := true, optFsel := true, optStfiwx := true, optDcba := true,
    optExtctl := true, optTlbia := true, optTlbie := true, optTlbsync := true, optSlbia := true, optSlbie := true,
    cacheBlockLog := 5, granuleLog := 5, misaligned := .perform, dcbzUncached := .clear,
    optTrace := false, optDabr := false, fpResult := .reference }

/-- MSR after reset: SF on a 64-bit implementation, and IP (70 R650; log 2). -/
def State.resetMsr (impl64 : Bool) : Dword := if impl64 then 0x8000000000000040 else 0x40

/-- The state right after reset of an implementation with parameters `cfg` (70 R650). Where R650 says "unspecified" the
value is the one log 1 to 4 names. -/
def State.resetOf (cfg : Config) : State :=
  { cfg := cfg
    gpr := Vector.replicate 32 0, fpr := Vector.replicate 32 0, fprSingle := Vector.replicate 32 false
    nia := 0xFFF00100
    cr := 0, xer := 0, lr := 0, ctr := 0
    msr := State.resetMsr cfg.impl64
    srr0 := 0, srr1 := 0, dsisr := 0, dar := 0
    dec := 0xFFFFFFFF, tb := 0, sdr1 := 0
    sprg := Vector.replicate 4 0, asr := 0, ear := 0, pvr := 0
    ibat := Vector.replicate 8 0, dbat := Vector.replicate 8 0, dabr := 0, fpscr := 0
    sr := Vector.replicate 16 0
    slb := Vector.replicate 16 { dw0 := 0, dw1 := 0, byMove := false }
    tlb := []
    reserve := false, reserveAddr := 0
    extInt := false, resetPending := false, mcheckPending := false, decPending := false, fpPending := false,
    tracePending := false
    mem := [], staleInsn := [], icbiDone := [], stale := StaleMarks.none
    deviceOut := [], entered := [], env := [], draws := 0 }

/-- The state right after reset. -/
def State.reset : State := State.resetOf State.resetConfig

end Sys2Proof.Machine
end

