-- ==== Sys2Proof/Machine/Ops.lean ====
section
/-!
DEFINITION. The named operations over registers, memory and translation; the taking of an exception (60 R602) and the return
from one (47 R495, R496; 60 R603).
-/

namespace Sys2Proof.Machine

/-- The outcome of one instruction or step. -/
abbrev Result := Host.Outcome State Fault Refusal

/-! ## Mode and register access -/

/-- MSR[SF], bit 0. -/
def State.sf (s : State) : Bool := s.msr.getMsbD 0
/-- MSR[POW], bit 45. -/
def State.pow (s : State) : Bool := s.msr.getMsbD 45
/-- MSR[EE], bit 48. -/
def State.ee (s : State) : Bool := s.msr.getMsbD 48
/-- MSR[PR], bit 49: user mode. -/
def State.pr (s : State) : Bool := s.msr.getMsbD 49
/-- MSR[FP], bit 50. -/
def State.fpOn (s : State) : Bool := s.msr.getMsbD 50
/-- MSR[ME], bit 51. -/
def State.me (s : State) : Bool := s.msr.getMsbD 51
/-- MSR[FE0] | MSR[FE1], bits 52 and 55: floating-point exceptions are taken (60 R608). -/
def State.fe (s : State) : Bool := s.msr.getMsbD 52 || s.msr.getMsbD 55
/-- MSR[SE], bit 53. -/
def State.se (s : State) : Bool := s.msr.getMsbD 53
/-- MSR[BE], bit 54. -/
def State.be (s : State) : Bool := s.msr.getMsbD 54
/-- MSR[IR], bit 58. -/
def State.ir (s : State) : Bool := s.msr.getMsbD 58
/-- MSR[DR], bit 59. -/
def State.dr (s : State) : Bool := s.msr.getMsbD 59
/-- MSR[LE], bit 63. -/
def State.le (s : State) : Bool := s.msr.getMsbD 63

/-- MODE64 (00_scope R10). -/
def State.mode64 (s : State) : Bool := s.cfg.impl64 && s.sf

/-- A value as an XLEN-bit register holds it: on a 32-bit implementation bits 0 to 31 are dropped (00_scope R12). -/
def State.norm (s : State) (v : Dword) : Dword := if s.cfg.impl64 then v else zext (low v)

/-- `ea32` and `iea` (00_scope R18, R13): the address itself in 64-bit mode, its low-order word otherwise. -/
def State.ea32 (s : State) (v : Dword) : Dword := if s.mode64 then v else zext (low v)

/-- GPR[r]. -/
def State.getGpr (s : State) (r : BitVec 5) : Dword := s.gpr.get r.toFin

/-- GPR[r] <- v. -/
def State.setGpr (s : State) (r : BitVec 5) (v : Dword) : State := { s with gpr := s.gpr.set r.toFin.val (s.norm v) r.toFin.isLt }

/-- FPR[r]. -/
def State.getFpr (s : State) (r : BitVec 5) : Dword := s.fpr.get r.toFin

/-- The `single_origin` tag of FPR[r] (46 R469). -/
def State.isSingle (s : State) (r : BitVec 5) : Bool := s.fprSingle.get r.toFin

/-- FPR[r] <- v with its `single_origin` tag. -/
def State.setFpr (s : State) (r : BitVec 5) (v : Dword) (single : Bool) : State :=
  { s with fpr := s.fpr.set r.toFin.val v r.toFin.isLt, fprSingle := s.fprSingle.set r.toFin.val single r.toFin.isLt }

/-- LR <- v. -/
def State.setLr (s : State) (v : Dword) : State := { s with lr := s.norm v }

/-- CTR <- v. -/
def State.setCtr (s : State) (v : Dword) : State := { s with ctr := s.norm v }

/-- NIA <- v, a word-aligned address under the current mode (10_state R33). -/
def State.setNia (s : State) (v : Dword) : State := { s with nia := s.ea32 v &&& ~~~ 3 }

/-- NIA <- CIA + 4 (10_state R33). -/
def State.advance (s : State) : State := s.setNia (s.nia + 4)

/-- The instruction is complete and does not branch. -/
def done (s : State) : Result := .next s.advance

/-- MSR <- v (bits 0 to 31 dropped on a 32-bit implementation). -/
def State.setMsr (s : State) (v : Dword) : State := { s with msr := s.norm v }

/-! ## Draws -/

/-- The next undefined value, `w` bits wide (00_scope R17). -/
def State.draw (s : State) (w : Nat) : BitVec w := Config.drawn w s.draws

/-- One more value has been drawn. -/
def State.drew (s : State) : State := { s with draws := s.draws + 1 }

/-! ## Exceptions -/

/-- The vector offset (60 R601). -/
def Exc.offset (e : Exc) : Dword :=
  match e with
  | .systemReset => 0x100
  | .machineCheck => 0x200
  | .dsi _ _ => 0x300
  | .isi _ => 0x400
  | .external => 0x500
  | .alignment _ => 0x600
  | .program _ => 0x700
  | .fpUnavailable => 0x800
  | .decrementer => 0x900
  | .systemCall => 0xC00
  | .trace => 0xD00

/-- The SRR1 status bit of a program exception: 43, 44, 45 or 46 (60 R627). -/
def ProgramCause.status (c : ProgramCause) : Dword :=
  match c with
  | .fpEnabled => 0x100000
  | .illegal => 0x80000
  | .privileged => 0x40000
  | .trap => 0x20000

/-- The SRR1 status bit of an ISI: 33, 35, 36 or 42 (60 R627). -/
def isiStatus (c : XlateCause) : Dword :=
  match c with
  | .noTranslation => 0x40000000
  | .noExecute => 0x10000000
  | .protection => 0x08000000
  | .segmentSearch => 0x00200000

/-- The SRR1 status bits (60 R627). -/
def Exc.status (e : Exc) : Dword :=
  match e with
  | .isi c => isiStatus c
  | .program c => c.status
  | .systemReset => 0
  | .machineCheck => 0
  | .dsi _ _ => 0
  | .external => 0
  | .alignment _ => 0
  | .fpUnavailable => 0
  | .decrementer => 0
  | .systemCall => 0
  | .trace => 0

/-- The MSR bits an exception saves to SRR1 and rfid restores: 0, 48:55, 57:59, 62:63 (60 R602, 47 R496). -/
def savedBits : Dword := 0x800000000000FF73

/-- The SRR1 bits an exception clears before its status bits are set: 33:36, 42:47 (60 R602). -/
def statusBits : Dword := 0x783F0000

/-- The MSR bits an exception clears: POW, EE, PR, FP, FE0, SE, BE, FE1, IR, DR, RI, LE (60 R602). -/
def entryClears : Dword := 0x4EF33

/-- SRR1 after an exception taken with `msr` (60 R602, R627). -/
def entrySrr1 (srr1 msr status : Dword) : Dword := merge savedBits msr (srr1 &&& ~~~ statusBits) ||| status

/-- MSR[SF] after an exception: 1 on a 64-bit implementation; a 32-bit implementation has no such bit. -/
def entrySf (impl64 : Bool) : Dword := if impl64 then 0x8000000000000000 else 0

/-- MSR[LE] after an exception: the old MSR[ILE] (60 R602). -/
def entryLe (msr : Dword) : Dword := if msr.getMsbD 47 then 1 else 0

/-- MSR[ME] is cleared by a machine check alone (60 R602). -/
def Exc.clearsMe (e : Exc) : Dword :=
  match e with
  | .machineCheck => 0x1000
  | .systemReset => 0
  | .dsi _ _ => 0
  | .isi _ => 0
  | .external => 0
  | .alignment _ => 0
  | .program _ => 0
  | .fpUnavailable => 0
  | .decrementer => 0
  | .systemCall => 0
  | .trace => 0

/-- `new_value(exc)`: the MSR after an exception (60 R602). -/
def entryMsr (impl64 : Bool) (e : Exc) (msr : Dword) : Dword :=
  (msr &&& ~~~ (entryClears ||| e.clearsMe)) ||| entrySf impl64 ||| entryLe msr

/-- The base address MSR[IP] selects (60 R601). -/
def vectorBase (msr : Dword) : Dword := if msr.getMsbD 57 then 0xFFF00000 else 0

/-- Context synchronization: the marks of context changes go, and every block that `icbi` has invalidated may be fetched
again (70 R660, R661). -/
def State.contextSync (s : State) : State :=
  { s with staleInsn := s.staleInsn.filter (fun b => !(s.icbiDone.contains b)), icbiDone := [], stale := StaleMarks.none }

/-- DSISR and DAR as the exception writes them (60 R610, R611). The alignment DSISR is undefined: a draw. -/
def State.recordFault (s : State) (e : Exc) : State :=
  match e with
  | .dsi ea status => { s with dsisr := status, dar := s.norm ea }
  | .alignment ea => { s.drew with dsisr := s.draw 32, dar := s.norm ea }
  | .systemReset => s
  | .machineCheck => s
  | .isi _ => s
  | .external => s
  | .program _ => s
  | .fpUnavailable => s
  | .decrementer => s
  | .systemCall => s
  | .trace => s

/-- Taking exception `e` with return address `ret`: the entry sequence of 60 R602. It is noted in the trace of exceptions entered
(60 R629). A pending floating-point or trace exception is dropped by every entry; for the first the spec does not say so (log 37,
DESIGN CHOICE). -/
def enter (e : Exc) (ret : Dword) (s : State) : State :=
  let t := (s.recordFault e).contextSync
  { t with
    srr0 := s.ea32 ret &&& ~~~ 3
    srr1 := s.norm (entrySrr1 s.srr1 s.msr e.status)
    msr := s.norm (entryMsr s.cfg.impl64 e s.msr)
    nia := vectorBase (entryMsr s.cfg.impl64 e s.msr) + e.offset
    fpPending := false
    tracePending := false
    entered := s.entered ++ [e] }

/-- The instruction is abandoned and raises `e`; SRR0 receives CIA (60 R627). -/
def raise (e : Exc) (s : State) : Result := .next (enter e s.nia s)

/-- Program(FPEnabled) becomes pending when FE0 | FE1 goes from 0 to 1 while FPSCR[FEX] = 1 (60 R608 (b)). -/
def State.notePendingFp (before after : State) : State :=
  if !before.fe && after.fe && after.fpscr.getMsbD 1 then { after with fpPending := true } else after

/-- The MSR after a return that restores the bits `bits` from SRR1. -/
def returnMsr (bits srr1 msr : Dword) : Dword := merge bits srr1 msr

/-- Return from an exception: the MSR bits `bits` come from SRR1, the pc from SRR0 under the new mode, and the machine is
context synchronized (47 R495, R496; 60 R603). -/
def returnFrom (bits : Dword) (s : State) : Result :=
  let t := (s.setMsr (returnMsr bits s.srr1 s.msr)).contextSync
  .next (s.notePendingFp (t.setNia s.srr0))

/-! ## Accesses -/

/-- What a part of a storage instruction answers: a value and the state it leaves, an exception with the state that its entry
finds (60 R604, R626), or a fault. -/
inductive Access (α : Type) where
  | ok (v : α) (s : State)
  | raises (e : Exc) (s : State)
  | faults (f : Fault)

/-- Sequencing of accesses. -/
def Access.bind {α β : Type} (a : Access α) (k : α → State → Access β) : Access β :=
  match a with
  | .ok v s => k v s
  | .raises e s => .raises e s
  | .faults f => .faults f

/-- An instruction that ends with what `k` makes of the access's value. -/
def Access.finish {α : Type} (a : Access α) (k : α → State → Result) : Result :=
  match a with
  | .ok v s => k v s
  | .raises e s => raise e s
  | .faults f => .fault f

/-! ## Physical memory -/

/-- The byte at address `a`, if one has been written. -/
def Memory.read (m : Memory) (a : Nat) : Option Byte :=
  match m with
  | [] => none
  | c :: rest => if c.1 = a then some c.2 else Memory.read rest a

/-- Memory with byte `b` at address `a`; the canonical form is kept. -/
def Memory.write (m : Memory) (a : Nat) (b : Byte) : Memory :=
  match m with
  | [] => [(a, b)]
  | c :: rest =>
    if a < c.1 then (a, b) :: c :: rest
    else if a = c.1 then (a, b) :: rest
    else c :: Memory.write rest a b

/-- The bytes at the addresses `pas`, in order, or the first address that nothing has written. -/
def Memory.readAll (m : Memory) (pas : List Dword) : Except Nat (List Byte) :=
  match pas with
  | [] => .ok []
  | pa :: rest =>
    match m.read pa.toNat with
    | none => .error pa.toNat
    | some b =>
      match Memory.readAll m rest with
      | .error a => .error a
      | .ok bs => .ok (b :: bs)

/-- The number of the cache block that holds a physical address (blocks larger than a page or smaller than a word: log 40). -/
def State.blockOf (s : State) (pa : Nat) : Nat := pa / 2 ^ s.cfg.cacheBlockLog

/-- One byte is stored: its block becomes stale for instruction fetch (70 R661), and an `icbi` of the block that came before no
longer counts: an `icbi` must come between the store and the fetch (20_memory R125, D16; the sets of R661 alone would let the
earlier one count: log 36, DESIGN CHOICE). -/
def State.storeByte (s : State) (pa : Nat) (b : Byte) : State :=
  { s with
    mem := s.mem.write pa b
    staleInsn := addNew (s.blockOf pa) s.staleInsn
    icbiDone := s.icbiDone.filter (fun n => n != s.blockOf pa) }

/-- Bytes are stored at the addresses `pas`, in order. -/
def State.storeAll (s : State) (pas : List Dword) (bytes : List Byte) : State :=
  match pas, bytes with
  | pa :: pas, b :: bytes => (s.storeByte pa.toNat b).storeAll pas bytes
  | [], _ => s
  | _ :: _, [] => s

/-! ## Translation -/

/-- What the translation function reads of the state (92 D10). -/
def State.mmuView (s : State) : MmuView :=
  { ir := s.ir, sr := s.sr, slb := s.slb, tlb := s.tlb, sdr1 := s.sdr1, asr := s.asr, ibat := s.ibat, dbat := s.dbat }

/-- The attributes of an access in real addressing mode (20_memory R100; log 13). -/
def realAttributes : Attributes := { writeThrough := false, inhibited := false, coherent := true, guarded := false }

/-- The TLB with the entry the hardware loads, if it loads one. -/
def fillTlb (tlb : List TlbEntry) (fill : Option TlbEntry) : List TlbEntry :=
  match fill with
  | none => tlb
  | some e => addNew e tlb

/-- The SLB with the entry the hardware loads, if it loads one; it was not written by a move (49 R580). -/
def fillSlb (slb : Vector SlbEntry 16) (fill : Option (BitVec 4 × SlbEntry)) : Vector SlbEntry 16 :=
  match fill with
  | none => slb
  | some (i, e) => slb.set i.toFin.val { e with byMove := false } i.toFin.isLt

/-- The entries that a translation loads (10_state R50, R54). -/
def State.fill (s : State) (x : Xlate) : State :=
  { s with tlb := fillTlb s.tlb x.tlbFill, slb := fillSlb s.slb x.slbFill }

/-- An SLB entry is valid (V, bit 56), maps the segment of `ea` and has T = 1 (bit 57) (10_state R50). -/
def slbDirect (ea : Dword) (e : SlbEntry) : Bool :=
  e.dw0.getMsbD 56 && e.dw0.getMsbD 57 && (slice 36 e.dw0 0 == slice 36 ea 0)

/-- The segment of `ea` is a direct-store segment: T of its segment register (bit 0), or of its SLB entry, or of the segment
table entry that the translation found (10_state R49, R50; 20_memory R103 (b)). -/
def directStore (v : MmuView) (impl64 : Bool) (x : Xlate) (ea : Dword) : Bool :=
  if impl64 then v.slb.toList.any (slbDirect ea) || x.directStore
  else (v.sr.get (slice 4 ea 32).toFin).msb || x.directStore

/-- DSISR bit 6, set in addition for a store (60 R610). -/
def storeStatus (kind : AccessKind) : Word :=
  match kind with
  | .load => 0
  | .store => 0x02000000
  | .fetch => 0

/-- The DSISR bit of a failed translation: 1, 4 or 10 (60 R610); a data access to no-execute memory reports the protection
bit. -/
def dsiStatus (c : XlateCause) : Word :=
  match c with
  | .noTranslation => 0x40000000
  | .protection => 0x08000000
  | .segmentSearch => 0x00200000
  | .noExecute => 0x08000000

/-- A data access at `ea` depends on a context change that is not synchronized (70 R660). After a change of the computation mode
an access depends on it unless it is known to have the same address in both modes (log 14). -/
def State.staleData (s : State) (ea : Dword) : Bool :=
  s.stale.dr || (s.stale.sf && (!s.mode64 || high ea != 0)) ||
    (s.dr && (s.stale.allPages || s.stale.segments.contains (slice 36 ea 0) || s.stale.pages.contains (slice 16 ea 36)))

/-- The physical address that a frame and an effective address make: the 12 low-order bits pass through (20_memory R103). -/
def physical (f : BitVec 52) (ea : Dword) : Dword := f ++ ea.extractLsb' 0 12

/-- Translation of a data address (20_memory R96): the identity in real addressing mode, otherwise the translation function;
a failure raises DSI (60 R610). The entries that the answer names are loaded only where the access translates; that a failing one
loads none is the model's choice (10_state R50; log 41, DESIGN CHOICE). -/
def translateData (s : State) (kind : AccessKind) (ea : Dword) : Access (Dword × Attributes) :=
  if s.staleData ea then .faults .staleTranslation
  else if !s.dr then .ok (ea, realAttributes) s
  else
    let x := Config.translate s.mmuView s.mem kind s.pr ea
    match x.result with
    | .frame f attributes => .ok (physical f ea, attributes) (s.fill x)
    | .fails c => .raises (.dsi ea (dsiStatus c ||| storeStatus kind)) s

/-- The DABR bit that enables matches of this kind: DW for stores, DR for loads (60 R624). -/
def dabrEnables (dabr : Dword) (kind : AccessKind) : Bool :=
  match kind with
  | .load => dabr.getMsbD 63
  | .store => dabr.getMsbD 62
  | .fetch => false

/-- The data address breakpoint matches an access at `ea` (60 R624). -/
def State.dabrMatch (s : State) (kind : AccessKind) (ea : Dword) : Bool :=
  s.cfg.optDabr && (slice 61 ea 0 == slice 61 s.dabr 0) && (s.dr == s.dabr.getMsbD 61) && dabrEnables s.dabr kind

/-- The breakpoint check of an access that translates: DSI with DSISR bit 9 on a match (60 R610, R624); a DABR that is not
synchronized yet is stale (70 R660). -/
def checkBreak (s : State) (kind : AccessKind) (ea : Dword) : Access Unit :=
  if s.cfg.optDabr && s.stale.dabr then .faults .staleTranslation
  else if s.dabrMatch kind ea then .raises (.dsi ea (0x00400000 ||| storeStatus kind)) s
  else .ok () s

/-- Translation of a data address and then the breakpoint check (60 R619 item 8). -/
def reach (s : State) (kind : AccessKind) (ea : Dword) : Access (Dword × Attributes) :=
  (translateData s kind ea).bind fun pa t => (checkBreak t kind ea).bind fun _ u => .ok pa u

/-- `ea` is a multiple of `n`. -/
def alignedTo (ea : Dword) (n : Nat) : Bool := ea.toNat % n == 0

/-- The addresses of the `n` bytes from `pa` on. -/
def bytesFrom (pa : Dword) (n : Nat) : List Dword := (List.range n).map (fun k => pa + BitVec.ofNat 64 k)

/-- The physical addresses of bytes that are accessed one by one, at `ea`, `ea + 1`, ... (20_memory R92, 92 D4). -/
def reachEach (s : State) (kind : AccessKind) (ea : Dword) (n : Nat) : Access (List Dword) :=
  match n with
  | 0 => .ok [] s
  | n + 1 =>
    (reach s kind ea).bind fun pa t =>
      (reachEach t kind (t.ea32 (ea + 1)) n).bind fun pas u => .ok (pa.1 :: pas) u

/-- The physical addresses of the `n` bytes of one aligned access: it is translated once. -/
def reachUnit (s : State) (kind : AccessKind) (ea : Dword) (n : Nat) : Access (List Dword) :=
  (reach s kind ea).bind fun pa t => .ok (bytesFrom pa.1 n) t

/-- The physical addresses of the `n` bytes of a scalar access at `ea`, under the misaligned policy (20_memory R98). -/
def reachScalar (s : State) (kind : AccessKind) (ea : Dword) (n : Nat) : Access (List Dword) :=
  if alignedTo ea n then reachUnit s kind ea n
  else
    match s.cfg.misaligned with
    | .trap => .raises (.alignment ea) s
    | .perform => reachEach s kind ea n

/-- The physical addresses of the `n` bytes of an access that must be aligned (20_memory R97). -/
def reachAligned (s : State) (kind : AccessKind) (ea : Dword) (n : Nat) : Access (List Dword) :=
  if alignedTo ea n then reachUnit s kind ea n else .raises (.alignment ea) s

/-- The bytes at physical addresses. -/
def readAt (pas : List Dword) (s : State) : Access (List Byte) :=
  match s.mem.readAll pas with
  | .ok bytes => .ok bytes s
  | .error a => .faults (.unwrittenRead a)

/-- MemRead(ea, n) of a scalar load (20_memory R90, R96). -/
def loadBytes (s : State) (ea : Dword) (n : Nat) : Access (List Byte) := (reachScalar s .load ea n).bind readAt

/-- MemWrite of a scalar store: nothing is stored unless every byte can be (60 R604). -/
def storeBytes (s : State) (ea : Dword) (bytes : List Byte) : Access Unit :=
  (reachScalar s .store ea bytes.length).bind fun pas t => .ok () (t.storeAll pas bytes)

/-- MemRead of an access that must be aligned. -/
def loadAligned (s : State) (ea : Dword) (n : Nat) : Access (List Byte) := (reachAligned s .load ea n).bind readAt

/-- MemWrite of an access that must be aligned. -/
def storeAligned (s : State) (ea : Dword) (bytes : List Byte) : Access Unit :=
  (reachAligned s .store ea bytes.length).bind fun pas t => .ok () (t.storeAll pas bytes)

end Sys2Proof.Machine
end

