-- ==== Sys2Proof/Syntax.lean ====
section
/-!
DEFINITION. The instruction set as syntax: one constructor for each row of spec/opcode_table.json (229 rows), with the
operands of the row's form (30_encoding R141 to R158) at their exact widths.  Split fields (spr, tbr, sh, mb, me;
R150, R152, R155, R156) stand here as the one number they denote.  A flag field (Rc, OE, LK, AA, L) is a Bool.
-/

namespace Sys2Proof

/-- One constructor per row of spec/opcode_table.json, in the table's order. Register fields are 5 bits, CR fields
3 bits, CR bit numbers 5 bits; immediates keep the width of their instruction field. -/
inductive Instr where
  /-- `add[o][.] rD,rA,rB`: R205 of 40_integer_arithmetic.md. -/
  | addx (rd ra rb : BitVec 5) (oe rc : Bool)
  /-- `addc[o][.] rD,rA,rB`: R206 of 40_integer_arithmetic.md. -/
  | addcx (rd ra rb : BitVec 5) (oe rc : Bool)
  /-- `adde[o][.] rD,rA,rB`: R207 of 40_integer_arithmetic.md. -/
  | addex (rd ra rb : BitVec 5) (oe rc : Bool)
  /-- `addi rD,rA,SIMM`: R203 of 40_integer_arithmetic.md. -/
  | addi (rd ra : BitVec 5) (simm : BitVec 16)
  /-- `addic rD,rA,SIMM`: R208 of 40_integer_arithmetic.md. -/
  | addic (rd ra : BitVec 5) (simm : BitVec 16)
  /-- `addic. rD,rA,SIMM`: R209 of 40_integer_arithmetic.md. -/
  | addicDot (rd ra : BitVec 5) (simm : BitVec 16)
  /-- `addis rD,rA,SIMM`: R204 of 40_integer_arithmetic.md. -/
  | addis (rd ra : BitVec 5) (simm : BitVec 16)
  /-- `addme[o][.] rD,rA`: R210 of 40_integer_arithmetic.md. -/
  | addmex (rd ra : BitVec 5) (oe rc : Bool)
  /-- `addze[o][.] rD,rA`: R211 of 40_integer_arithmetic.md. -/
  | addzex (rd ra : BitVec 5) (oe rc : Bool)
  /-- `subf[o][.] rD,rA,rB`: R212 of 40_integer_arithmetic.md. -/
  | subfx (rd ra rb : BitVec 5) (oe rc : Bool)
  /-- `subfc[o][.] rD,rA,rB`: R213 of 40_integer_arithmetic.md. -/
  | subfcx (rd ra rb : BitVec 5) (oe rc : Bool)
  /-- `subfe[o][.] rD,rA,rB`: R214 of 40_integer_arithmetic.md. -/
  | subfex (rd ra rb : BitVec 5) (oe rc : Bool)
  /-- `subfic rD,rA,SIMM`: R215 of 40_integer_arithmetic.md. -/
  | subfic (rd ra : BitVec 5) (simm : BitVec 16)
  /-- `subfme[o][.] rD,rA`: R216 of 40_integer_arithmetic.md. -/
  | subfmex (rd ra : BitVec 5) (oe rc : Bool)
  /-- `subfze[o][.] rD,rA`: R217 of 40_integer_arithmetic.md. -/
  | subfzex (rd ra : BitVec 5) (oe rc : Bool)
  /-- `neg[o][.] rD,rA`: R218 of 40_integer_arithmetic.md. -/
  | negx (rd ra : BitVec 5) (oe rc : Bool)
  /-- `mulli rD,rA,SIMM`: R219 of 40_integer_arithmetic.md. -/
  | mulli (rd ra : BitVec 5) (simm : BitVec 16)
  /-- `mullw[o][.] rD,rA,rB`: R220 of 40_integer_arithmetic.md. -/
  | mullwx (rd ra rb : BitVec 5) (oe rc : Bool)
  /-- `mulhw[.] rD,rA,rB`: R221 of 40_integer_arithmetic.md. -/
  | mulhwx (rd ra rb : BitVec 5) (rc : Bool)
  /-- `mulhwu[.] rD,rA,rB`: R222 of 40_integer_arithmetic.md. -/
  | mulhwux (rd ra rb : BitVec 5) (rc : Bool)
  /-- `mulld[o][.] rD,rA,rB`: R223 of 40_integer_arithmetic.md. -/
  | mulldx (rd ra rb : BitVec 5) (oe rc : Bool)
  /-- `mulhd[.] rD,rA,rB`: R224 of 40_integer_arithmetic.md. -/
  | mulhdx (rd ra rb : BitVec 5) (rc : Bool)
  /-- `mulhdu[.] rD,rA,rB`: R225 of 40_integer_arithmetic.md. -/
  | mulhdux (rd ra rb : BitVec 5) (rc : Bool)
  /-- `divw[o][.] rD,rA,rB`: R226 of 40_integer_arithmetic.md. -/
  | divwx (rd ra rb : BitVec 5) (oe rc : Bool)
  /-- `divwu[o][.] rD,rA,rB`: R227 of 40_integer_arithmetic.md. -/
  | divwux (rd ra rb : BitVec 5) (oe rc : Bool)
  /-- `divd[o][.] rD,rA,rB`: R228 of 40_integer_arithmetic.md. -/
  | divdx (rd ra rb : BitVec 5) (oe rc : Bool)
  /-- `divdu[o][.] rD,rA,rB`: R229 of 40_integer_arithmetic.md. -/
  | divdux (rd ra rb : BitVec 5) (oe rc : Bool)
  /-- `cmpi crfD,L,rA,SIMM`: R241 of 41_integer_compare_logical.md. -/
  | cmpi (crfd : BitVec 3) (l : Bool) (ra : BitVec 5) (simm : BitVec 16)
  /-- `cmp crfD,L,rA,rB`: R242 of 41_integer_compare_logical.md. -/
  | cmp (crfd : BitVec 3) (l : Bool) (ra rb : BitVec 5)
  /-- `cmpli crfD,L,rA,UIMM`: R243 of 41_integer_compare_logical.md. -/
  | cmpli (crfd : BitVec 3) (l : Bool) (ra : BitVec 5) (uimm : BitVec 16)
  /-- `cmpl crfD,L,rA,rB`: R244 of 41_integer_compare_logical.md. -/
  | cmpl (crfd : BitVec 3) (l : Bool) (ra rb : BitVec 5)
  /-- `andi. rA,rS,UIMM`: R245 of 41_integer_compare_logical.md. -/
  | andiDot (rs ra : BitVec 5) (uimm : BitVec 16)
  /-- `andis. rA,rS,UIMM`: R246 of 41_integer_compare_logical.md. -/
  | andisDot (rs ra : BitVec 5) (uimm : BitVec 16)
  /-- `ori rA,rS,UIMM`: R247 of 41_integer_compare_logical.md. -/
  | ori (rs ra : BitVec 5) (uimm : BitVec 16)
  /-- `oris rA,rS,UIMM`: R248 of 41_integer_compare_logical.md. -/
  | oris (rs ra : BitVec 5) (uimm : BitVec 16)
  /-- `xori rA,rS,UIMM`: R249 of 41_integer_compare_logical.md. -/
  | xori (rs ra : BitVec 5) (uimm : BitVec 16)
  /-- `xoris rA,rS,UIMM`: R250 of 41_integer_compare_logical.md. -/
  | xoris (rs ra : BitVec 5) (uimm : BitVec 16)
  /-- `and[.] rA,rS,rB`: R251 of 41_integer_compare_logical.md. -/
  | andx (rs ra rb : BitVec 5) (rc : Bool)
  /-- `or[.] rA,rS,rB`: R252 of 41_integer_compare_logical.md. -/
  | orx (rs ra rb : BitVec 5) (rc : Bool)
  /-- `xor[.] rA,rS,rB`: R253 of 41_integer_compare_logical.md. -/
  | xorx (rs ra rb : BitVec 5) (rc : Bool)
  /-- `nand[.] rA,rS,rB`: R254 of 41_integer_compare_logical.md. -/
  | nandx (rs ra rb : BitVec 5) (rc : Bool)
  /-- `nor[.] rA,rS,rB`: R255 of 41_integer_compare_logical.md. -/
  | norx (rs ra rb : BitVec 5) (rc : Bool)
  /-- `eqv[.] rA,rS,rB`: R256 of 41_integer_compare_logical.md. -/
  | eqvx (rs ra rb : BitVec 5) (rc : Bool)
  /-- `andc[.] rA,rS,rB`: R257 of 41_integer_compare_logical.md. -/
  | andcx (rs ra rb : BitVec 5) (rc : Bool)
  /-- `orc[.] rA,rS,rB`: R258 of 41_integer_compare_logical.md. -/
  | orcx (rs ra rb : BitVec 5) (rc : Bool)
  /-- `extsb[.] rA,rS`: R259 of 41_integer_compare_logical.md. -/
  | extsbx (rs ra : BitVec 5) (rc : Bool)
  /-- `extsh[.] rA,rS`: R260 of 41_integer_compare_logical.md. -/
  | extshx (rs ra : BitVec 5) (rc : Bool)
  /-- `extsw[.] rA,rS`: R261 of 41_integer_compare_logical.md. -/
  | extswx (rs ra : BitVec 5) (rc : Bool)
  /-- `cntlzw[.] rA,rS`: R262 of 41_integer_compare_logical.md. -/
  | cntlzwx (rs ra : BitVec 5) (rc : Bool)
  /-- `cntlzd[.] rA,rS`: R263 of 41_integer_compare_logical.md. -/
  | cntlzdx (rs ra : BitVec 5) (rc : Bool)
  /-- `rlwinm[.] rA,rS,SH,MB,ME`: R282 of 42_integer_rotate_shift.md. -/
  | rlwinmx (rs ra sh mb me : BitVec 5) (rc : Bool)
  /-- `rlwnm[.] rA,rS,rB,MB,ME`: R283 of 42_integer_rotate_shift.md. -/
  | rlwnmx (rs ra rb mb me : BitVec 5) (rc : Bool)
  /-- `rlwimi[.] rA,rS,SH,MB,ME`: R284 of 42_integer_rotate_shift.md. -/
  | rlwimix (rs ra sh mb me : BitVec 5) (rc : Bool)
  /-- `rldicl[.] rA,rS,SH,MB`: R285 of 42_integer_rotate_shift.md. -/
  | rldiclx (rs ra : BitVec 5) (sh mb : BitVec 6) (rc : Bool)
  /-- `rldicr[.] rA,rS,SH,ME`: R286 of 42_integer_rotate_shift.md. -/
  | rldicrx (rs ra : BitVec 5) (sh me : BitVec 6) (rc : Bool)
  /-- `rldic[.] rA,rS,SH,MB`: R287 of 42_integer_rotate_shift.md. -/
  | rldicx (rs ra : BitVec 5) (sh mb : BitVec 6) (rc : Bool)
  /-- `rldimi[.] rA,rS,SH,MB`: R288 of 42_integer_rotate_shift.md. -/
  | rldimix (rs ra : BitVec 5) (sh mb : BitVec 6) (rc : Bool)
  /-- `rldcl[.] rA,rS,rB,MB`: R289 of 42_integer_rotate_shift.md. -/
  | rldclx (rs ra rb : BitVec 5) (mb : BitVec 6) (rc : Bool)
  /-- `rldcr[.] rA,rS,rB,ME`: R290 of 42_integer_rotate_shift.md. -/
  | rldcrx (rs ra rb : BitVec 5) (me : BitVec 6) (rc : Bool)
  /-- `slw[.] rA,rS,rB`: R291 of 42_integer_rotate_shift.md. -/
  | slwx (rs ra rb : BitVec 5) (rc : Bool)
  /-- `srw[.] rA,rS,rB`: R292 of 42_integer_rotate_shift.md. -/
  | srwx (rs ra rb : BitVec 5) (rc : Bool)
  /-- `sraw[.] rA,rS,rB`: R293 of 42_integer_rotate_shift.md. -/
  | srawx (rs ra rb : BitVec 5) (rc : Bool)
  /-- `srawi[.] rA,rS,SH`: R294 of 42_integer_rotate_shift.md. -/
  | srawix (rs ra sh : BitVec 5) (rc : Bool)
  /-- `sld[.] rA,rS,rB`: R295 of 42_integer_rotate_shift.md. -/
  | sldx (rs ra rb : BitVec 5) (rc : Bool)
  /-- `srd[.] rA,rS,rB`: R296 of 42_integer_rotate_shift.md. -/
  | srdx (rs ra rb : BitVec 5) (rc : Bool)
  /-- `srad[.] rA,rS,rB`: R297 of 42_integer_rotate_shift.md. -/
  | sradx (rs ra rb : BitVec 5) (rc : Bool)
  /-- `sradi[.] rA,rS,SH`: R298 of 42_integer_rotate_shift.md. -/
  | sradix (rs ra : BitVec 5) (sh : BitVec 6) (rc : Bool)
  /-- `fadd[.] frD,frA,frB`: R314 of 43_float_arithmetic.md. -/
  | faddx (frd fra frb : BitVec 5) (rc : Bool)
  /-- `fadds[.] frD,frA,frB`: R315 of 43_float_arithmetic.md. -/
  | faddsx (frd fra frb : BitVec 5) (rc : Bool)
  /-- `fsub[.] frD,frA,frB`: R316 of 43_float_arithmetic.md. -/
  | fsubx (frd fra frb : BitVec 5) (rc : Bool)
  /-- `fsubs[.] frD,frA,frB`: R317 of 43_float_arithmetic.md. -/
  | fsubsx (frd fra frb : BitVec 5) (rc : Bool)
  /-- `fmul[.] frD,frA,frC`: R318 of 43_float_arithmetic.md. -/
  | fmulx (frd fra frc : BitVec 5) (rc : Bool)
  /-- `fmuls[.] frD,frA,frC`: R319 of 43_float_arithmetic.md. -/
  | fmulsx (frd fra frc : BitVec 5) (rc : Bool)
  /-- `fdiv[.] frD,frA,frB`: R320 of 43_float_arithmetic.md. -/
  | fdivx (frd fra frb : BitVec 5) (rc : Bool)
  /-- `fdivs[.] frD,frA,frB`: R321 of 43_float_arithmetic.md. -/
  | fdivsx (frd fra frb : BitVec 5) (rc : Bool)
  /-- `fsqrt[.] frD,frB`: R322 of 43_float_arithmetic.md. -/
  | fsqrtx (frd frb : BitVec 5) (rc : Bool)
  /-- `fsqrts[.] frD,frB`: R323 of 43_float_arithmetic.md. -/
  | fsqrtsx (frd frb : BitVec 5) (rc : Bool)
  /-- `fres[.] frD,frB`: R324 of 43_float_arithmetic.md. -/
  | fresx (frd frb : BitVec 5) (rc : Bool)
  /-- `frsqrte[.] frD,frB`: R325 of 43_float_arithmetic.md. -/
  | frsqrtex (frd frb : BitVec 5) (rc : Bool)
  /-- `fsel[.] frD,frA,frC,frB`: R326 of 43_float_arithmetic.md. -/
  | fselx (frd fra frb frc : BitVec 5) (rc : Bool)
  /-- `fmadd[.] frD,frA,frC,frB`: R327 of 43_float_arithmetic.md. -/
  | fmaddx (frd fra frb frc : BitVec 5) (rc : Bool)
  /-- `fmadds[.] frD,frA,frC,frB`: R328 of 43_float_arithmetic.md. -/
  | fmaddsx (frd fra frb frc : BitVec 5) (rc : Bool)
  /-- `fmsub[.] frD,frA,frC,frB`: R329 of 43_float_arithmetic.md. -/
  | fmsubx (frd fra frb frc : BitVec 5) (rc : Bool)
  /-- `fmsubs[.] frD,frA,frC,frB`: R330 of 43_float_arithmetic.md. -/
  | fmsubsx (frd fra frb frc : BitVec 5) (rc : Bool)
  /-- `fnmadd[.] frD,frA,frC,frB`: R331 of 43_float_arithmetic.md. -/
  | fnmaddx (frd fra frb frc : BitVec 5) (rc : Bool)
  /-- `fnmadds[.] frD,frA,frC,frB`: R332 of 43_float_arithmetic.md. -/
  | fnmaddsx (frd fra frb frc : BitVec 5) (rc : Bool)
  /-- `fnmsub[.] frD,frA,frC,frB`: R333 of 43_float_arithmetic.md. -/
  | fnmsubx (frd fra frb frc : BitVec 5) (rc : Bool)
  /-- `fnmsubs[.] frD,frA,frC,frB`: R334 of 43_float_arithmetic.md. -/
  | fnmsubsx (frd fra frb frc : BitVec 5) (rc : Bool)
  /-- `fmr[.] frD,frB`: R351 of 44_float_move_convert_fpscr.md. -/
  | fmrx (frd frb : BitVec 5) (rc : Bool)
  /-- `fneg[.] frD,frB`: R352 of 44_float_move_convert_fpscr.md. -/
  | fnegx (frd frb : BitVec 5) (rc : Bool)
  /-- `fabs[.] frD,frB`: R353 of 44_float_move_convert_fpscr.md. -/
  | fabsx (frd frb : BitVec 5) (rc : Bool)
  /-- `fnabs[.] frD,frB`: R354 of 44_float_move_convert_fpscr.md. -/
  | fnabsx (frd frb : BitVec 5) (rc : Bool)
  /-- `frsp[.] frD,frB`: R355 of 44_float_move_convert_fpscr.md. -/
  | frspx (frd frb : BitVec 5) (rc : Bool)
  /-- `fctiw[.] frD,frB`: R356 of 44_float_move_convert_fpscr.md. -/
  | fctiwx (frd frb : BitVec 5) (rc : Bool)
  /-- `fctiwz[.] frD,frB`: R357 of 44_float_move_convert_fpscr.md. -/
  | fctiwzx (frd frb : BitVec 5) (rc : Bool)
  /-- `fctid[.] frD,frB`: R358 of 44_float_move_convert_fpscr.md. -/
  | fctidx (frd frb : BitVec 5) (rc : Bool)
  /-- `fctidz[.] frD,frB`: R359 of 44_float_move_convert_fpscr.md. -/
  | fctidzx (frd frb : BitVec 5) (rc : Bool)
  /-- `fcfid[.] frD,frB`: R360 of 44_float_move_convert_fpscr.md. -/
  | fcfidx (frd frb : BitVec 5) (rc : Bool)
  /-- `fcmpu crfD,frA,frB`: R361 of 44_float_move_convert_fpscr.md. -/
  | fcmpu (crfd : BitVec 3) (fra frb : BitVec 5)
  /-- `fcmpo crfD,frA,frB`: R362 of 44_float_move_convert_fpscr.md. -/
  | fcmpo (crfd : BitVec 3) (fra frb : BitVec 5)
  /-- `mffs[.] frD`: R363 of 44_float_move_convert_fpscr.md. -/
  | mffsx (frd : BitVec 5) (rc : Bool)
  /-- `mcrfs crfD,crfS`: R364 of 44_float_move_convert_fpscr.md. -/
  | mcrfs (crfd crfs : BitVec 3)
  /-- `mtfsf[.] FM,frB`: R365 of 44_float_move_convert_fpscr.md. -/
  | mtfsfx (fm : BitVec 8) (frb : BitVec 5) (rc : Bool)
  /-- `mtfsfi[.] crfD,IMM`: R366 of 44_float_move_convert_fpscr.md. -/
  | mtfsfix (crfd : BitVec 3) (imm : BitVec 4) (rc : Bool)
  /-- `mtfsb0[.] crbD`: R367 of 44_float_move_convert_fpscr.md. -/
  | mtfsb0x (crbd : BitVec 5) (rc : Bool)
  /-- `mtfsb1[.] crbD`: R368 of 44_float_move_convert_fpscr.md. -/
  | mtfsb1x (crbd : BitVec 5) (rc : Bool)
  /-- `lbz rD,d(rA)`: R381 of 45_load_store_integer.md. -/
  | lbz (rd ra : BitVec 5) (d : BitVec 16)
  /-- `lbzu rD,d(rA)`: R382 of 45_load_store_integer.md. -/
  | lbzu (rd ra : BitVec 5) (d : BitVec 16)
  /-- `lbzx rD,rA,rB`: R383 of 45_load_store_integer.md. -/
  | lbzx (rd ra rb : BitVec 5)
  /-- `lbzux rD,rA,rB`: R384 of 45_load_store_integer.md. -/
  | lbzux (rd ra rb : BitVec 5)
  /-- `lhz rD,d(rA)`: R385 of 45_load_store_integer.md. -/
  | lhz (rd ra : BitVec 5) (d : BitVec 16)
  /-- `lhzu rD,d(rA)`: R386 of 45_load_store_integer.md. -/
  | lhzu (rd ra : BitVec 5) (d : BitVec 16)
  /-- `lhzx rD,rA,rB`: R387 of 45_load_store_integer.md. -/
  | lhzx (rd ra rb : BitVec 5)
  /-- `lhzux rD,rA,rB`: R388 of 45_load_store_integer.md. -/
  | lhzux (rd ra rb : BitVec 5)
  /-- `lha rD,d(rA)`: R389 of 45_load_store_integer.md. -/
  | lha (rd ra : BitVec 5) (d : BitVec 16)
  /-- `lhau rD,d(rA)`: R390 of 45_load_store_integer.md. -/
  | lhau (rd ra : BitVec 5) (d : BitVec 16)
  /-- `lhax rD,rA,rB`: R391 of 45_load_store_integer.md. -/
  | lhax (rd ra rb : BitVec 5)
  /-- `lhaux rD,rA,rB`: R392 of 45_load_store_integer.md. -/
  | lhaux (rd ra rb : BitVec 5)
  /-- `lwz rD,d(rA)`: R393 of 45_load_store_integer.md. -/
  | lwz (rd ra : BitVec 5) (d : BitVec 16)
  /-- `lwzu rD,d(rA)`: R394 of 45_load_store_integer.md. -/
  | lwzu (rd ra : BitVec 5) (d : BitVec 16)
  /-- `lwzx rD,rA,rB`: R395 of 45_load_store_integer.md. -/
  | lwzx (rd ra rb : BitVec 5)
  /-- `lwzux rD,rA,rB`: R396 of 45_load_store_integer.md. -/
  | lwzux (rd ra rb : BitVec 5)
  /-- `lwa rD,ds(rA)`: R397 of 45_load_store_integer.md. -/
  | lwa (rd ra : BitVec 5) (ds : BitVec 14)
  /-- `lwax rD,rA,rB`: R398 of 45_load_store_integer.md. -/
  | lwax (rd ra rb : BitVec 5)
  /-- `lwaux rD,rA,rB`: R399 of 45_load_store_integer.md. -/
  | lwaux (rd ra rb : BitVec 5)
  /-- `ld rD,ds(rA)`: R400 of 45_load_store_integer.md. -/
  | ld (rd ra : BitVec 5) (ds : BitVec 14)
  /-- `ldu rD,ds(rA)`: R401 of 45_load_store_integer.md. -/
  | ldu (rd ra : BitVec 5) (ds : BitVec 14)
  /-- `ldx rD,rA,rB`: R402 of 45_load_store_integer.md. -/
  | ldx (rd ra rb : BitVec 5)
  /-- `ldux rD,rA,rB`: R403 of 45_load_store_integer.md. -/
  | ldux (rd ra rb : BitVec 5)
  /-- `stb rS,d(rA)`: R404 of 45_load_store_integer.md. -/
  | stb (rs ra : BitVec 5) (d : BitVec 16)
  /-- `stbu rS,d(rA)`: R405 of 45_load_store_integer.md. -/
  | stbu (rs ra : BitVec 5) (d : BitVec 16)
  /-- `stbx rS,rA,rB`: R406 of 45_load_store_integer.md. -/
  | stbx (rs ra rb : BitVec 5)
  /-- `stbux rS,rA,rB`: R407 of 45_load_store_integer.md. -/
  | stbux (rs ra rb : BitVec 5)
  /-- `sth rS,d(rA)`: R408 of 45_load_store_integer.md. -/
  | sth (rs ra : BitVec 5) (d : BitVec 16)
  /-- `sthu rS,d(rA)`: R409 of 45_load_store_integer.md. -/
  | sthu (rs ra : BitVec 5) (d : BitVec 16)
  /-- `sthx rS,rA,rB`: R410 of 45_load_store_integer.md. -/
  | sthx (rs ra rb : BitVec 5)
  /-- `sthux rS,rA,rB`: R411 of 45_load_store_integer.md. -/
  | sthux (rs ra rb : BitVec 5)
  /-- `stw rS,d(rA)`: R412 of 45_load_store_integer.md. -/
  | stw (rs ra : BitVec 5) (d : BitVec 16)
  /-- `stwu rS,d(rA)`: R413 of 45_load_store_integer.md. -/
  | stwu (rs ra : BitVec 5) (d : BitVec 16)
  /-- `stwx rS,rA,rB`: R414 of 45_load_store_integer.md. -/
  | stwx (rs ra rb : BitVec 5)
  /-- `stwux rS,rA,rB`: R415 of 45_load_store_integer.md. -/
  | stwux (rs ra rb : BitVec 5)
  /-- `std rS,ds(rA)`: R416 of 45_load_store_integer.md. -/
  | std (rs ra : BitVec 5) (ds : BitVec 14)
  /-- `stdu rS,ds(rA)`: R417 of 45_load_store_integer.md. -/
  | stdu (rs ra : BitVec 5) (ds : BitVec 14)
  /-- `stdx rS,rA,rB`: R418 of 45_load_store_integer.md. -/
  | stdx (rs ra rb : BitVec 5)
  /-- `stdux rS,rA,rB`: R419 of 45_load_store_integer.md. -/
  | stdux (rs ra rb : BitVec 5)
  /-- `lhbrx rD,rA,rB`: R420 of 45_load_store_integer.md. -/
  | lhbrx (rd ra rb : BitVec 5)
  /-- `lwbrx rD,rA,rB`: R421 of 45_load_store_integer.md. -/
  | lwbrx (rd ra rb : BitVec 5)
  /-- `sthbrx rS,rA,rB`: R422 of 45_load_store_integer.md. -/
  | sthbrx (rs ra rb : BitVec 5)
  /-- `stwbrx rS,rA,rB`: R423 of 45_load_store_integer.md. -/
  | stwbrx (rs ra rb : BitVec 5)
  /-- `lmw rD,d(rA)`: R424 of 45_load_store_integer.md. -/
  | lmw (rd ra : BitVec 5) (d : BitVec 16)
  /-- `stmw rS,d(rA)`: R425 of 45_load_store_integer.md. -/
  | stmw (rs ra : BitVec 5) (d : BitVec 16)
  /-- `lswi rD,rA,NB`: R426 of 45_load_store_integer.md. -/
  | lswi (rd ra nb : BitVec 5)
  /-- `lswx rD,rA,rB`: R427 of 45_load_store_integer.md. -/
  | lswx (rd ra rb : BitVec 5)
  /-- `stswi rS,rA,NB`: R428 of 45_load_store_integer.md. -/
  | stswi (rs ra nb : BitVec 5)
  /-- `stswx rS,rA,rB`: R429 of 45_load_store_integer.md. -/
  | stswx (rs ra rb : BitVec 5)
  /-- `lfs frD,d(rA)`: R453 of 46_load_store_float.md. -/
  | lfs (frd ra : BitVec 5) (d : BitVec 16)
  /-- `lfsu frD,d(rA)`: R454 of 46_load_store_float.md. -/
  | lfsu (frd ra : BitVec 5) (d : BitVec 16)
  /-- `lfsx frD,rA,rB`: R455 of 46_load_store_float.md. -/
  | lfsx (frd ra rb : BitVec 5)
  /-- `lfsux frD,rA,rB`: R456 of 46_load_store_float.md. -/
  | lfsux (frd ra rb : BitVec 5)
  /-- `lfd frD,d(rA)`: R457 of 46_load_store_float.md. -/
  | lfd (frd ra : BitVec 5) (d : BitVec 16)
  /-- `lfdu frD,d(rA)`: R458 of 46_load_store_float.md. -/
  | lfdu (frd ra : BitVec 5) (d : BitVec 16)
  /-- `lfdx frD,rA,rB`: R459 of 46_load_store_float.md. -/
  | lfdx (frd ra rb : BitVec 5)
  /-- `lfdux frD,rA,rB`: R460 of 46_load_store_float.md. -/
  | lfdux (frd ra rb : BitVec 5)
  /-- `stfs frS,d(rA)`: R461 of 46_load_store_float.md. -/
  | stfs (frs ra : BitVec 5) (d : BitVec 16)
  /-- `stfsu frS,d(rA)`: R462 of 46_load_store_float.md. -/
  | stfsu (frs ra : BitVec 5) (d : BitVec 16)
  /-- `stfsx frS,rA,rB`: R463 of 46_load_store_float.md. -/
  | stfsx (frs ra rb : BitVec 5)
  /-- `stfsux frS,rA,rB`: R464 of 46_load_store_float.md. -/
  | stfsux (frs ra rb : BitVec 5)
  /-- `stfd frS,d(rA)`: R465 of 46_load_store_float.md. -/
  | stfd (frs ra : BitVec 5) (d : BitVec 16)
  /-- `stfdu frS,d(rA)`: R466 of 46_load_store_float.md. -/
  | stfdu (frs ra : BitVec 5) (d : BitVec 16)
  /-- `stfdx frS,rA,rB`: R467 of 46_load_store_float.md. -/
  | stfdx (frs ra rb : BitVec 5)
  /-- `stfdux frS,rA,rB`: R468 of 46_load_store_float.md. -/
  | stfdux (frs ra rb : BitVec 5)
  /-- `stfiwx frS,rA,rB`: R469 of 46_load_store_float.md. -/
  | stfiwx (frs ra rb : BitVec 5)
  /-- `b[l][a] target_addr`: R481 of 47_branch_cr_trap.md. -/
  | bx (li : BitVec 24) (aa lk : Bool)
  /-- `bc[l][a] BO,BI,target_addr`: R482 of 47_branch_cr_trap.md. -/
  | bcx (bo bi : BitVec 5) (bd : BitVec 14) (aa lk : Bool)
  /-- `bclr[l] BO,BI`: R483 of 47_branch_cr_trap.md. -/
  | bclrx (bo bi : BitVec 5) (lk : Bool)
  /-- `bcctr[l] BO,BI`: R484 of 47_branch_cr_trap.md. -/
  | bcctrx (bo bi : BitVec 5) (lk : Bool)
  /-- `crand crbD,crbA,crbB`: R485 of 47_branch_cr_trap.md. -/
  | crand (crbd crba crbb : BitVec 5)
  /-- `cror crbD,crbA,crbB`: R486 of 47_branch_cr_trap.md. -/
  | cror (crbd crba crbb : BitVec 5)
  /-- `crxor crbD,crbA,crbB`: R487 of 47_branch_cr_trap.md. -/
  | crxor (crbd crba crbb : BitVec 5)
  /-- `crnand crbD,crbA,crbB`: R488 of 47_branch_cr_trap.md. -/
  | crnand (crbd crba crbb : BitVec 5)
  /-- `crnor crbD,crbA,crbB`: R489 of 47_branch_cr_trap.md. -/
  | crnor (crbd crba crbb : BitVec 5)
  /-- `creqv crbD,crbA,crbB`: R490 of 47_branch_cr_trap.md. -/
  | creqv (crbd crba crbb : BitVec 5)
  /-- `crandc crbD,crbA,crbB`: R491 of 47_branch_cr_trap.md. -/
  | crandc (crbd crba crbb : BitVec 5)
  /-- `crorc crbD,crbA,crbB`: R492 of 47_branch_cr_trap.md. -/
  | crorc (crbd crba crbb : BitVec 5)
  /-- `mcrf crfD,crfS`: R493 of 47_branch_cr_trap.md. -/
  | mcrf (crfd crfs : BitVec 3)
  /-- `sc`: R494 of 47_branch_cr_trap.md. -/
  | sc
  /-- `rfi`: R495 of 47_branch_cr_trap.md. -/
  | rfi
  /-- `rfid`: R496 of 47_branch_cr_trap.md. -/
  | rfid
  /-- `tw TO,rA,rB`: R497 of 47_branch_cr_trap.md. -/
  | tw (tof ra rb : BitVec 5)
  /-- `twi TO,rA,SIMM`: R498 of 47_branch_cr_trap.md. -/
  | twi (tof ra : BitVec 5) (simm : BitVec 16)
  /-- `td TO,rA,rB`: R499 of 47_branch_cr_trap.md. -/
  | td (tof ra rb : BitVec 5)
  /-- `tdi TO,rA,SIMM`: R500 of 47_branch_cr_trap.md. -/
  | tdi (tof ra : BitVec 5) (simm : BitVec 16)
  /-- `mfcr rD`: R521 of 48_processor_control.md. -/
  | mfcr (rd : BitVec 5)
  /-- `mtcrf CRM,rS`: R522 of 48_processor_control.md. -/
  | mtcrf (rs : BitVec 5) (crm : BitVec 8)
  /-- `mcrxr crfD`: R523 of 48_processor_control.md. -/
  | mcrxr (crfd : BitVec 3)
  /-- `mfmsr rD`: R524 of 48_processor_control.md. -/
  | mfmsr (rd : BitVec 5)
  /-- `mtmsr rS`: R525 of 48_processor_control.md. -/
  | mtmsr (rs : BitVec 5)
  /-- `mtmsrd rS`: R526 of 48_processor_control.md. -/
  | mtmsrd (rs : BitVec 5)
  /-- `mfspr rD,SPR`: R528 of 48_processor_control.md. -/
  | mfspr (rd : BitVec 5) (spr : BitVec 10)
  /-- `mtspr SPR,rS`: R529 of 48_processor_control.md. -/
  | mtspr (rs : BitVec 5) (spr : BitVec 10)
  /-- `mftb rD,TBR`: R530 of 48_processor_control.md. -/
  | mftb (rd : BitVec 5) (tbr : BitVec 10)
  /-- `sync`: R550 of 49_sync_cache_segment_tlb.md. -/
  | sync
  /-- `isync`: R551 of 49_sync_cache_segment_tlb.md. -/
  | isync
  /-- `eieio`: R552 of 49_sync_cache_segment_tlb.md. -/
  | eieio
  /-- `lwarx rD,rA,rB`: R553 of 49_sync_cache_segment_tlb.md. -/
  | lwarx (rd ra rb : BitVec 5)
  /-- `ldarx rD,rA,rB`: R554 of 49_sync_cache_segment_tlb.md. -/
  | ldarx (rd ra rb : BitVec 5)
  /-- `stwcx. rS,rA,rB`: R555 of 49_sync_cache_segment_tlb.md. -/
  | stwcxDot (rs ra rb : BitVec 5)
  /-- `stdcx. rS,rA,rB`: R556 of 49_sync_cache_segment_tlb.md. -/
  | stdcxDot (rs ra rb : BitVec 5)
  /-- `dcbt rA,rB`: R561 of 49_sync_cache_segment_tlb.md. -/
  | dcbt (ra rb : BitVec 5)
  /-- `dcbtst rA,rB`: R562 of 49_sync_cache_segment_tlb.md. -/
  | dcbtst (ra rb : BitVec 5)
  /-- `dcbst rA,rB`: R563 of 49_sync_cache_segment_tlb.md. -/
  | dcbst (ra rb : BitVec 5)
  /-- `dcbf rA,rB`: R564 of 49_sync_cache_segment_tlb.md. -/
  | dcbf (ra rb : BitVec 5)
  /-- `dcbi rA,rB`: R565 of 49_sync_cache_segment_tlb.md. -/
  | dcbi (ra rb : BitVec 5)
  /-- `dcba rA,rB`: R566 of 49_sync_cache_segment_tlb.md. -/
  | dcba (ra rb : BitVec 5)
  /-- `dcbz rA,rB`: R567 of 49_sync_cache_segment_tlb.md. -/
  | dcbz (ra rb : BitVec 5)
  /-- `icbi rA,rB`: R568 of 49_sync_cache_segment_tlb.md. -/
  | icbi (ra rb : BitVec 5)
  /-- `eciwx rD,rA,rB`: R569 of 49_sync_cache_segment_tlb.md. -/
  | eciwx (rd ra rb : BitVec 5)
  /-- `ecowx rS,rA,rB`: R570 of 49_sync_cache_segment_tlb.md. -/
  | ecowx (rs ra rb : BitVec 5)
  /-- `mfsr rD,SR`: R581 of 49_sync_cache_segment_tlb.md. -/
  | mfsr (rd : BitVec 5) (sr : BitVec 4)
  /-- `mfsrin rD,rB`: R582 of 49_sync_cache_segment_tlb.md. -/
  | mfsrin (rd rb : BitVec 5)
  /-- `mtsr SR,rS`: R584 of 49_sync_cache_segment_tlb.md. -/
  | mtsr (rs : BitVec 5) (sr : BitVec 4)
  /-- `mtsrin rS,rB`: R585 of 49_sync_cache_segment_tlb.md. -/
  | mtsrin (rs rb : BitVec 5)
  /-- `mtsrd SR,rS`: R586 of 49_sync_cache_segment_tlb.md. -/
  | mtsrd (rs : BitVec 5) (sr : BitVec 4)
  /-- `mtsrdin rS,rB`: R587 of 49_sync_cache_segment_tlb.md. -/
  | mtsrdin (rs rb : BitVec 5)
  /-- `slbia`: R588 of 49_sync_cache_segment_tlb.md. -/
  | slbia
  /-- `slbie rB`: R589 of 49_sync_cache_segment_tlb.md. -/
  | slbie (rb : BitVec 5)
  /-- `tlbia`: R590 of 49_sync_cache_segment_tlb.md. -/
  | tlbia
  /-- `tlbie rB`: R591 of 49_sync_cache_segment_tlb.md. -/
  | tlbie (rb : BitVec 5)
  /-- `tlbsync`: R592 of 49_sync_cache_segment_tlb.md. -/
  | tlbsync
  deriving DecidableEq, Repr

end Sys2Proof
end

