-- ==== Sys2Proof/Machine/Boundary.lean ====
section
/-!
DEFINITION. The instruction boundary: what the outside world does there (60 R616, R617, R621, R629; 49 R557; 70 R661) and the
recognition of pending exceptions (60 R615, R618, R619).
-/

namespace Sys2Proof.Machine

/-- `n` ticks: the time base counts up, the decrementer down; passing from 0 makes the decrementer exception pending (60 R617,
R621). -/
def State.tick (s : State) (n : Nat) : State :=
  { s with
    tb := s.tb + BitVec.ofNat 64 n
    dec := s.dec - BitVec.ofNat 32 n
    decPending := s.decPending || decide (s.dec.toNat < n) }

/-- The base-2 logarithm of RESERVATION_GRANULE_BYTES, which is at least 4, and 8 on a 64-bit implementation (00_scope R8). -/
def granuleExponent (c : Config) : Nat := max c.granuleLog (if c.impl64 then 3 else 2)

/-- The number of the reservation granule that holds a physical address (49 R557). -/
def State.granuleOf (s : State) (pa : Nat) : Nat := pa / 2 ^ granuleExponent s.cfg

/-- Another agent stores one byte: a reservation of its granule is lost (49 R557). -/
def State.otherStore (s : State) (c : Host.Cell) : State :=
  let pa := BitVec.ofNat 64 c.1
  let t := s.storeByte pa.toNat c.2
  if t.granuleOf t.reserveAddr.toNat = t.granuleOf pa.toNat then { t with reserve := false } else t

/-- Other agents' stores, in order. -/
def State.otherStores (s : State) (cells : List Host.Cell) : State := cells.foldl State.otherStore s

/-- The TLB without the entries of page index `page`, in every segment (49 R591). -/
def dropPage (tlb : List TlbEntry) (page : BitVec 16) : List TlbEntry := tlb.filter (fun e => e.page != page)

/-- What one boundary record does. -/
def State.applyBoundary (s : State) (b : Boundary) : State :=
  let t := (s.tick b.ticks).otherStores b.stores
  { t with
    extInt := b.extInt
    resetPending := t.resetPending || b.reset
    mcheckPending := t.mcheckPending || b.mcheck
    reserve := t.reserve && !b.loseReservation
    tlb := b.tlbies.foldl dropPage t.tlb
    icbiDone := b.icbis.foldl (fun l n => addNew n l) t.icbiDone }

/-- The outside world acts: the next boundary record, if there is one. -/
def State.environment (s : State) : State :=
  match s.env with
  | [] => s
  | b :: rest => State.applyBoundary { s with env := rest } b

/-- The pending exception that the boundary takes, if any, highest priority first (60 R615, R619). A request for a system reset or
a machine check is latched and dropped when its exception is entered; the spec shows no clearing of it (log 37, DESIGN CHOICE). -/
def recognise (s : State) : Option Result :=
  if s.resetPending then some (raise .systemReset { s with resetPending := false })
  else if s.mcheckPending then
    some (if s.me then raise .machineCheck { s with mcheckPending := false } else .fault .checkstop)
  else if s.fpPending && s.fpscr.getMsbD 1 && s.fe then some (raise (.program .fpEnabled) s)
  else if s.extInt && s.ee then some (raise .external s)
  else if s.decPending && s.ee then some (raise .decrementer { s with decPending := false })
  else if s.tracePending then some (raise .trace s)
  else none

/-- The branch instructions, which MSR[BE] traces (60 R618). -/
def isBranch (i : Instr) : Bool :=
  match i with
  | .bx _ _ _ => true
  | .bcx _ _ _ _ _ => true
  | .bclrx _ _ _ => true
  | .bcctrx _ _ _ => true
  | _ => false

/-- The returns, after which MSR[SE] takes no trace (60 R618). -/
def isReturn (i : Instr) : Bool :=
  match i with
  | .rfi => true
  | .rfid => true
  | _ => false

/-- Instruction `i` has led to `t`: with OPT_TRACE, a trace exception is due if MSR[SE] or, for branches, MSR[BE] is set
(60 R618). (An exception clears both, so none is due after one.) -/
def State.noteTrace (t : State) (i : Instr) : State :=
  if t.cfg.optTrace && ((t.se && !isReturn i) || (t.be && isBranch i)) then { t with tracePending := true } else t

/-- Instruction `i` of state `s` has led to `t` by mere sequence over the end of the 32-bit address space, while a change of the
computation mode is not synchronized: in 64-bit mode the next fetch would be elsewhere, so it depends on the change (70 R660). A
branch notes its own target. -/
def State.noteWrap (t s : State) (i : Instr) : State :=
  if t.stale.sf && !isBranch i && s.nia == 0xFFFFFFFC && t.nia == 0 then { t with stale := { t.stale with sfCut := true } } else t

/-- The outcome of instruction `i` of state `s`, with the wrap and the trace noted. -/
def afterInstr (i : Instr) (s : State) (r : Result) : Result :=
  match r with
  | .next t => .next ((t.noteWrap s i).noteTrace i)
  | .fault f => .fault f
  | .refused f => .refused f

end Sys2Proof.Machine
end

