-- ==== Sys2Proof/Machine/Flags.lean ====
section
/-!
DEFINITION. The condition register, the XER and the FPSCR: their bits and fields, and every flag computation the
instructions share (10_state R34 to R37, R45; 40 R201, R202).
-/

namespace Sys2Proof.Machine

/-! ## XER -/

/-- XER[SO], bit 0. -/
def State.so (s : State) : Bool := s.xer.getMsbD 0
/-- XER[OV], bit 1. -/
def State.ov (s : State) : Bool := s.xer.getMsbD 1
/-- XER[CA], bit 2. -/
def State.ca (s : State) : Bool := s.xer.getMsbD 2
/-- XER[25:31], the byte count of lswx and stswx. -/
def State.xerCount (s : State) : Nat := (s.xer.setWidth 7).toNat

/-- XER[CA] <- c. -/
def State.setCa (s : State) (c : Bool) : State := { s with xer := putBit s.xer 2 c }

/-- `set_OV` (10_state R37): OV <- v, and SO <- 1 when v; SO is never cleared. -/
def State.setOv (s : State) (v : Bool) : State :=
  { s with xer := if v then putBit (putBit s.xer 1 true) 0 true else putBit s.xer 1 false }

/-! ## CR -/

/-- CR[i]. -/
def State.crBit (s : State) (i : BitVec 5) : Bool := s.cr.getMsbD i.toNat

/-- CR[i] <- v. -/
def State.setCrBit (s : State) (i : BitVec 5) (v : Bool) : State := { s with cr := putBit s.cr i.toNat v }

/-- CR field f: CR[4f:4f+3]. -/
def State.crField (s : State) (f : BitVec 3) : BitVec 4 := slice 4 s.cr (4 * f.toNat)

/-- A word whose field `f` is `v`, the rest 0. -/
def fieldWord (f : BitVec 3) (v : BitVec 4) : Word := v.setWidth 32 <<< (28 - 4 * f.toNat)

/-- A word with field `f` replaced by `v`. -/
def putField (w : Word) (f : BitVec 3) (v : BitVec 4) : Word := merge (fieldWord f 0xF) (fieldWord f v) w

/-- CR field f <- v. -/
def State.setCrField (s : State) (f : BitVec 3) (v : BitVec 4) : State := { s with cr := putField s.cr f v }

/-- Four flags as a CR field, the first the most significant. -/
def fourBits (a b c d : Bool) : BitVec 4 := BitVec.ofBool a ++ BitVec.ofBool b ++ BitVec.ofBool c ++ BitVec.ofBool d

/-- LT, GT, EQ of a comparison, and SO (10_state R34). -/
def orderField (lt gt so : Bool) : BitVec 4 := fourBits lt gt (!lt && !gt) so

/-- LT, GT, EQ of a result compared with zero as a signed number, and SO; `wide` says whether all 64 bits count (10_state R35). -/
def signField (wide : Bool) (v : Dword) (so : Bool) : BitVec 4 :=
  if wide then orderField (v.slt 0) ((0 : Dword).slt v) so else orderField ((low v).slt 0) ((0 : Word).slt (low v)) so

/-- `record_CR0` (10_state R35). -/
def State.recordCr0 (s : State) (v : Dword) : State := s.setCrField 0 (signField s.mode64 v s.so)

/-- `record_CR0` when Rc = 1. -/
def State.recordIf (s : State) (rc : Bool) (v : Dword) : State := if rc then s.recordCr0 v else s

/-- CR[0:2] <- UNDEF(3) and CR[3] <- XER[SO] (40 R221, R226). -/
def State.recordUndefined (s : State) : State := (s.setCrField 0 (s.draw 3 ++ BitVec.ofBool s.so)).drew

/-! ## Addition -/

/-- What `add3` computes (40 R201): the sum, the carry and the overflow. -/
structure AddResult where
  sum : Dword
  ca : Bool
  ov : Bool
  deriving DecidableEq, Repr

/-- The carry out of a `w`-bit three-term sum (40 R201). -/
def carryOut {w : Nat} (x y : BitVec w) (c : Bool) : Bool := decide (2 ^ w ≤ x.toNat + y.toNat + c.toNat)

/-- The signed overflow of a `w`-bit three-term sum (40 R202). -/
def signedOverflow {w : Nat} (x y sum : BitVec w) : Bool := (x.msb == y.msb) && (sum.msb != x.msb)

/-- `add3` (40 R201): the sum over all 64 bits; carry and overflow over 64 bits when `wide`, else over the low word. -/
def add3 (wide : Bool) (x y : Dword) (c : Bool) : AddResult :=
  let sum := x + y + BitVec.ofNat 64 c.toNat
  if wide then { sum := sum, ca := carryOut x y c, ov := signedOverflow x y sum }
  else { sum := sum, ca := carryOut (low x) (low y) c, ov := signedOverflow (low x) (low y) (low sum) }

/-! ## FPSCR -/

/-- FPSCR[VX] (10_state R45): the OR of the invalid-operation bits 7 to 12 and 21 to 23. -/
def fpscrVx (f : Word) : Bool := (f &&& 0x01F80700) != 0

/-- FPSCR[FEX] (10_state R45), with the summary VX given: (VX & VE) | (OX & OE) | (UX & UE) | (ZX & ZE) | (XX & XE). -/
def fpscrFex (vx : Bool) (f : Word) : Bool :=
  (vx && f.getMsbD 24) || (f.getMsbD 3 && f.getMsbD 25) || (f.getMsbD 4 && f.getMsbD 26) ||
    (f.getMsbD 5 && f.getMsbD 27) || (f.getMsbD 6 && f.getMsbD 28)

/-- The FPSCR with its summary bits FEX and VX recomputed from the others (10_state R45). -/
def fpscrSummary (f : Word) : Word := putBit (putBit f 2 (fpscrVx f)) 1 (fpscrFex (fpscrVx f) f)

/-- FPSCR <- f, its summary bits recomputed. -/
def State.setFpscr (s : State) (f : Word) : State := { s with fpscr := fpscrSummary f }

/-- The exception bits that FX summarises: 3 to 12 and 21 to 23 (10_state R45). -/
def fpscrExceptions : Word := 0x1FF80700

/-- FX is set when an exception bit goes from 0 to 1 (10_state R45). -/
def withFx (before after : Word) : Word :=
  if after &&& ~~~ before &&& fpscrExceptions = 0 then after else putBit after 0 true

/-- CR1 <- FPSCR[0:3] (10_state R34). -/
def State.recordCr1 (s : State) : State := s.setCrField 1 (slice 4 s.fpscr 0)

/-- The same when Rc = 1. -/
def State.recordCr1If (s : State) (rc : Bool) : State := if rc then s.recordCr1 else s

end Sys2Proof.Machine
end

