-- ==== Sys2Proof/WellFormed.lean ====
section
/-!
DEFINITION. Well-formed instructions: the field combinations that 30_encoding R165 does not declare an invalid form.
The fields' ranges are in their types; these are the relations between fields, and the one form (L = 1) that depends on
the implementation's width.
-/

namespace Sys2Proof

/-- How many bytes `lswi` and `stswi` move: NB, or 32 when NB = 0 (45 R426, R428). -/
def stringCount (nb : BitVec 5) : Nat := if nb.toNat = 0 then 32 else nb.toNat

/-- Register `r` is one of the `n` registers that start at `first` and wrap from 31 to 0 (R165). -/
def inWrappedRange (r first : BitVec 5) (n : Nat) : Bool := decide ((r - first).toNat < n)

/-- Update loads: rA = 0 and rA = rD are invalid (R165). -/
def updateLoadOk (rd ra : BitVec 5) : Bool := ra != 0 && ra != rd

/-- Update stores and floating-point update loads: rA = 0 is invalid (R165). -/
def updateOk (ra : BitVec 5) : Bool := ra != 0

/-- Compares: L = 1 is invalid on a 32-bit implementation (R165). -/
def compareOk (impl64 l : Bool) : Bool := impl64 || !l

/-- The instruction is no invalid form on an implementation whose width is 64 bits (`impl64`) or 32 (R165). -/
def Instr.wellFormed (impl64 : Bool) (i : Instr) : Bool :=
  match i with
  | .addx _ _ _ _ _ => true
  | .addcx _ _ _ _ _ => true
  | .addex _ _ _ _ _ => true
  | .addi _ _ _ => true
  | .addic _ _ _ => true
  | .addicDot _ _ _ => true
  | .addis _ _ _ => true
  | .addmex _ _ _ _ => true
  | .addzex _ _ _ _ => true
  | .subfx _ _ _ _ _ => true
  | .subfcx _ _ _ _ _ => true
  | .subfex _ _ _ _ _ => true
  | .subfic _ _ _ => true
  | .subfmex _ _ _ _ => true
  | .subfzex _ _ _ _ => true
  | .negx _ _ _ _ => true
  | .mulli _ _ _ => true
  | .mullwx _ _ _ _ _ => true
  | .mulhwx _ _ _ _ => true
  | .mulhwux _ _ _ _ => true
  | .mulldx _ _ _ _ _ => true
  | .mulhdx _ _ _ _ => true
  | .mulhdux _ _ _ _ => true
  | .divwx _ _ _ _ _ => true
  | .divwux _ _ _ _ _ => true
  | .divdx _ _ _ _ _ => true
  | .divdux _ _ _ _ _ => true
  | .cmpi _ l _ _ => compareOk impl64 l
  | .cmp _ l _ _ => compareOk impl64 l
  | .cmpli _ l _ _ => compareOk impl64 l
  | .cmpl _ l _ _ => compareOk impl64 l
  | .andiDot _ _ _ => true
  | .andisDot _ _ _ => true
  | .ori _ _ _ => true
  | .oris _ _ _ => true
  | .xori _ _ _ => true
  | .xoris _ _ _ => true
  | .andx _ _ _ _ => true
  | .orx _ _ _ _ => true
  | .xorx _ _ _ _ => true
  | .nandx _ _ _ _ => true
  | .norx _ _ _ _ => true
  | .eqvx _ _ _ _ => true
  | .andcx _ _ _ _ => true
  | .orcx _ _ _ _ => true
  | .extsbx _ _ _ => true
  | .extshx _ _ _ => true
  | .extswx _ _ _ => true
  | .cntlzwx _ _ _ => true
  | .cntlzdx _ _ _ => true
  | .rlwinmx _ _ _ _ _ _ => true
  | .rlwnmx _ _ _ _ _ _ => true
  | .rlwimix _ _ _ _ _ _ => true
  | .rldiclx _ _ _ _ _ => true
  | .rldicrx _ _ _ _ _ => true
  | .rldicx _ _ _ _ _ => true
  | .rldimix _ _ _ _ _ => true
  | .rldclx _ _ _ _ _ => true
  | .rldcrx _ _ _ _ _ => true
  | .slwx _ _ _ _ => true
  | .srwx _ _ _ _ => true
  | .srawx _ _ _ _ => true
  | .srawix _ _ _ _ => true
  | .sldx _ _ _ _ => true
  | .srdx _ _ _ _ => true
  | .sradx _ _ _ _ => true
  | .sradix _ _ _ _ => true
  | .faddx _ _ _ _ => true
  | .faddsx _ _ _ _ => true
  | .fsubx _ _ _ _ => true
  | .fsubsx _ _ _ _ => true
  | .fmulx _ _ _ _ => true
  | .fmulsx _ _ _ _ => true
  | .fdivx _ _ _ _ => true
  | .fdivsx _ _ _ _ => true
  | .fsqrtx _ _ _ => true
  | .fsqrtsx _ _ _ => true
  | .fresx _ _ _ => true
  | .frsqrtex _ _ _ => true
  | .fselx _ _ _ _ _ => true
  | .fmaddx _ _ _ _ _ => true
  | .fmaddsx _ _ _ _ _ => true
  | .fmsubx _ _ _ _ _ => true
  | .fmsubsx _ _ _ _ _ => true
  | .fnmaddx _ _ _ _ _ => true
  | .fnmaddsx _ _ _ _ _ => true
  | .fnmsubx _ _ _ _ _ => true
  | .fnmsubsx _ _ _ _ _ => true
  | .fmrx _ _ _ => true
  | .fnegx _ _ _ => true
  | .fabsx _ _ _ => true
  | .fnabsx _ _ _ => true
  | .frspx _ _ _ => true
  | .fctiwx _ _ _ => true
  | .fctiwzx _ _ _ => true
  | .fctidx _ _ _ => true
  | .fctidzx _ _ _ => true
  | .fcfidx _ _ _ => true
  | .fcmpu _ _ _ => true
  | .fcmpo _ _ _ => true
  | .mffsx _ _ => true
  | .mcrfs _ _ => true
  | .mtfsfx _ _ _ => true
  | .mtfsfix _ _ _ => true
  | .mtfsb0x _ _ => true
  | .mtfsb1x _ _ => true
  | .lbz _ _ _ => true
  | .lbzu rd ra _ => updateLoadOk rd ra
  | .lbzx _ _ _ => true
  | .lbzux rd ra _ => updateLoadOk rd ra
  | .lhz _ _ _ => true
  | .lhzu rd ra _ => updateLoadOk rd ra
  | .lhzx _ _ _ => true
  | .lhzux rd ra _ => updateLoadOk rd ra
  | .lha _ _ _ => true
  | .lhau rd ra _ => updateLoadOk rd ra
  | .lhax _ _ _ => true
  | .lhaux rd ra _ => updateLoadOk rd ra
  | .lwz _ _ _ => true
  | .lwzu rd ra _ => updateLoadOk rd ra
  | .lwzx _ _ _ => true
  | .lwzux rd ra _ => updateLoadOk rd ra
  | .lwa _ _ _ => true
  | .lwax _ _ _ => true
  | .lwaux rd ra _ => updateLoadOk rd ra
  | .ld _ _ _ => true
  | .ldu rd ra _ => updateLoadOk rd ra
  | .ldx _ _ _ => true
  | .ldux rd ra _ => updateLoadOk rd ra
  | .stb _ _ _ => true
  | .stbu _ ra _ => updateOk ra
  | .stbx _ _ _ => true
  | .stbux _ ra _ => updateOk ra
  | .sth _ _ _ => true
  | .sthu _ ra _ => updateOk ra
  | .sthx _ _ _ => true
  | .sthux _ ra _ => updateOk ra
  | .stw _ _ _ => true
  | .stwu _ ra _ => updateOk ra
  | .stwx _ _ _ => true
  | .stwux _ ra _ => updateOk ra
  | .std _ _ _ => true
  | .stdu _ ra _ => updateOk ra
  | .stdx _ _ _ => true
  | .stdux _ ra _ => updateOk ra
  | .lhbrx _ _ _ => true
  | .lwbrx _ _ _ => true
  | .sthbrx _ _ _ => true
  | .stwbrx _ _ _ => true
  | .lmw rd ra _ => decide (ra.toNat < rd.toNat)
  | .stmw _ _ _ => true
  | .lswi rd ra nb => !inWrappedRange ra rd ((stringCount nb + 3) / 4)
  | .lswx rd ra rb => rd != ra && rd != rb
  | .stswi _ _ _ => true
  | .stswx _ _ _ => true
  | .lfs _ _ _ => true
  | .lfsu _ ra _ => updateOk ra
  | .lfsx _ _ _ => true
  | .lfsux _ ra _ => updateOk ra
  | .lfd _ _ _ => true
  | .lfdu _ ra _ => updateOk ra
  | .lfdx _ _ _ => true
  | .lfdux _ ra _ => updateOk ra
  | .stfs _ _ _ => true
  | .stfsu _ ra _ => updateOk ra
  | .stfsx _ _ _ => true
  | .stfsux _ ra _ => updateOk ra
  | .stfd _ _ _ => true
  | .stfdu _ ra _ => updateOk ra
  | .stfdx _ _ _ => true
  | .stfdux _ ra _ => updateOk ra
  | .stfiwx _ _ _ => true
  | .bx _ _ _ => true
  | .bcx _ _ _ _ _ => true
  | .bclrx _ _ _ => true
  | .bcctrx bo _ _ => bo.getMsbD 2
  | .crand _ _ _ => true
  | .cror _ _ _ => true
  | .crxor _ _ _ => true
  | .crnand _ _ _ => true
  | .crnor _ _ _ => true
  | .creqv _ _ _ => true
  | .crandc _ _ _ => true
  | .crorc _ _ _ => true
  | .mcrf _ _ => true
  | .sc => true
  | .rfi => true
  | .rfid => true
  | .tw _ _ _ => true
  | .twi _ _ _ => true
  | .td _ _ _ => true
  | .tdi _ _ _ => true
  | .mfcr _ => true
  | .mtcrf _ _ => true
  | .mcrxr _ => true
  | .mfmsr _ => true
  | .mtmsr _ => true
  | .mtmsrd _ => true
  | .mfspr _ _ => true
  | .mtspr _ _ => true
  | .mftb _ _ => true
  | .sync => true
  | .isync => true
  | .eieio => true
  | .lwarx _ _ _ => true
  | .ldarx _ _ _ => true
  | .stwcxDot _ _ _ => true
  | .stdcxDot _ _ _ => true
  | .dcbt _ _ => true
  | .dcbtst _ _ => true
  | .dcbst _ _ => true
  | .dcbf _ _ => true
  | .dcbi _ _ => true
  | .dcba _ _ => true
  | .dcbz _ _ => true
  | .icbi _ _ => true
  | .eciwx _ _ _ => true
  | .ecowx _ _ _ => true
  | .mfsr _ _ => true
  | .mfsrin _ _ => true
  | .mtsr _ _ => true
  | .mtsrin _ _ => true
  | .mtsrd _ _ => true
  | .mtsrdin _ _ => true
  | .slbia => true
  | .slbie _ => true
  | .tlbia => true
  | .tlbie _ => true
  | .tlbsync => true

end Sys2Proof
end

