-- ==== Sys2Proof/Machine/Guards.lean ====
section
/-!
DEFINITION. The checks that come before an instruction's effect, in the order of 60 R619: existence (30 R166, R167; 60 R606),
floating-point availability (60 R609), privilege (30 R168; 60 R607; 48 R527), invalid form (30 R165).
-/

namespace Sys2Proof.Machine

/-- On which implementations an instruction exists (30 R166, R167). -/
inductive Existence where
  | always
  | only64
  | fsqrt
  | fres
  | frsqrte
  | fsel
  | stfiwx
  | dcba
  | extctl
  | tlbia
  | tlbie
  | tlbsync
  | slbia
  | slbie
  /-- mfsr, mfsrin, mtsr, mtsrin: 32-bit implementations and the bridge. -/
  | segmentMoves
  /-- mtmsr, rfi: 32-bit implementations and the bridge's option. -/
  | mtmsrRfi
  /-- mtsrd, mtsrdin: 64-bit implementations with the bridge's option. -/
  | mtsrd
  deriving DecidableEq, Repr

/-- Who may execute an instruction (30 R168; 48 R527, R530). -/
inductive Privilege where
  | user
  | supervisor
  /-- mfspr (`write` false) and mtspr (`write` true): by the register named. -/
  | bySpr (n : BitVec 10) (write : Bool)
  /-- mftb: by the register named. -/
  | byTbr (n : BitVec 10)
  deriving DecidableEq, Repr

/-- What an instruction needs before it may execute. -/
structure Requirement where
  existence : Existence
  fp : Bool
  privilege : Privilege
  deriving DecidableEq, Repr

/-- The instruction exists on this implementation. -/
def existsOn (c : Config) (e : Existence) : Bool :=
  match e with
  | .always => true
  | .only64 => c.impl64
  | .fsqrt => c.optFsqrt
  | .fres => c.optFres
  | .frsqrte => c.optFrsqrte
  | .fsel => c.optFsel
  | .stfiwx => c.optStfiwx
  | .dcba => c.optDcba
  | .extctl => c.optExtctl
  | .tlbia => c.optTlbia
  | .tlbie => c.optTlbie
  | .tlbsync => c.optTlbsync
  | .slbia => c.impl64 && c.optSlbia
  | .slbie => c.impl64 && c.optSlbie
  | .segmentMoves => !c.impl64 || c.bridge
  | .mtmsrRfi => !c.impl64 || c.bridgeMtmsrRfi
  | .mtsrd => c.impl64 && c.bridge && c.bridgeMtsrd

/-- The SPR numbers defined for reading and for writing alike (10_state R43; 48 R527 (b)). -/
def sprBoth (c : Config) (n : Nat) : Bool :=
  n == 1 || n == 8 || n == 9 || n == 18 || n == 19 || n == 22 || n == 25 || n == 26 || n == 27 ||
    (272 ≤ n && n ≤ 275) || (n == 280 && c.impl64) || (n == 282 && c.optExtctl) || (528 ≤ n && n ≤ 543) || n == 1013

/-- The SPR number is defined for this direction (48 R527 (b)): PVR is read only, TBL and TBU are written only. -/
def sprDefined (c : Config) (n : Nat) (write : Bool) : Bool :=
  sprBoth c n || (if write then n == 284 || n == 285 else n == 287)

/-- sup(n) of 48 R527 (c): the number's bit of value 16. -/
def sprSupervisor (n : BitVec 10) : Bool := n.getLsbD 4

/-- The privilege check, and for register moves `spr_check` (48 R527 (d), R530). An undefined SPR or TBR number raises here, at
decode, as 60 R606 says, and so before a reserved bit of the word is looked at, although 30 R165 lists such a number with the
invalid forms, which come after the reserved bits (log 28, DESIGN CHOICE). -/
def checkPrivilege (s : State) (p : Privilege) : Option Exc :=
  match p with
  | .user => none
  | .supervisor => if s.pr then some (.program .privileged) else none
  | .bySpr n write =>
    if sprSupervisor n && s.pr then some (.program .privileged)
    else if sprDefined s.cfg n.toNat write then none
    else some (.program .illegal)
  | .byTbr n =>
    if n.toNat == 268 || n.toNat == 269 then none
    else if sprSupervisor n && s.pr then some (.program .privileged)
    else some (.program .illegal)

/-- The exception, if any, that an instruction with this requirement raises before its form is looked at (60 R619 items 2
to 4). -/
def checkRequirement (s : State) (r : Requirement) : Option Exc :=
  if !existsOn s.cfg r.existence then some (.program .illegal)
  else if r.fp && !s.fpOn then some .fpUnavailable
  else checkPrivilege s r.privilege

/-- What each instruction needs. -/
def requirement (i : Instr) : Requirement :=
  match i with
  | .addx _ _ _ _ _ => ⟨.always, false, .user⟩
  | .addcx _ _ _ _ _ => ⟨.always, false, .user⟩
  | .addex _ _ _ _ _ => ⟨.always, false, .user⟩
  | .addi _ _ _ => ⟨.always, false, .user⟩
  | .addic _ _ _ => ⟨.always, false, .user⟩
  | .addicDot _ _ _ => ⟨.always, false, .user⟩
  | .addis _ _ _ => ⟨.always, false, .user⟩
  | .addmex _ _ _ _ => ⟨.always, false, .user⟩
  | .addzex _ _ _ _ => ⟨.always, false, .user⟩
  | .subfx _ _ _ _ _ => ⟨.always, false, .user⟩
  | .subfcx _ _ _ _ _ => ⟨.always, false, .user⟩
  | .subfex _ _ _ _ _ => ⟨.always, false, .user⟩
  | .subfic _ _ _ => ⟨.always, false, .user⟩
  | .subfmex _ _ _ _ => ⟨.always, false, .user⟩
  | .subfzex _ _ _ _ => ⟨.always, false, .user⟩
  | .negx _ _ _ _ => ⟨.always, false, .user⟩
  | .mulli _ _ _ => ⟨.always, false, .user⟩
  | .mullwx _ _ _ _ _ => ⟨.always, false, .user⟩
  | .mulhwx _ _ _ _ => ⟨.always, false, .user⟩
  | .mulhwux _ _ _ _ => ⟨.always, false, .user⟩
  | .mulldx _ _ _ _ _ => ⟨.only64, false, .user⟩
  | .mulhdx _ _ _ _ => ⟨.only64, false, .user⟩
  | .mulhdux _ _ _ _ => ⟨.only64, false, .user⟩
  | .divwx _ _ _ _ _ => ⟨.always, false, .user⟩
  | .divwux _ _ _ _ _ => ⟨.always, false, .user⟩
  | .divdx _ _ _ _ _ => ⟨.only64, false, .user⟩
  | .divdux _ _ _ _ _ => ⟨.only64, false, .user⟩
  | .cmpi _ _ _ _ => ⟨.always, false, .user⟩
  | .cmp _ _ _ _ => ⟨.always, false, .user⟩
  | .cmpli _ _ _ _ => ⟨.always, false, .user⟩
  | .cmpl _ _ _ _ => ⟨.always, false, .user⟩
  | .andiDot _ _ _ => ⟨.always, false, .user⟩
  | .andisDot _ _ _ => ⟨.always, false, .user⟩
  | .ori _ _ _ => ⟨.always, false, .user⟩
  | .oris _ _ _ => ⟨.always, false, .user⟩
  | .xori _ _ _ => ⟨.always, false, .user⟩
  | .xoris _ _ _ => ⟨.always, false, .user⟩
  | .andx _ _ _ _ => ⟨.always, false, .user⟩
  | .orx _ _ _ _ => ⟨.always, false, .user⟩
  | .xorx _ _ _ _ => ⟨.always, false, .user⟩
  | .nandx _ _ _ _ => ⟨.always, false, .user⟩
  | .norx _ _ _ _ => ⟨.always, false, .user⟩
  | .eqvx _ _ _ _ => ⟨.always, false, .user⟩
  | .andcx _ _ _ _ => ⟨.always, false, .user⟩
  | .orcx _ _ _ _ => ⟨.always, false, .user⟩
  | .extsbx _ _ _ => ⟨.always, false, .user⟩
  | .extshx _ _ _ => ⟨.always, false, .user⟩
  | .extswx _ _ _ => ⟨.only64, false, .user⟩
  | .cntlzwx _ _ _ => ⟨.always, false, .user⟩
  | .cntlzdx _ _ _ => ⟨.only64, false, .user⟩
  | .rlwinmx _ _ _ _ _ _ => ⟨.always, false, .user⟩
  | .rlwnmx _ _ _ _ _ _ => ⟨.always, false, .user⟩
  | .rlwimix _ _ _ _ _ _ => ⟨.always, false, .user⟩
  | .rldiclx _ _ _ _ _ => ⟨.only64, false, .user⟩
  | .rldicrx _ _ _ _ _ => ⟨.only64, false, .user⟩
  | .rldicx _ _ _ _ _ => ⟨.only64, false, .user⟩
  | .rldimix _ _ _ _ _ => ⟨.only64, false, .user⟩
  | .rldclx _ _ _ _ _ => ⟨.only64, false, .user⟩
  | .rldcrx _ _ _ _ _ => ⟨.only64, false, .user⟩
  | .slwx _ _ _ _ => ⟨.always, false, .user⟩
  | .srwx _ _ _ _ => ⟨.always, false, .user⟩
  | .srawx _ _ _ _ => ⟨.always, false, .user⟩
  | .srawix _ _ _ _ => ⟨.always, false, .user⟩
  | .sldx _ _ _ _ => ⟨.only64, false, .user⟩
  | .srdx _ _ _ _ => ⟨.only64, false, .user⟩
  | .sradx _ _ _ _ => ⟨.only64, false, .user⟩
  | .sradix _ _ _ _ => ⟨.only64, false, .user⟩
  | .faddx _ _ _ _ => ⟨.always, true, .user⟩
  | .faddsx _ _ _ _ => ⟨.always, true, .user⟩
  | .fsubx _ _ _ _ => ⟨.always, true, .user⟩
  | .fsubsx _ _ _ _ => ⟨.always, true, .user⟩
  | .fmulx _ _ _ _ => ⟨.always, true, .user⟩
  | .fmulsx _ _ _ _ => ⟨.always, true, .user⟩
  | .fdivx _ _ _ _ => ⟨.always, true, .user⟩
  | .fdivsx _ _ _ _ => ⟨.always, true, .user⟩
  | .fsqrtx _ _ _ => ⟨.fsqrt, true, .user⟩
  | .fsqrtsx _ _ _ => ⟨.fsqrt, true, .user⟩
  | .fresx _ _ _ => ⟨.fres, true, .user⟩
  | .frsqrtex _ _ _ => ⟨.frsqrte, true, .user⟩
  | .fselx _ _ _ _ _ => ⟨.fsel, true, .user⟩
  | .fmaddx _ _ _ _ _ => ⟨.always, true, .user⟩
  | .fmaddsx _ _ _ _ _ => ⟨.always, true, .user⟩
  | .fmsubx _ _ _ _ _ => ⟨.always, true, .user⟩
  | .fmsubsx _ _ _ _ _ => ⟨.always, true, .user⟩
  | .fnmaddx _ _ _ _ _ => ⟨.always, true, .user⟩
  | .fnmaddsx _ _ _ _ _ => ⟨.always, true, .user⟩
  | .fnmsubx _ _ _ _ _ => ⟨.always, true, .user⟩
  | .fnmsubsx _ _ _ _ _ => ⟨.always, true, .user⟩
  | .fmrx _ _ _ => ⟨.always, true, .user⟩
  | .fnegx _ _ _ => ⟨.always, true, .user⟩
  | .fabsx _ _ _ => ⟨.always, true, .user⟩
  | .fnabsx _ _ _ => ⟨.always, true, .user⟩
  | .frspx _ _ _ => ⟨.always, true, .user⟩
  | .fctiwx _ _ _ => ⟨.always, true, .user⟩
  | .fctiwzx _ _ _ => ⟨.always, true, .user⟩
  | .fctidx _ _ _ => ⟨.only64, true, .user⟩
  | .fctidzx _ _ _ => ⟨.only64, true, .user⟩
  | .fcfidx _ _ _ => ⟨.only64, true, .user⟩
  | .fcmpu _ _ _ => ⟨.always, true, .user⟩
  | .fcmpo _ _ _ => ⟨.always, true, .user⟩
  | .mffsx _ _ => ⟨.always, true, .user⟩
  | .mcrfs _ _ => ⟨.always, true, .user⟩
  | .mtfsfx _ _ _ => ⟨.always, true, .user⟩
  | .mtfsfix _ _ _ => ⟨.always, true, .user⟩
  | .mtfsb0x _ _ => ⟨.always, true, .user⟩
  | .mtfsb1x _ _ => ⟨.always, true, .user⟩
  | .lbz _ _ _ => ⟨.always, false, .user⟩
  | .lbzu _ _ _ => ⟨.always, false, .user⟩
  | .lbzx _ _ _ => ⟨.always, false, .user⟩
  | .lbzux _ _ _ => ⟨.always, false, .user⟩
  | .lhz _ _ _ => ⟨.always, false, .user⟩
  | .lhzu _ _ _ => ⟨.always, false, .user⟩
  | .lhzx _ _ _ => ⟨.always, false, .user⟩
  | .lhzux _ _ _ => ⟨.always, false, .user⟩
  | .lha _ _ _ => ⟨.always, false, .user⟩
  | .lhau _ _ _ => ⟨.always, false, .user⟩
  | .lhax _ _ _ => ⟨.always, false, .user⟩
  | .lhaux _ _ _ => ⟨.always, false, .user⟩
  | .lwz _ _ _ => ⟨.always, false, .user⟩
  | .lwzu _ _ _ => ⟨.always, false, .user⟩
  | .lwzx _ _ _ => ⟨.always, false, .user⟩
  | .lwzux _ _ _ => ⟨.always, false, .user⟩
  | .lwa _ _ _ => ⟨.only64, false, .user⟩
  | .lwax _ _ _ => ⟨.only64, false, .user⟩
  | .lwaux _ _ _ => ⟨.only64, false, .user⟩
  | .ld _ _ _ => ⟨.only64, false, .user⟩
  | .ldu _ _ _ => ⟨.only64, false, .user⟩
  | .ldx _ _ _ => ⟨.only64, false, .user⟩
  | .ldux _ _ _ => ⟨.only64, false, .user⟩
  | .stb _ _ _ => ⟨.always, false, .user⟩
  | .stbu _ _ _ => ⟨.always, false, .user⟩
  | .stbx _ _ _ => ⟨.always, false, .user⟩
  | .stbux _ _ _ => ⟨.always, false, .user⟩
  | .sth _ _ _ => ⟨.always, false, .user⟩
  | .sthu _ _ _ => ⟨.always, false, .user⟩
  | .sthx _ _ _ => ⟨.always, false, .user⟩
  | .sthux _ _ _ => ⟨.always, false, .user⟩
  | .stw _ _ _ => ⟨.always, false, .user⟩
  | .stwu _ _ _ => ⟨.always, false, .user⟩
  | .stwx _ _ _ => ⟨.always, false, .user⟩
  | .stwux _ _ _ => ⟨.always, false, .user⟩
  | .std _ _ _ => ⟨.only64, false, .user⟩
  | .stdu _ _ _ => ⟨.only64, false, .user⟩
  | .stdx _ _ _ => ⟨.only64, false, .user⟩
  | .stdux _ _ _ => ⟨.only64, false, .user⟩
  | .lhbrx _ _ _ => ⟨.always, false, .user⟩
  | .lwbrx _ _ _ => ⟨.always, false, .user⟩
  | .sthbrx _ _ _ => ⟨.always, false, .user⟩
  | .stwbrx _ _ _ => ⟨.always, false, .user⟩
  | .lmw _ _ _ => ⟨.always, false, .user⟩
  | .stmw _ _ _ => ⟨.always, false, .user⟩
  | .lswi _ _ _ => ⟨.always, false, .user⟩
  | .lswx _ _ _ => ⟨.always, false, .user⟩
  | .stswi _ _ _ => ⟨.always, false, .user⟩
  | .stswx _ _ _ => ⟨.always, false, .user⟩
  | .lfs _ _ _ => ⟨.always, true, .user⟩
  | .lfsu _ _ _ => ⟨.always, true, .user⟩
  | .lfsx _ _ _ => ⟨.always, true, .user⟩
  | .lfsux _ _ _ => ⟨.always, true, .user⟩
  | .lfd _ _ _ => ⟨.always, true, .user⟩
  | .lfdu _ _ _ => ⟨.always, true, .user⟩
  | .lfdx _ _ _ => ⟨.always, true, .user⟩
  | .lfdux _ _ _ => ⟨.always, true, .user⟩
  | .stfs _ _ _ => ⟨.always, true, .user⟩
  | .stfsu _ _ _ => ⟨.always, true, .user⟩
  | .stfsx _ _ _ => ⟨.always, true, .user⟩
  | .stfsux _ _ _ => ⟨.always, true, .user⟩
  | .stfd _ _ _ => ⟨.always, true, .user⟩
  | .stfdu _ _ _ => ⟨.always, true, .user⟩
  | .stfdx _ _ _ => ⟨.always, true, .user⟩
  | .stfdux _ _ _ => ⟨.always, true, .user⟩
  | .stfiwx _ _ _ => ⟨.stfiwx, true, .user⟩
  | .bx _ _ _ => ⟨.always, false, .user⟩
  | .bcx _ _ _ _ _ => ⟨.always, false, .user⟩
  | .bclrx _ _ _ => ⟨.always, false, .user⟩
  | .bcctrx _ _ _ => ⟨.always, false, .user⟩
  | .crand _ _ _ => ⟨.always, false, .user⟩
  | .cror _ _ _ => ⟨.always, false, .user⟩
  | .crxor _ _ _ => ⟨.always, false, .user⟩
  | .crnand _ _ _ => ⟨.always, false, .user⟩
  | .crnor _ _ _ => ⟨.always, false, .user⟩
  | .creqv _ _ _ => ⟨.always, false, .user⟩
  | .crandc _ _ _ => ⟨.always, false, .user⟩
  | .crorc _ _ _ => ⟨.always, false, .user⟩
  | .mcrf _ _ => ⟨.always, false, .user⟩
  | .sc => ⟨.always, false, .user⟩
  | .rfi => ⟨.mtmsrRfi, false, .supervisor⟩
  | .rfid => ⟨.only64, false, .supervisor⟩
  | .tw _ _ _ => ⟨.always, false, .user⟩
  | .twi _ _ _ => ⟨.always, false, .user⟩
  | .td _ _ _ => ⟨.only64, false, .user⟩
  | .tdi _ _ _ => ⟨.only64, false, .user⟩
  | .mfcr _ => ⟨.always, false, .user⟩
  | .mtcrf _ _ => ⟨.always, false, .user⟩
  | .mcrxr _ => ⟨.always, false, .user⟩
  | .mfmsr _ => ⟨.always, false, .supervisor⟩
  | .mtmsr _ => ⟨.mtmsrRfi, false, .supervisor⟩
  | .mtmsrd _ => ⟨.only64, false, .supervisor⟩
  | .mfspr _ spr => ⟨.always, false, (.bySpr spr false)⟩
  | .mtspr _ spr => ⟨.always, false, (.bySpr spr true)⟩
  | .mftb _ tbr => ⟨.always, false, (.byTbr tbr)⟩
  | .sync => ⟨.always, false, .user⟩
  | .isync => ⟨.always, false, .user⟩
  | .eieio => ⟨.always, false, .user⟩
  | .lwarx _ _ _ => ⟨.always, false, .user⟩
  | .ldarx _ _ _ => ⟨.only64, false, .user⟩
  | .stwcxDot _ _ _ => ⟨.always, false, .user⟩
  | .stdcxDot _ _ _ => ⟨.only64, false, .user⟩
  | .dcbt _ _ => ⟨.always, false, .user⟩
  | .dcbtst _ _ => ⟨.always, false, .user⟩
  | .dcbst _ _ => ⟨.always, false, .user⟩
  | .dcbf _ _ => ⟨.always, false, .user⟩
  | .dcbi _ _ => ⟨.always, false, .supervisor⟩
  | .dcba _ _ => ⟨.dcba, false, .user⟩
  | .dcbz _ _ => ⟨.always, false, .user⟩
  | .icbi _ _ => ⟨.always, false, .user⟩
  | .eciwx _ _ _ => ⟨.extctl, false, .user⟩
  | .ecowx _ _ _ => ⟨.extctl, false, .user⟩
  | .mfsr _ _ => ⟨.segmentMoves, false, .supervisor⟩
  | .mfsrin _ _ => ⟨.segmentMoves, false, .supervisor⟩
  | .mtsr _ _ => ⟨.segmentMoves, false, .supervisor⟩
  | .mtsrin _ _ => ⟨.segmentMoves, false, .supervisor⟩
  | .mtsrd _ _ => ⟨.mtsrd, false, .supervisor⟩
  | .mtsrdin _ _ => ⟨.mtsrd, false, .supervisor⟩
  | .slbia => ⟨.slbia, false, .supervisor⟩
  | .slbie _ => ⟨.slbie, false, .supervisor⟩
  | .tlbia => ⟨.tlbia, false, .supervisor⟩
  | .tlbie _ => ⟨.tlbie, false, .supervisor⟩
  | .tlbsync => ⟨.tlbsync, false, .supervisor⟩

/-- The checks of 60 R619 items 2 to 4 for instruction `i`. -/
def preCheck (i : Instr) (s : State) : Option Exc := checkRequirement s (requirement i)

/-- The instruction is in no invalid form (30 R165). -/
def formOk (i : Instr) (s : State) : Bool := i.wellFormed s.cfg.impl64

/-- The checks of instruction `i` in the order of 60 R619 (items 2 to 4 and 6), and then its effect `k`. -/
def guarded (i : Instr) (s : State) (k : Result) : Result :=
  match preCheck i s with
  | some e => raise e s
  | none => if formOk i s then k else .fault .invalidForm

end Sys2Proof.Machine
end

