-- ==== Sys2Proof/Machine/Operands.lean ====
section
/-!
DEFINITION. Operand forms: immediates (30_encoding R158), the (rA|0) operand (10_state R30) and effective addresses
(20_memory R93).
-/

namespace Sys2Proof.Machine

/-- EXTS of a 16-bit immediate. -/
def extSimm (simm : BitVec 16) : Dword := simm.signExtend 64

/-- A 16-bit immediate zero-extended. -/
def extUimm (uimm : BitVec 16) : Dword := uimm.setWidth 64

/-- EXTS(SIMM || 0x0000), the operand of addis (40 R204). -/
def extShifted (simm : BitVec 16) : Dword := (simm ++ (0 : BitVec 16)).signExtend 64

/-- A 16-bit immediate in bits 32:47, as andis., oris and xoris use it (41 R246, R248, R250). -/
def extUimmShifted (uimm : BitVec 16) : Dword := uimm.setWidth 64 <<< 16

/-- EXTS(ds || 0b00) (20_memory R93). -/
def extDs (ds : BitVec 14) : Dword := (ds ++ (0 : BitVec 2)).signExtend 64

/-- (rA|0): 0 when the field is 0, else GPR[rA] (10_state R30). -/
def State.gprOrZero (s : State) (ra : BitVec 5) : Dword := if ra = 0 then 0 else s.getGpr ra

/-- The XLEN-bit sum that a D-form access computes; the update form writes it to rA (20_memory R93). -/
def sumD (s : State) (ra : BitVec 5) (d : BitVec 16) : Dword := s.gprOrZero ra + extSimm d

/-- The same of a DS-form access. -/
def sumDs (s : State) (ra : BitVec 5) (ds : BitVec 14) : Dword := s.gprOrZero ra + extDs ds

/-- The same of an X-form access. -/
def sumX (s : State) (ra rb : BitVec 5) : Dword := s.gprOrZero ra + s.getGpr rb

/-- The effective address of a D-form access: the high-order word counts in 64-bit mode only. (An update form has rA ≠ 0, so
(rA|0) is (rA) there.) -/
def eaD (s : State) (ra : BitVec 5) (d : BitVec 16) : Dword := s.ea32 (sumD s ra d)

/-- The effective address of a DS-form access. -/
def eaDs (s : State) (ra : BitVec 5) (ds : BitVec 14) : Dword := s.ea32 (sumDs s ra ds)

/-- The effective address of an X-form access. -/
def eaX (s : State) (ra rb : BitVec 5) : Dword := s.ea32 (sumX s ra rb)

/-- The effective address of lswi and stswi: (rA|0). -/
def eaR (s : State) (ra : BitVec 5) : Dword := s.ea32 (s.gprOrZero ra)

end Sys2Proof.Machine
end

