-- ==== Sys2Proof/Machine/Arithmetic.lean ====
section
/-!
DEFINITION. Integer arithmetic instructions (40_integer_arithmetic R200 to R229).
-/

namespace Sys2Proof.Machine

/-! ## Shared operations -/

/-- The end of an adding instruction, in the order of R200: rD, CA (when `carries`), OV and SO (when OE), CR0 (when Rc). -/
def finishAdd (rd : BitVec 5) (carries oe rc : Bool) (r : AddResult) (s : State) : Result :=
  let s1 := s.setGpr rd r.sum
  let s2 := if carries then s1.setCa r.ca else s1
  let s3 := if oe then s2.setOv r.ov else s2
  done (s3.recordIf rc r.sum)

/-- The end of an instruction whose result is defined in full: rD, OV and SO (when OE), CR0 (when Rc). -/
def finishResult (rd : BitVec 5) (oe rc ov : Bool) (v : Dword) (s : State) : Result :=
  let s1 := s.setGpr rd v
  let s2 := if oe then s1.setOv ov else s1
  done (s2.recordIf rc v)

/-- rD receives a word result whose high-order half is undefined on a 64-bit implementation (92 D28). -/
def State.setGprWord (s : State) (rd : BitVec 5) (w : Word) : State :=
  if s.cfg.impl64 then (s.setGpr rd (joinWords (s.draw 32) w)).drew else s.setGpr rd (zext w)

/-- CR0 of such a word result, when Rc = 1: undefined but for SO in 64-bit mode, else from the word (R221, R226). -/
def State.recordWordIf (s : State) (rc : Bool) (w : Word) : State :=
  if rc then (if s.mode64 then s.recordUndefined else s.recordCr0 (zext w)) else s

/-- The end of an instruction with such a word result. -/
def finishWord (rd : BitVec 5) (oe rc ov : Bool) (w : Word) (s : State) : Result :=
  let s1 := s.setGprWord rd w
  let s2 := if oe then s1.setOv ov else s1
  done (s2.recordWordIf rc w)

/-- A division with no defined quotient: rD is undefined, OV and SO are set (when OE), CR0[0:2] is undefined (when Rc)
(92 D29). -/
def finishBadDivide (rd : BitVec 5) (oe rc : Bool) (s : State) : Result :=
  let s1 := (s.setGpr rd (s.draw 64)).drew
  let s2 := if oe then s1.setOv true else s1
  done (if rc then s2.recordUndefined else s2)

/-- The exact product of two signed words. -/
def wordProduct (a b : Dword) : Int := (low a).toInt * (low b).toInt

/-- The exact product of two signed double words. -/
def dwordProduct (a b : Dword) : Int := a.toInt * b.toInt

/-- A product lies outside the signed range of `w` bits (R220, R223). -/
def outOfRange (w : Nat) (p : Int) : Bool := decide (p < -(2 ^ (w - 1) : Int)) || decide ((2 ^ (w - 1) : Int) ≤ p)

/-- The second half (most significant) of a 2w-bit product. -/
def productHigh (w : Nat) (p : Int) : BitVec w := BitVec.ofInt w (p / 2 ^ w)

/-- A signed division has no defined quotient: the divisor is 0, or the most negative number is divided by -1 (R226,
R228). -/
def badSigned {w : Nat} (a b : BitVec w) : Bool := (b == 0) || (a == BitVec.intMin w && b == BitVec.allOnes w)

/-! ## Add -/

/-- `addi` (R203). -/
def execAddi (rd ra : BitVec 5) (simm : BitVec 16) (s : State) : Result :=
  done (s.setGpr rd (s.gprOrZero ra + extSimm simm))

/-- `addis` (R204). -/
def execAddis (rd ra : BitVec 5) (simm : BitVec 16) (s : State) : Result :=
  done (s.setGpr rd (s.gprOrZero ra + extShifted simm))

/-- `add` (R205). -/
def execAddx (rd ra rb : BitVec 5) (oe rc : Bool) (s : State) : Result :=
  finishAdd rd false oe rc (add3 s.mode64 (s.getGpr ra) (s.getGpr rb) false) s

/-- `addc` (R206). -/
def execAddcx (rd ra rb : BitVec 5) (oe rc : Bool) (s : State) : Result :=
  finishAdd rd true oe rc (add3 s.mode64 (s.getGpr ra) (s.getGpr rb) false) s

/-- `adde` (R207). -/
def execAddex (rd ra rb : BitVec 5) (oe rc : Bool) (s : State) : Result :=
  finishAdd rd true oe rc (add3 s.mode64 (s.getGpr ra) (s.getGpr rb) s.ca) s

/-- `addic` (R208): rA = 0 is GPR0. -/
def execAddic (rd ra : BitVec 5) (simm : BitVec 16) (s : State) : Result :=
  finishAdd rd true false false (add3 s.mode64 (s.getGpr ra) (extSimm simm) false) s

/-- `addic.` (R209): always records. -/
def execAddicDot (rd ra : BitVec 5) (simm : BitVec 16) (s : State) : Result :=
  finishAdd rd true false true (add3 s.mode64 (s.getGpr ra) (extSimm simm) false) s

/-- `addme` (R210). -/
def execAddmex (rd ra : BitVec 5) (oe rc : Bool) (s : State) : Result :=
  finishAdd rd true oe rc (add3 s.mode64 (s.getGpr ra) (BitVec.allOnes 64) s.ca) s

/-- `addze` (R211). -/
def execAddzex (rd ra : BitVec 5) (oe rc : Bool) (s : State) : Result :=
  finishAdd rd true oe rc (add3 s.mode64 (s.getGpr ra) 0 s.ca) s

/-! ## Subtract and negate -/

/-- `subf` (R212): rB - rA. -/
def execSubfx (rd ra rb : BitVec 5) (oe rc : Bool) (s : State) : Result :=
  finishAdd rd false oe rc (add3 s.mode64 (~~~ s.getGpr ra) (s.getGpr rb) true) s

/-- `subfc` (R213). -/
def execSubfcx (rd ra rb : BitVec 5) (oe rc : Bool) (s : State) : Result :=
  finishAdd rd true oe rc (add3 s.mode64 (~~~ s.getGpr ra) (s.getGpr rb) true) s

/-- `subfe` (R214). -/
def execSubfex (rd ra rb : BitVec 5) (oe rc : Bool) (s : State) : Result :=
  finishAdd rd true oe rc (add3 s.mode64 (~~~ s.getGpr ra) (s.getGpr rb) s.ca) s

/-- `subfic` (R215). -/
def execSubfic (rd ra : BitVec 5) (simm : BitVec 16) (s : State) : Result :=
  finishAdd rd true false false (add3 s.mode64 (~~~ s.getGpr ra) (extSimm simm) true) s

/-- `subfme` (R216). -/
def execSubfmex (rd ra : BitVec 5) (oe rc : Bool) (s : State) : Result :=
  finishAdd rd true oe rc (add3 s.mode64 (~~~ s.getGpr ra) (BitVec.allOnes 64) s.ca) s

/-- `subfze` (R217). -/
def execSubfzex (rd ra : BitVec 5) (oe rc : Bool) (s : State) : Result :=
  finishAdd rd true oe rc (add3 s.mode64 (~~~ s.getGpr ra) 0 s.ca) s

/-- `neg` (R218). -/
def execNegx (rd ra : BitVec 5) (oe rc : Bool) (s : State) : Result :=
  finishAdd rd false oe rc (add3 s.mode64 (~~~ s.getGpr ra) 0 true) s

/-! ## Multiply -/

/-- `mulli` (R219). -/
def execMulli (rd ra : BitVec 5) (simm : BitVec 16) (s : State) : Result :=
  done (s.setGpr rd (s.getGpr ra * extSimm simm))

/-- `mullw` (R220): the signed 64-bit product of the low words (its low word on a 32-bit implementation). -/
def execMullwx (rd ra rb : BitVec 5) (oe rc : Bool) (s : State) : Result :=
  finishResult rd oe rc (outOfRange 32 (wordProduct (s.getGpr ra) (s.getGpr rb))) (BitVec.ofInt 64 (wordProduct (s.getGpr ra) (s.getGpr rb))) s

/-- `mulhw` (R221). -/
def execMulhwx (rd ra rb : BitVec 5) (rc : Bool) (s : State) : Result :=
  finishWord rd false rc false (productHigh 32 (wordProduct (s.getGpr ra) (s.getGpr rb))) s

/-- `mulhwu` (R222). -/
def execMulhwux (rd ra rb : BitVec 5) (rc : Bool) (s : State) : Result :=
  finishWord rd false rc false (productHigh 32 ((low (s.getGpr ra)).toNat * (low (s.getGpr rb)).toNat)) s

/-- `mulld` (R223). -/
def execMulldx (rd ra rb : BitVec 5) (oe rc : Bool) (s : State) : Result :=
  guarded (.mulldx rd ra rb oe rc) s <|
    finishResult rd oe rc (outOfRange 64 (dwordProduct (s.getGpr ra) (s.getGpr rb))) (s.getGpr ra * s.getGpr rb) s

/-- `mulhd` (R224). -/
def execMulhdx (rd ra rb : BitVec 5) (rc : Bool) (s : State) : Result :=
  guarded (.mulhdx rd ra rb rc) s <|
    finishResult rd false rc false (productHigh 64 (dwordProduct (s.getGpr ra) (s.getGpr rb))) s

/-- `mulhdu` (R225). -/
def execMulhdux (rd ra rb : BitVec 5) (rc : Bool) (s : State) : Result :=
  guarded (.mulhdux rd ra rb rc) s <|
    finishResult rd false rc false (productHigh 64 ((s.getGpr ra).toNat * (s.getGpr rb).toNat)) s

/-! ## Divide -/

/-- `divw` (R226): the quotient is truncated toward zero. -/
def execDivwx (rd ra rb : BitVec 5) (oe rc : Bool) (s : State) : Result :=
  let a := low (s.getGpr ra)
  let b := low (s.getGpr rb)
  if badSigned a b then finishBadDivide rd oe rc s
  else finishWord rd oe rc false (BitVec.ofInt 32 (a.toInt.tdiv b.toInt)) s

/-- `divwu` (R227). -/
def execDivwux (rd ra rb : BitVec 5) (oe rc : Bool) (s : State) : Result :=
  let a := low (s.getGpr ra)
  let b := low (s.getGpr rb)
  if b = 0 then finishBadDivide rd oe rc s
  else finishWord rd oe rc false (BitVec.ofNat 32 (a.toNat / b.toNat)) s

/-- `divd` (R228). -/
def execDivdx (rd ra rb : BitVec 5) (oe rc : Bool) (s : State) : Result :=
  guarded (.divdx rd ra rb oe rc) s <|
    if badSigned (s.getGpr ra) (s.getGpr rb) then finishBadDivide rd oe rc s
    else finishResult rd oe rc false (BitVec.ofInt 64 ((s.getGpr ra).toInt.tdiv (s.getGpr rb).toInt)) s

/-- `divdu` (R229). -/
def execDivdux (rd ra rb : BitVec 5) (oe rc : Bool) (s : State) : Result :=
  guarded (.divdux rd ra rb oe rc) s <|
    if s.getGpr rb = 0 then finishBadDivide rd oe rc s
    else finishResult rd oe rc false (BitVec.ofNat 64 ((s.getGpr ra).toNat / (s.getGpr rb).toNat)) s

end Sys2Proof.Machine
end

