-- ==== Sys2Proof/Machine/Branch.lean ====
section
/-!
DEFINITION. Branches, condition register logic, system linkage and traps (47_branch_cr_trap R480 to R501).
-/

namespace Sys2Proof.Machine

/-! ## Branches -/

/-- BO[i]. -/
def boBit (bo : BitVec 5) (i : Nat) : Bool := bo.getMsbD i

/-- CTR <- CTR - 1 when BO[2] = 0 (R480 (b)). -/
def State.decrementCtr (s : State) (bo : BitVec 5) : State := if boBit bo 2 then s else s.setCtr (s.ctr - 1)

/-- CTR[m:63] ≠ 0, with m = 0 in 64-bit mode and 32 otherwise (R480 (b)). -/
def State.ctrNonzero (s : State) : Bool := if s.mode64 then s.ctr != 0 else low s.ctr != 0

/-- `ctr_ok`, in the state after the decrement (R480 (b)). -/
def ctrOk (bo : BitVec 5) (s : State) : Bool := boBit bo 2 || (s.ctrNonzero != boBit bo 3)

/-- `cond_ok` (R480 (b)). -/
def condOk (bo bi : BitVec 5) (s : State) : Bool := boBit bo 0 || (s.crBit bi == boBit bo 1)

/-- LR <- iea(CIA + 4) when LK = 1, taken or not (R480 (e)). -/
def State.link (s : State) (lk : Bool) : State := if lk then s.setLr (s.ea32 (s.nia + 4)) else s

/-- A branch to `target` in 32-bit mode, after an unsynchronized change of the mode, that 64-bit mode would send elsewhere: the
fetch depends on the change (70 R660). -/
def State.noteTarget (s : State) (target : Dword) : State :=
  if s.stale.sf && !s.mode64 && high target != 0 then { s with stale := { s.stale with sfCut := true } } else s

/-- CTR after the decrement is 0 in 32-bit mode and not in 64-bit mode, and the condition does not decide the branch alone: after
an unsynchronized change of the mode the fetch that follows depends on the change (70 R660). -/
def State.noteCounter (s : State) (bo bi : BitVec 5) : State :=
  if s.stale.sf && !boBit bo 2 && condOk bo bi s && low s.ctr == 0 && high s.ctr != 0 then
    { s with stale := { s.stale with sfCut := true } }
  else s

/-- NIA <- the target of a branch. -/
def State.branchTo (s : State) (target : Dword) : State := (s.noteTarget target).setNia target

/-- The end of a branch: NIA is the target when taken, CIA + 4 otherwise; LR is written when LK = 1 (R480 (d), (e)). -/
def finishBranch (taken : Bool) (target : Dword) (lk : Bool) (s : State) : Result :=
  .next ((s.link lk).branchTo (if taken then target else s.nia + 4))

/-- A displacement target: absolute when AA = 1, else relative to CIA (R481, R482). -/
def branchTarget (s : State) (aa : Bool) (offset : Dword) : Dword := if aa then offset else s.nia + offset

/-- A conditional branch that may decrement and test CTR (R480 (b)). -/
def branchConditional (bo bi : BitVec 5) (target : Dword) (lk : Bool) (s : State) : Result :=
  let t := (s.decrementCtr bo).noteCounter bo bi
  finishBranch (ctrOk bo t && condOk bo bi t) target lk t

/-- `b` (R481). -/
def execBx (li : BitVec 24) (aa lk : Bool) (s : State) : Result :=
  finishBranch true (branchTarget s aa ((li ++ (0 : BitVec 2)).signExtend 64)) lk s

/-- `bc` (R482). -/
def execBcx (bo bi : BitVec 5) (bd : BitVec 14) (aa lk : Bool) (s : State) : Result :=
  branchConditional bo bi (branchTarget s aa ((bd ++ (0 : BitVec 2)).signExtend 64)) lk s

/-- `bclr` (R483): the target is LR before LR is written. -/
def execBclrx (bo bi : BitVec 5) (lk : Bool) (s : State) : Result := branchConditional bo bi s.lr lk s

/-- `bcctr` (R484): BO[2] = 0 is an invalid form; CTR is not changed. -/
def execBcctrx (bo bi : BitVec 5) (lk : Bool) (s : State) : Result :=
  guarded (.bcctrx bo bi lk) s <| finishBranch (condOk bo bi s) s.ctr lk s

/-! ## Condition register logic -/

/-- CR[crbD] <- v. -/
def finishCrBit (crbd : BitVec 5) (v : Bool) (s : State) : Result := done (s.setCrBit crbd v)

/-- `crand` (R485). -/
def execCrand (crbd crba crbb : BitVec 5) (s : State) : Result := finishCrBit crbd (s.crBit crba && s.crBit crbb) s

/-- `cror` (R486). -/
def execCror (crbd crba crbb : BitVec 5) (s : State) : Result := finishCrBit crbd (s.crBit crba || s.crBit crbb) s

/-- `crxor` (R487). -/
def execCrxor (crbd crba crbb : BitVec 5) (s : State) : Result := finishCrBit crbd (s.crBit crba != s.crBit crbb) s

/-- `crnand` (R488). -/
def execCrnand (crbd crba crbb : BitVec 5) (s : State) : Result := finishCrBit crbd (!(s.crBit crba && s.crBit crbb)) s

/-- `crnor` (R489). -/
def execCrnor (crbd crba crbb : BitVec 5) (s : State) : Result := finishCrBit crbd (!(s.crBit crba || s.crBit crbb)) s

/-- `creqv` (R490). -/
def execCreqv (crbd crba crbb : BitVec 5) (s : State) : Result := finishCrBit crbd (s.crBit crba == s.crBit crbb) s

/-- `crandc` (R491). -/
def execCrandc (crbd crba crbb : BitVec 5) (s : State) : Result := finishCrBit crbd (s.crBit crba && !s.crBit crbb) s

/-- `crorc` (R492). -/
def execCrorc (crbd crba crbb : BitVec 5) (s : State) : Result := finishCrBit crbd (s.crBit crba || !s.crBit crbb) s

/-- `mcrf` (R493). -/
def execMcrf (crfd crfs : BitVec 3) (s : State) : Result := done (s.setCrField crfd (s.crField crfs))

/-! ## System linkage -/

/-- `sc` (R494): the system call exception, with SRR0 the address of the next instruction. -/
def execSc (s : State) : Result := .next (enter .systemCall (s.nia + 4) s)

/-- `rfi` (R495): MSR bits 48:55, 57:59, 62:63 from SRR1; SF stays. -/
def execRfi (s : State) : Result := guarded .rfi s <| returnFrom 0xFF73 s

/-- `rfid` (R496): MSR bits 0, 48:55, 57:59, 62:63 from SRR1. -/
def execRfid (s : State) : Result := guarded .rfid s <| returnFrom savedBits s

/-! ## Traps -/

/-- `trap_cond` (R501). -/
def trapCond (tof : BitVec 5) (a b : Dword) : Bool :=
  (tof.getMsbD 0 && a.slt b) || (tof.getMsbD 1 && b.slt a) || (tof.getMsbD 2 && a == b) ||
    (tof.getMsbD 3 && a.ult b) || (tof.getMsbD 4 && b.ult a)

/-- The trap exception when the condition holds, else nothing (R501). -/
def trapIf (c : Bool) (s : State) : Result := if c then raise (.program .trap) s else done s

/-- `tw` (R497). -/
def execTw (tof ra rb : BitVec 5) (s : State) : Result :=
  trapIf (trapCond tof (sext (low (s.getGpr ra))) (sext (low (s.getGpr rb)))) s

/-- `twi` (R498). -/
def execTwi (tof ra : BitVec 5) (simm : BitVec 16) (s : State) : Result :=
  trapIf (trapCond tof (sext (low (s.getGpr ra))) (extSimm simm)) s

/-- `td` (R499). -/
def execTd (tof ra rb : BitVec 5) (s : State) : Result :=
  guarded (.td tof ra rb) s <| trapIf (trapCond tof (s.getGpr ra) (s.getGpr rb)) s

/-- `tdi` (R500). -/
def execTdi (tof ra : BitVec 5) (simm : BitVec 16) (s : State) : Result :=
  guarded (.tdi tof ra simm) s <| trapIf (trapCond tof (s.getGpr ra) (extSimm simm)) s

end Sys2Proof.Machine
end

