-- ==== Sys2Proof/Machine/Control.lean ====
section
/-!
DEFINITION. Processor control (48_processor_control R520 to R530): moves to and from CR, XER, MSR, the special-purpose
registers and the time base.
-/

namespace Sys2Proof.Machine

/-! ## Marks of context changes (70 R660) -/

/-- What decides fetches in a state. -/
def State.fetchView (s : State) : FetchView := { mmu := s.mmuView, user := s.pr }

/-- What decided fetches in `before` is kept. -/
def keepView (before : State) (m : StaleMarks) : StaleMarks := { m with views := addNew before.fetchView m.views }

/-- A change of the translation of one segment. -/
def State.markSegment (s before : State) (seg : BitVec 36) : State :=
  { s with stale := keepView before { s.stale with segments := addNew seg s.stale.segments } }

/-- A change of the translation of one page index in every segment. -/
def State.markPage (s before : State) (page : BitVec 16) : State :=
  { s with stale := keepView before { s.stale with pages := addNew page s.stale.pages } }

/-- A change that may affect every translation. -/
def State.markAll (s before : State) : State := { s with stale := keepView before { s.stale with allPages := true } }

/-- A change that affects instruction translation alone. -/
def State.markFetch (s before : State) : State := { s with stale := keepView before s.stale }

/-- A change that affects data translation alone. -/
def State.markData (s : State) : State := { s with stale := { s.stale with allPages := true } }

/-- A change of EAR. -/
def State.markEar (s : State) : State := { s with stale := { s.stale with ear := true } }

/-- A change of DABR; it matters only where the breakpoint acts. -/
def State.markDabr (s : State) : State := { s with stale := { s.stale with dabr := s.stale.dabr || s.cfg.optDabr } }

/-- A change of MSR[DR]. -/
def State.markDr (s : State) : State := { s with stale := { s.stale with dr := true } }

/-- A change of the computation mode; `v` is the address of the next instruction before it is seen under the new mode. -/
def State.markMode (s : State) (v : Dword) : State :=
  { s with stale := { s.stale with sf := true, sfCut := s.stale.sfCut || (!s.mode64 && high v != 0) } }

/-- The marks of an MSR write, where it changes the bit: IR and PR for fetches, DR for data accesses, SF for both (70 R660). -/
def State.markMsr (s before : State) : State :=
  let t := if s.ir != before.ir || s.pr != before.pr then s.markFetch before else s
  let u := if s.dr != before.dr then t.markDr else t
  if s.mode64 != before.mode64 then u.markMode before.advance.nia else u

/-! ## CR and XER -/

/-- `mfcr` (R521). -/
def execMfcr (rd : BitVec 5) (s : State) : Result := done (s.setGpr rd (zext s.cr))

/-- The mask of `mtcrf`: four bits for each bit of CRM (R522). -/
def crmMask (crm : BitVec 8) : Word :=
  (List.range 8).foldl (fun acc i => if crm.getMsbD i then acc ||| fieldWord (BitVec.ofNat 3 i) 0xF else acc) 0

/-- `mtcrf` (R522). -/
def execMtcrf (rs : BitVec 5) (crm : BitVec 8) (s : State) : Result :=
  done { s with cr := merge (crmMask crm) (low (s.getGpr rs)) s.cr }

/-- `mcrxr` (R523). -/
def execMcrxr (crfd : BitVec 3) (s : State) : Result :=
  let t := s.setCrField crfd (slice 4 s.xer 0)
  done { t with xer := t.xer &&& 0x0FFFFFFF }

/-! ## MSR -/

/-- `mfmsr` (R524). -/
def execMfmsr (rd : BitVec 5) (s : State) : Result := guarded (.mfmsr rd) s <| done (s.setGpr rd s.msr)

/-- The end of an MSR move: NIA = CIA + 4 under the old mode, seen under the new one (R525, R526); changes of IR, DR, PR and
SF are marked; a floating-point exception may become pending (60 R608). -/
def finishMsr (v : Dword) (s : State) : Result :=
  let t := (s.advance.setMsr v).markMsr s
  .next (s.notePendingFp (t.setNia t.nia))

/-- `mtmsr` (R525): all of the MSR on a 32-bit implementation, bits 32:63 with the bridge. -/
def execMtmsr (rs : BitVec 5) (s : State) : Result :=
  guarded (.mtmsr rs) s <| finishMsr (joinWords (high s.msr) (low (s.getGpr rs))) s

/-- `mtmsrd` (R526). -/
def execMtmsrd (rs : BitVec 5) (s : State) : Result := guarded (.mtmsrd rs) s <| finishMsr (s.getGpr rs) s

/-! ## Special-purpose registers -/

/-- The contents of SPR `n`, a 32-bit register zero-extended (10_state R43; R528); 0 for a number that is not readable, which
`spr_check` has turned away. -/
def readSpr (s : State) (n : Nat) : Dword :=
  if n = 1 then zext s.xer
  else if n = 8 then s.lr
  else if n = 9 then s.ctr
  else if n = 18 then zext s.dsisr
  else if n = 19 then s.dar
  else if n = 22 then zext s.dec
  else if n = 25 then s.sdr1
  else if n = 26 then s.srr0
  else if n = 27 then s.srr1
  else if n = 272 then s.sprg[0]
  else if n = 273 then s.sprg[1]
  else if n = 274 then s.sprg[2]
  else if n = 275 then s.sprg[3]
  else if n = 280 then s.asr
  else if n = 282 then zext s.ear
  else if n = 287 then zext s.pvr
  else if n = 1013 then s.dabr
  else if h : 528 ≤ n ∧ n < 536 then s.ibat[n - 528]'(by omega)
  else if h : 536 ≤ n ∧ n < 544 then s.dbat[n - 536]'(by omega)
  else 0

/-- A write of DEC: the decrementer exception becomes pending when bit 0 goes from 0 to 1 (R529, 60 R617). -/
def State.setDec (s : State) (v : Word) : State :=
  { s with dec := v, decPending := s.decPending || (!s.dec.msb && v.msb) }

/-- SPR `n` <- v with the marks of 70 R660 (R529); nothing for a number that is not writable, which `spr_check` has turned
away. -/
def writeSpr (s : State) (n : Nat) (v : Dword) : State :=
  if n = 1 then { s with xer := low v }
  else if n = 8 then s.setLr v
  else if n = 9 then s.setCtr v
  else if n = 18 then { s with dsisr := low v }
  else if n = 19 then { s with dar := s.norm v }
  else if n = 22 then s.setDec (low v)
  else if n = 25 then { s with sdr1 := s.norm v }.markAll s
  else if n = 26 then { s with srr0 := s.norm v }
  else if n = 27 then { s with srr1 := s.norm v }
  else if n = 272 then { s with sprg := s.sprg.set 0 (s.norm v) }
  else if n = 273 then { s with sprg := s.sprg.set 1 (s.norm v) }
  else if n = 274 then { s with sprg := s.sprg.set 2 (s.norm v) }
  else if n = 275 then { s with sprg := s.sprg.set 3 (s.norm v) }
  else if n = 280 then { s with asr := s.norm v }.markAll s
  else if n = 282 then { s with ear := low v }.markEar
  else if n = 284 then { s with tb := joinWords (high s.tb) (low v) }
  else if n = 285 then { s with tb := joinWords (low v) (low s.tb) }
  else if n = 1013 then { s with dabr := s.norm v }.markDabr
  else if h : 528 ≤ n ∧ n < 536 then { s with ibat := s.ibat.set (n - 528) (s.norm v) (by omega) }.markFetch s
  else if h : 536 ≤ n ∧ n < 544 then { s with dbat := s.dbat.set (n - 536) (s.norm v) (by omega) }.markData
  else s

/-- `mfspr` (R528). -/
def execMfspr (rd : BitVec 5) (spr : BitVec 10) (s : State) : Result :=
  guarded (.mfspr rd spr) s <| done (s.setGpr rd (readSpr s spr.toNat))

/-- `mtspr` (R529). -/
def execMtspr (rs : BitVec 5) (spr : BitVec 10) (s : State) : Result :=
  guarded (.mtspr rs spr) s <| done (writeSpr s spr.toNat (s.getGpr rs))

/-- What `mftb` reads: TB for TBR 268 (its low word on a 32-bit implementation, which `setGpr` keeps alone), TBU for 269
(R530). -/
def readTbr (s : State) (n : Nat) : Dword := if n = 268 then s.tb else zext (high s.tb)

/-- `mftb` (R530). -/
def execMftb (rd : BitVec 5) (tbr : BitVec 10) (s : State) : Result :=
  guarded (.mftb rd tbr) s <| done (s.setGpr rd (readTbr s tbr.toNat))

end Sys2Proof.Machine
end

