-- ==== Sys2Proof/Machine/FloatFormat.lean ====
section
/-!
DEFINITION. The single and double formats and the conversions of load and store (46_load_store_float R451, R452).
-/

namespace Sys2Proof.Machine

/-- The biased exponent field of a double: bits 1:11. -/
def expField (d : Dword) : Nat := (slice 11 d 1).toNat

/-- The fraction field of a double: bits 12:63. -/
def fracField (d : Dword) : Nat := (slice 52 d 12).toNat

/-- The sign of a double. -/
def signOf (d : Dword) : Bool := d.msb

/-- A double from its sign, exponent field and fraction field. -/
def makeDouble (sign : Bool) (e f : Nat) : Dword := BitVec.ofBool sign ++ BitVec.ofNat 11 e ++ BitVec.ofNat 52 f

/-- A single from its sign, exponent field and fraction field. -/
def makeSingle (sign : Bool) (e f : Nat) : Word := BitVec.ofBool sign ++ BitVec.ofNat 8 e ++ BitVec.ofNat 23 f

/-- A double whose fraction is a single's: bits 2 to 4 repeat `rep`, the 29 low-order bits are 0 (R451). -/
def widen (w : Word) (rep : Bool) : Dword :=
  slice 2 w 0 ++ BitVec.ofBool rep ++ BitVec.ofBool rep ++ BitVec.ofBool rep ++ slice 30 w 2 ++ (0 : BitVec 29)

/-- DOUBLE(w): single format to double format (R451). A denormalized single `f * 2^-149` with highest bit `p` has the
exponent `p - 149`. -/
def toDouble (w : Word) : Dword :=
  let e := (slice 8 w 1).toNat
  let f := (slice 23 w 9).toNat
  if 0 < e ∧ e < 255 then widen w (!w.getMsbD 1)
  else if e = 0 ∧ f ≠ 0 then makeDouble w.msb (f.log2 + 874) ((f - 2 ^ f.log2) * 2 ^ (52 - f.log2))
  else widen w (w.getMsbD 1)

/-- The double is too small for any single: its conversion is undefined (R452). -/
def singleUndefined (d : Dword) : Bool := decide (expField d < 874) && slice 63 d 1 != 0

/-- SINGLE(d): double format to single format (R452); `u` where it is undefined. -/
def toSingle (u : Word) (d : Dword) : Word :=
  if singleUndefined d then u
  else if 896 < expField d ∨ slice 63 d 1 = 0 then slice 2 d 0 ++ slice 30 d 5
  else makeSingle d.msb 0 (((2 ^ 52 + fracField d) * 2 ^ 11 / 2 ^ (897 - expField d)) / 2 ^ 40 % 2 ^ 23)

end Sys2Proof.Machine
end

