-- ==== Sys2Proof/Machine/FloatRound.lean ====
section
/-!
DEFINITION. The classes of floating-point values, exact arithmetic on them, and rounding (43_float_arithmetic R311, R313). The
numeric core is the IEEE 754 reference instance of the spec's FP_RESULT (92 D11; log 18).
-/

namespace Sys2Proof.Machine

/-! ## Values -/

/-- The magnitude `mant * 2 ^ exp`, negative when `neg`. -/
structure Exact where
  neg : Bool
  mant : Nat
  exp : Int
  deriving DecidableEq, Repr

/-- What an operand stands for (43 R311). -/
inductive FpVal where
  | nan
  | inf (neg : Bool)
  | zero (neg : Bool)
  | finite (v : Exact)
  deriving DecidableEq, Repr

/-- A NaN: exponent all ones, fraction not zero (R311). -/
def isNan (d : Dword) : Bool := expField d == 2047 && fracField d != 0

/-- A signalling NaN: bit 12 is 0 (R311). -/
def isSnan (d : Dword) : Bool := isNan d && !d.getMsbD 12

/-- The value of a double (R311). -/
def classify (d : Dword) : FpVal :=
  if isNan d then .nan
  else if expField d = 2047 then .inf (signOf d)
  else if slice 63 d 1 = 0 then .zero (signOf d)
  else if expField d = 0 then .finite ⟨signOf d, fracField d, -1074⟩
  else .finite ⟨signOf d, 2 ^ 52 + fracField d, (expField d : Int) - 1075⟩

/-- The FPRF code of a double's class and sign (R311). The table has no code for a signalling NaN, which only an answer of the supplied
arithmetic can be; it has the code of a quiet one (log 43, DESIGN CHOICE). -/
def fprfOf (d : Dword) : BitVec 5 :=
  if isNan d then 0b10001
  else if expField d = 2047 then (if signOf d then 0b01001 else 0b00101)
  else if slice 63 d 1 = 0 then (if signOf d then 0b10010 else 0b00010)
  else if expField d = 0 then (if signOf d then 0b11000 else 0b10100)
  else if signOf d then 0b01000 else 0b00100

/-- The infinity of a sign. -/
def infinity (neg : Bool) : Dword := makeDouble neg 2047 0

/-- The zero of a sign. -/
def zeroOf (neg : Bool) : Dword := makeDouble neg 0 0

/-- The QNaN that a disabled invalid operation generates (R311). -/
def defaultNan : Dword := 0x7FF8000000000000

/-- A value with its sign inverted. -/
def FpVal.negate (x : FpVal) : FpVal :=
  match x with
  | .nan => .nan
  | .inf n => .inf (!n)
  | .zero n => .zero (!n)
  | .finite v => .finite { v with neg := !v.neg }

/-- An integer as the value `i * 2 ^ e`; zero has the sign `z`. -/
def ofInt (z : Bool) (i : Int) (e : Int) : FpVal :=
  if i = 0 then .zero z else .finite ⟨decide (i < 0), i.natAbs, e⟩

/-- The double's bits are a value of the single format: a NaN (whose low fraction bits an operation clears), an infinity, a
zero, or a finite number that 24 bits and the single exponent range hold (R311; log 19). -/
def singleRepresentable (d : Dword) : Bool :=
  if expField d = 2047 ∨ slice 63 d 1 = 0 then true
  else if 897 ≤ expField d then decide (expField d ≤ 1150) && fracField d % 2 ^ 29 == 0
  else decide (874 ≤ expField d) && (2 ^ 52 + fracField d) % 2 ^ (926 - expField d) == 0

/-! ## Exact operations -/

/-- The signed integer of a value in units of `2 ^ e`, `e` at most its own exponent. -/
def Exact.units (v : Exact) (e : Int) : Int :=
  if v.neg then -((v.mant * 2 ^ (v.exp - e).toNat : Nat) : Int) else ((v.mant * 2 ^ (v.exp - e).toNat : Nat) : Int)

/-- The exact sum; an exact zero sum of opposite signs has the sign `z` (R313 step 5); infinities of opposite signs give no
number. -/
def FpVal.add (z : Bool) (x y : FpVal) : FpVal :=
  match x, y with
  | .nan, _ => .nan
  | _, .nan => .nan
  | .inf a, .inf b => if a = b then .inf a else .nan
  | .inf a, _ => .inf a
  | _, .inf b => .inf b
  | .zero a, .zero b => .zero (if a = b then a else z)
  | .zero _, .finite v => .finite v
  | .finite v, .zero _ => .finite v
  | .finite v, .finite w => ofInt z (v.units (min v.exp w.exp) + w.units (min v.exp w.exp)) (min v.exp w.exp)

/-- The exact product; infinity times zero gives no number. -/
def FpVal.mul (x y : FpVal) : FpVal :=
  match x, y with
  | .nan, _ => .nan
  | _, .nan => .nan
  | .inf a, .inf b => .inf (a != b)
  | .inf _, .zero _ => .nan
  | .zero _, .inf _ => .nan
  | .inf a, .finite v => .inf (a != v.neg)
  | .finite v, .inf a => .inf (a != v.neg)
  | .zero a, .zero b => .zero (a != b)
  | .zero a, .finite v => .zero (a != v.neg)
  | .finite v, .zero a => .zero (a != v.neg)
  | .finite v, .finite w => .finite ⟨v.neg != w.neg, v.mant * w.mant, v.exp + w.exp⟩

/-- A truncated magnitude with one more bit that is 1 when something was cut off: it rounds as the exact magnitude does. -/
def jam (neg : Bool) (mant : Nat) (cut : Bool) (e : Int) : Exact := ⟨neg, 2 * mant + cut.toNat, e - 1⟩

/-- The quotient of two finite values, truncated far beyond any format and jammed. -/
def Exact.div (v w : Exact) : Exact :=
  jam (v.neg != w.neg) (v.mant * 2 ^ 128 / w.mant) (v.mant * 2 ^ 128 % w.mant != 0) (v.exp - w.exp - 128)

/-- The quotient; 0/0 and infinity/infinity give no number, a finite value over zero is infinite. -/
def FpVal.div (x y : FpVal) : FpVal :=
  match x, y with
  | .nan, _ => .nan
  | _, .nan => .nan
  | .inf _, .inf _ => .nan
  | .zero _, .zero _ => .nan
  | .inf a, .zero b => .inf (a != b)
  | .inf a, .finite w => .inf (a != w.neg)
  | .zero a, .inf b => .zero (a != b)
  | .zero a, .finite w => .zero (a != w.neg)
  | .finite v, .inf b => .zero (v.neg != b)
  | .finite v, .zero b => .inf (v.neg != b)
  | .finite v, .finite w => .finite (v.div w)

/-- The bits of the integer square root of `n`, from bit `k - 1` down, added to `r`. -/
def sqrtBits (n k r : Nat) : Nat :=
  match k with
  | 0 => r
  | k + 1 => sqrtBits n k (if (r + 2 ^ k) * (r + 2 ^ k) ≤ n then r + 2 ^ k else r)

/-- The integer square root of a number below 2^208. -/
def sqrtFloor (n : Nat) : Nat := sqrtBits n 104 0

/-- The square root of a positive finite value, truncated and jammed. -/
def Exact.sqrt (v : Exact) : Exact :=
  let k : Nat := if v.exp % 2 = 0 then 128 else 129
  let n := v.mant * 2 ^ k
  jam false (sqrtFloor n) (sqrtFloor n * sqrtFloor n != n) ((v.exp - k) / 2)

/-- The square root; of a negative number it is no number (R322). -/
def FpVal.sqrt (x : FpVal) : FpVal :=
  match x with
  | .nan => .nan
  | .inf n => if n then .nan else .inf false
  | .zero n => .zero n
  | .finite v => if v.neg then .nan else .finite v.sqrt

/-- The reciprocal square root of a positive finite value, truncated and jammed. -/
def Exact.rsqrt (v : Exact) : Exact :=
  let k : Nat := if v.exp % 2 = 0 then 200 else 201
  let r := sqrtFloor (2 ^ k / v.mant)
  jam false r (r * r * v.mant != 2 ^ k) ((-v.exp - k) / 2)

/-! ## Rounding -/

/-- The target precision. -/
inductive Precision where
  | double
  | single
  deriving DecidableEq, Repr

/-- The number of significant bits. -/
def Precision.bits (p : Precision) : Nat :=
  match p with
  | .double => 53
  | .single => 24

/-- The smallest exponent of a normalized number. -/
def Precision.minExp (p : Precision) : Int :=
  match p with
  | .double => -1022
  | .single => -126

/-- The greatest exponent. -/
def Precision.maxExp (p : Precision) : Int :=
  match p with
  | .double => 1023
  | .single => 127

/-- The exponent adjustment of an enabled overflow or underflow (R313 step 5). -/
def Precision.adjust (p : Precision) : Int :=
  match p with
  | .double => 1536
  | .single => 192

/-- The rounding modes of FPSCR[RN] (10_state R45). -/
inductive RoundMode where
  | nearest
  | zero
  | up
  | down
  deriving DecidableEq, Repr

/-- FPSCR[RN], bits 30:31. -/
def roundMode (f : Word) : RoundMode :=
  match f.getMsbD 30, f.getMsbD 31 with
  | false, false => .nearest
  | false, true => .zero
  | true, false => .up
  | true, true => .down

/-- A magnitude is incremented when `rem` units of `d` are cut off. -/
def increments (mode : RoundMode) (neg odd : Bool) (rem d : Nat) : Bool :=
  match mode with
  | .nearest => decide (d < 2 * rem) || (2 * rem == d && odd)
  | .zero => false
  | .up => !neg && rem != 0
  | .down => neg && rem != 0

/-- A magnitude rounded to a whole number of units. -/
structure Quantum where
  n : Nat
  inexact : Bool
  up : Bool
  deriving DecidableEq, Repr

/-- The magnitude of `v` in units of `2 ^ q`, rounded. -/
def quantize (mode : RoundMode) (v : Exact) (q : Int) : Quantum :=
  if q ≤ v.exp then ⟨v.mant * 2 ^ (v.exp - q).toNat, false, false⟩
  else
    let d := 2 ^ (q - v.exp).toNat
    let n := v.mant / d
    let up := increments mode v.neg (n % 2 == 1) (v.mant % d) d
    ⟨n + up.toNat, v.mant % d != 0, up⟩

/-- The double with magnitude `n * 2 ^ q`, which it holds exactly. -/
def packDouble (neg : Bool) (n : Nat) (q : Int) : Dword :=
  if n = 0 then zeroOf neg
  else
    let e : Int := n.log2 + q
    if e < -1022 then makeDouble neg 0 (n * 2 ^ (q + 1074).toNat)
    else makeDouble neg (e + 1023).toNat ((n - 2 ^ n.log2) * 2 ^ (52 - n.log2))

/-- What rounding gives: the result, FR, FI, the exceptions raised, and whether an enabled overflow's or underflow's scaled
result lies outside the format, where the spec states no value (log 19). -/
structure Rounded where
  value : Dword
  fr : Bool
  fi : Bool
  ox : Bool
  ux : Bool
  outside : Bool
  deriving DecidableEq, Repr

/-- An overflow rounds to infinity (R313 step 5). -/
def overflowsUp (mode : RoundMode) (neg : Bool) : Bool :=
  match mode with
  | .nearest => true
  | .zero => false
  | .up => !neg
  | .down => neg

/-- The largest finite number of a precision. -/
def Precision.largest (p : Precision) (neg : Bool) : Dword :=
  packDouble neg (2 ^ p.bits - 1) (p.maxExp - (p.bits - 1))

/-- The value's exponent: `2 ^ e ≤ |v| < 2 ^ (e + 1)`. -/
def Exact.exponent (v : Exact) : Int := v.mant.log2 + v.exp

/-- A tiny value rounded (R313 step 5, underflow). -/
def roundTiny (p : Precision) (mode : RoundMode) (ue : Bool) (v : Exact) : Rounded :=
  if ue then
    let q := v.exponent - (p.bits - 1)
    let r := quantize mode v q
    ⟨packDouble v.neg r.n (q + p.adjust), r.up, r.inexact, false, true,
      decide ((r.n.log2 : Int) + q + p.adjust < p.minExp)⟩
  else
    let q := p.minExp - (p.bits - 1)
    let r := quantize mode v q
    ⟨packDouble v.neg r.n q, r.up, r.inexact, false, r.inexact, false⟩

/-- An overflowing value, rounded to `r` units of `2 ^ q` (R313 step 5, overflow). R313 sets FR before its overflow clause; with
OE = 1 the model takes FR of the scaled result's rounding, with OE = 0 FR is 1 for an infinity and 0 for the largest finite number
(log 19, DESIGN CHOICE). -/
def roundOverflow (p : Precision) (mode : RoundMode) (oe : Bool) (neg : Bool) (r : Quantum) (q : Int) : Rounded :=
  if oe then
    ⟨packDouble neg r.n (q - p.adjust), r.up, true, true, false, decide (p.maxExp < (r.n.log2 : Int) + q - p.adjust)⟩
  else if overflowsUp mode neg then ⟨infinity neg, true, true, true, false, false⟩
  else ⟨p.largest neg, false, true, true, false, false⟩

/-- A nonzero value rounded to a precision (R313 step 5). -/
def roundTo (p : Precision) (mode : RoundMode) (oe ue : Bool) (v : Exact) : Rounded :=
  if v.exponent < p.minExp then roundTiny p mode ue v
  else
    let q := v.exponent - (p.bits - 1)
    let r := quantize mode v q
    if p.maxExp < (r.n.log2 : Int) + q then roundOverflow p mode oe v.neg r q
    else ⟨packDouble v.neg r.n q, r.up, r.inexact, false, false, false⟩

end Sys2Proof.Machine
end

