-- ==== Sys2Proof/Machine/FloatResult.lean ====
section
/-!
DEFINITION. What a floating-point operation answers (43_float_arithmetic R310, R313) and how it ends: the FPSCR, CR1, the
target register and the enabled exception (R312; 60 R608).
-/

namespace Sys2Proof.Machine

/-! ## FPSCR bits -/

/-- FPSCR[OX], bit 3. -/
def bitOx : Word := 0x10000000
/-- FPSCR[UX], bit 4. -/
def bitUx : Word := 0x08000000
/-- FPSCR[ZX], bit 5. -/
def bitZx : Word := 0x04000000
/-- FPSCR[XX], bit 6. -/
def bitXx : Word := 0x02000000
/-- FPSCR[VXSNAN], bit 7. -/
def bitVxsnan : Word := 0x01000000
/-- FPSCR[VXISI], bit 8. -/
def bitVxisi : Word := 0x00800000
/-- FPSCR[VXIDI], bit 9. -/
def bitVxidi : Word := 0x00400000
/-- FPSCR[VXZDZ], bit 10. -/
def bitVxzdz : Word := 0x00200000
/-- FPSCR[VXIMZ], bit 11. -/
def bitVximz : Word := 0x00100000
/-- FPSCR[VXVC], bit 12. -/
def bitVxvc : Word := 0x00080000
/-- FPSCR[VXSQRT], bit 22. -/
def bitVxsqrt : Word := 0x00000200
/-- FPSCR[VXCVI], bit 23. -/
def bitVxcvi : Word := 0x00000100

/-- `b` when `c`, no bit otherwise. -/
def bitIf (c : Bool) (b : Word) : Word := if c then b else 0

/-- FPSCR[VE], bit 24. -/
def fpscrVe (f : Word) : Bool := f.getMsbD 24
/-- FPSCR[OE], bit 25. -/
def fpscrOe (f : Word) : Bool := f.getMsbD 25
/-- FPSCR[UE], bit 26. -/
def fpscrUe (f : Word) : Bool := f.getMsbD 26
/-- FPSCR[ZE], bit 27. -/
def fpscrZe (f : Word) : Bool := f.getMsbD 27

/-! ## Results -/

/-- The output of FP_RESULT (R310): no value means that the target register is unchanged; no FPRF, that it is unchanged. An
undefined bit has been drawn before it stands here. -/
structure FpOut where
  value : Option Dword
  fprf : Option (BitVec 5)
  fr : Bool
  fi : Bool
  raised : Word
  deriving DecidableEq, Repr

/-- An invalid operation or zero divide that is enabled: no result (R313 steps 2 and 4). -/
def FpOut.none (raised : Word) : FpOut := ⟨Option.none, Option.none, false, false, raised⟩

/-- A result that is not rounded: FR and FI are 0. -/
def FpOut.exact (v : Dword) (raised : Word) : FpOut := ⟨some v, some (fprfOf v), false, false, raised⟩

/-- FPRF replaced (FPSCR[15:19]). -/
def putFprf (f : Word) (v : Option (BitVec 5)) : Word :=
  match v with
  | .none => f
  | some c => merge 0x0001F000 (c.setWidth 32 <<< 12) f

/-- The FPSCR after an operation, its summary bits not yet recomputed (R312). -/
def FpOut.fpscr (out : FpOut) (f : Word) : Word :=
  withFx f (putFprf (putBit (putBit (f ||| out.raised) 13 out.fr) 14 out.fi) out.fprf)

/-- Some exception in `raised` is enabled by the FPSCR `f`. -/
def enabledAmong (f raised : Word) : Bool := fpscrFex (fpscrVx raised) (raised ||| (f &&& 0xF8))

/-- The target register after an operation. -/
def State.setResult (s : State) (frd : BitVec 5) (value : Option Dword) (single : Bool) : State :=
  match value with
  | .none => s
  | some v => s.setFpr frd v single

/-- `fp_enabled_exception` (60 R608): the effects stand, and the exception is taken with SRR0 = CIA when FE0 | FE1 = 1. -/
def endEnabled (enabled : Bool) (s : State) : Result :=
  if enabled && s.fe then raise (.program .fpEnabled) s else done s

/-- The updates of `fp_finish` (R312): the target register, the FPSCR and CR1. -/
def fpUpdate (frd : BitVec 5) (single rc : Bool) (out : FpOut) (s : State) : State :=
  ((s.setResult frd out.value single).setFpscr (out.fpscr s.fpscr)).recordCr1If rc

/-- `fp_finish` (R312) of the arithmetic instructions: the exception is taken when this instruction has raised an enabled one. -/
def fpFinish (frd : BitVec 5) (single rc : Bool) (out : FpOut) (s : State) : Result :=
  endEnabled (enabledAmong s.fpscr out.raised) (fpUpdate frd single rc out s)

/-- FEX after an operation that raises the bits `raised` (R312; the bits it has besides do not matter: `fpUpdate_fex`). -/
def leavesFex (f raised : Word) : Bool := fpscrFex (fpscrVx (f ||| raised)) (f ||| raised)

/-- The end of a rounding or conversion instruction of 44_float_move_convert_fpscr: the updates of `fp_finish`, and the exception
when FEX = 1 afterwards (44 R350). R312 would take it only when this instruction has raised an enabled exception; the model follows
R350 for the instructions of its file and R312, in `fpFinish`, for the arithmetic ones (log 38, DESIGN CHOICE). -/
def convertFinish (frd : BitVec 5) (single rc : Bool) (out : FpOut) (s : State) : Result :=
  endEnabled (leavesFex s.fpscr out.raised) (fpUpdate frd single rc out s)

/-- The end of the other instructions of that file which write the FPSCR: the exception is taken when FEX = 1 (44 R350; log 38). -/
def endFex (t : State) : Result := endEnabled (t.fpscr.getMsbD 1) t

/-- The NaN operand as the result holds it: quiet, and without the fraction bits 35:63 in single precision (R311). -/
def quietNan (p : Precision) (d : Dword) : Dword :=
  match p with
  | .double => d ||| 0x0008000000000000
  | .single => (d ||| 0x0008000000000000) &&& ~~~ 0x1FFFFFFF

/-- The NaN result: the first operand that is a NaN, made quiet, or the generated one (R311). -/
def chooseNan (p : Precision) (used : List Dword) : Dword :=
  match used.find? isNan with
  | .none => defaultNan
  | some d => quietNan p d

/-- A value with its sign inverted when `negate` (R331: NaNs never come here). -/
def negateIf (negate : Bool) (d : Dword) : Dword := if negate then d ^^^ 0x8000000000000000 else d

/-- The output for a rounded value; `u` stands where the spec states none. -/
def FpOut.rounded (u : Dword) (negate : Bool) (r : Rounded) : FpOut :=
  let v := if r.outside then u else negateIf negate r.value
  ⟨some v, some (fprfOf v), r.fr, r.fi, bitIf r.ox bitOx ||| bitIf r.ux bitUx ||| bitIf r.fi bitXx⟩

/-- Step 5 and 6 of R313: the output for an exact result. -/
def FpOut.ofValue (p : Precision) (f : Word) (u : Dword) (negate : Bool) (x : FpVal) : FpOut :=
  match x with
  | .nan => FpOut.exact defaultNan 0
  | .inf n => FpOut.exact (negateIf negate (infinity n)) 0
  | .zero n => FpOut.exact (negateIf negate (zeroOf n)) 0
  | .finite v => FpOut.rounded u negate (roundTo p (roundMode f) (fpscrOe f) (fpscrUe f) v)

/-- Steps 1 to 3 of R313: signalling NaNs and invalid operations, then quiet NaNs, then `k`. `used` lists the operands in the
order of R311, `invalid` the invalid-operation bits the operation itself raises. -/
def withOperands (p : Precision) (f : Word) (used : List Dword) (invalid : Word) (k : FpOut) : FpOut :=
  let raised := bitIf (used.any isSnan) bitVxsnan ||| invalid
  if raised ≠ 0 then (if fpscrVe f then FpOut.none raised else FpOut.exact (chooseNan p used) raised)
  else if used.any isNan then FpOut.exact (chooseNan p used) 0
  else k

/-- Step 4 of R313: a zero divide with an infinite result of sign `neg`. -/
def zeroDivide (f : Word) (neg : Bool) : FpOut :=
  if fpscrZe f then FpOut.none bitZx else FpOut.exact (infinity neg) bitZx

/-! ## Operations of R313 -/

/-- The sign of an exact zero sum of opposite signs (R313 step 5). -/
def zeroSumSign (f : Word) : Bool := roundMode f == .down

/-- The sum is of infinities of opposite signs: VXISI. -/
def sumInvalid (x y : FpVal) : Bool :=
  match x, y with
  | .inf a, .inf b => a != b
  | _, _ => false

/-- The product is of an infinity and a zero: VXIMZ. -/
def productInvalid (x y : FpVal) : Bool :=
  match x, y with
  | .inf _, .zero _ => true
  | .zero _, .inf _ => true
  | _, _ => false

/-- add, and sub when `minus`. -/
def addOut (p : Precision) (minus : Bool) (f : Word) (u a b : Dword) : FpOut :=
  let x := classify a
  let y := if minus then (classify b).negate else classify b
  withOperands p f [a, b] (bitIf (sumInvalid x y) bitVxisi) (.ofValue p f u false (x.add (zeroSumSign f) y))

/-- mul. -/
def mulOut (p : Precision) (f : Word) (u a c : Dword) : FpOut :=
  withOperands p f [a, c] (bitIf (productInvalid (classify a) (classify c)) bitVximz)
    (.ofValue p f u false ((classify a).mul (classify c)))

/-- The invalid-operation bits of a division. -/
def divInvalid (x y : FpVal) : Word :=
  match x, y with
  | .inf _, .inf _ => bitVxidi
  | .zero _, .zero _ => bitVxzdz
  | _, _ => 0

/-- div. -/
def divOut (p : Precision) (f : Word) (u a b : Dword) : FpOut :=
  withOperands p f [a, b] (divInvalid (classify a) (classify b))
    (match classify a, classify b with
     | .finite _, .zero _ => zeroDivide f (signOf a != signOf b)
     | x, y => .ofValue p f u false (x.div y))

/-- The operand is negative and not -0: VXSQRT. -/
def rootInvalid (x : FpVal) : Bool :=
  match x with
  | .nan => false
  | .inf n => n
  | .zero _ => false
  | .finite v => v.neg

/-- sqrt. -/
def sqrtOut (p : Precision) (f : Word) (u b : Dword) : FpOut :=
  withOperands p f [b] (bitIf (rootInvalid (classify b)) bitVxsqrt) (.ofValue p f u false (classify b).sqrt)

/-- madd; msub when `minus`; nmadd and nmsub when `negate`. -/
def maddOut (p : Precision) (minus negate : Bool) (f : Word) (u a b c : Dword) : FpOut :=
  let x := (classify a).mul (classify c)
  let y := if minus then (classify b).negate else classify b
  withOperands p f [a, b, c]
    (bitIf (productInvalid (classify a) (classify c)) bitVximz ||| bitIf (sumInvalid x y) bitVxisi)
    (.ofValue p f u negate (x.add (zeroSumSign f) y))

/-! ## Estimates -/

/-- `|y * x / 2 ^ t - 1| ≤ 1 / 256` for positive magnitudes (R324). -/
def nearReciprocal (x y : Exact) (t : Int) : Bool :=
  let k := x.exp + y.exp - t
  let num := x.mant * y.mant * 2 ^ k.toNat
  let den := 2 ^ (-k).toNat
  decide (255 * den ≤ 256 * num) && decide (256 * num ≤ 257 * den)

/-- `y * x / 2 ^ t = 1`. -/
def isReciprocal (x y : Exact) (t : Int) : Bool :=
  let k := x.exp + y.exp - t
  x.mant * y.mant * 2 ^ k.toNat == 2 ^ (-k).toNat

/-- The candidate `y` is a single-format value of the right sign within the bound of `fres`, scaled by `2 ^ t`. -/
def goodReciprocal (x : Exact) (t : Int) (y : Dword) : Bool :=
  match classify y with
  | .nan => false
  | .inf _ => false
  | .zero _ => false
  | .finite w => (w.neg == x.neg) && singleRepresentable y && nearReciprocal x w t

/-- The value `y` is exactly the reciprocal of `x`, scaled by `2 ^ t`. -/
def exactReciprocal (x : Exact) (t : Int) (y : Dword) : Bool :=
  match classify y with
  | .nan => false
  | .inf _ => false
  | .zero _ => false
  | .finite w => (w.neg == x.neg) && isReciprocal x w t

/-- 1. -/
def exactOne : Exact := ⟨false, 1, 0⟩

/-- The largest finite single, with this sign, in double format. -/
def greatestSingle (neg : Bool) : Dword := negateIf neg 0x47EFFFFFE0000000

/-- The estimate of a finite reciprocal (R324; log 20): the free candidate `y` where it is within the bound, otherwise a value
that is: the correctly rounded reciprocal, or the largest finite single where that has overflowed. Only where no finite single is
within the bound does it overflow (and, with OE = 1, is scaled); UE scales nothing. `fr` and `fi` are free. -/
def reciprocal (f : Word) (y : Dword) (fr fi : Bool) (x : Exact) : FpOut :=
  let r := roundTo .single (roundMode f) (fpscrOe f) false (exactOne.div x)
  let exceeds := r.ox && !goodReciprocal x 0 (greatestSingle x.neg)
  let t : Int := if exceeds && fpscrOe f then -192 else 0
  let v := if goodReciprocal x t y then y else if r.ox && !exceeds then greatestSingle x.neg else r.value
  let tiny := decide ((exactOne.div x).exponent < -126)
  let ux := tiny && (fpscrUe f || !exactReciprocal x t v)
  ⟨some v, some (fprfOf v), fr, fi, bitIf exceeds bitOx ||| bitIf ux bitUx⟩

/-- The output of an infinite operand's or a special operand's estimate, with FR and FI free (R324, R325). -/
def FpOut.looseFraction (out : FpOut) (fr fi : Bool) : FpOut := { out with fr := fr, fi := fi }

/-- res (R324). -/
def resOut (f : Word) (y : Dword) (fr fi : Bool) (b : Dword) : FpOut :=
  (withOperands .single f [b] 0
    (match classify b with
     | .nan => FpOut.exact defaultNan 0
     | .inf n => FpOut.exact (zeroOf n) 0
     | .zero n => zeroDivide f n
     | .finite v => reciprocal f y fr fi v)).looseFraction fr fi

/-- `31/32 ≤ y * sqrt x ≤ 33/32` for positive magnitudes (R325). -/
def nearRsqrt (x y : Exact) : Bool :=
  let k := x.exp + 2 * y.exp
  let num := x.mant * (y.mant * y.mant) * 2 ^ k.toNat
  let den := 2 ^ (-k).toNat
  decide (961 * den ≤ 1024 * num) && decide (1024 * num ≤ 1089 * den)

/-- The candidate `y` is positive and within the bound of `frsqrte`: any double, as the rule's bound and example say, although its
remark calls frD representable in single format (R325; log 20, DESIGN CHOICE). -/
def goodRsqrt (x : Exact) (y : Dword) : Bool :=
  match classify y with
  | .nan => false
  | .inf _ => false
  | .zero _ => false
  | .finite w => !w.neg && nearRsqrt x w

/-- rsqrte (R325; log 20). -/
def rsqrteOut (f : Word) (y : Dword) (fr fi : Bool) (b : Dword) : FpOut :=
  (withOperands .double f [b] (bitIf (rootInvalid (classify b)) bitVxsqrt)
    (match classify b with
     | .nan => FpOut.exact defaultNan 0
     | .inf _ => FpOut.exact (zeroOf false) 0
     | .zero n => zeroDivide f n
     | .finite v =>
       FpOut.exact (if goodRsqrt v y then y else (roundTo .double (roundMode f) false false v.rsqrt).value) 0)).looseFraction
    fr fi

/-! ## Conversions -/

/-- The signed integer nearest to a value under a rounding mode. -/
def Quantum.signed (q : Quantum) (neg : Bool) : Int := if neg then -(q.n : Int) else (q.n : Int)

/-- The greatest and the least `w`-bit signed integer, in 64 bits. -/
def saturated (w : Nat) (neg : Bool) : Dword :=
  if neg then BitVec.ofInt 64 (-(2 : Int) ^ (w - 1)) else BitVec.ofInt 64 ((2 : Int) ^ (w - 1) - 1)

/-- An invalid conversion: VXCVI, and no result when VE = 1 (44 R356). -/
def convertInvalid (f : Word) (fprf : BitVec 5) (v : Dword) (extra : Word) : FpOut :=
  if fpscrVe f then FpOut.none (bitVxcvi ||| extra) else ⟨some v, some fprf, false, false, bitVxcvi ||| extra⟩

/-- Conversion to a `w`-bit signed integer under `mode`, `fprf` being the undefined FPRF (44 R356, R358). -/
def toIntegerOut (w : Nat) (mode : RoundMode) (f : Word) (fprf : BitVec 5) (b : Dword) : FpOut :=
  match classify b with
  | .nan => convertInvalid f fprf (saturated w true) (bitIf (isSnan b) bitVxsnan)
  | .inf n => convertInvalid f fprf (saturated w n) 0
  | .zero _ => ⟨some 0, some fprf, false, false, 0⟩
  | .finite v =>
    let q := quantize mode v 0
    let i := q.signed v.neg
    if i < -(2 : Int) ^ (w - 1) ∨ (2 : Int) ^ (w - 1) ≤ i then convertInvalid f fprf (saturated w v.neg) 0
    else ⟨some (BitVec.ofInt 64 i), some fprf, q.up, q.inexact, bitIf q.inexact bitXx⟩

/-! ## FP_RESULT as the host supplies it -/

/-- An instruction never sets an exception bit outside the list of its page (R310 item 1). -/
def FpOut.within (affected : Word) (out : FpOut) : FpOut := { out with raised := out.raised &&& affected }

/-- The outcome of an operation whose value and raised bits are known (R310 items 2, 3 and 5): with an enabled invalid operation or
zero divide there is no result; otherwise FPRF is the class of the value. -/
def answerOut (f : Word) (a : FpAnswer) : FpOut :=
  if (fpscrVx a.raised && fpscrVe f) || (a.raised.getMsbD 5 && fpscrZe f) then FpOut.none a.raised
  else ⟨some a.value, some (fprfOf a.value), a.fr, a.fi, a.raised⟩

/-- The answer raises an invalid operation or a zero divide among the exceptions that the page lists. -/
def answerClears (affected : Word) (a : FpAnswer) : Bool :=
  fpscrVx (a.raised &&& affected) || (a.raised &&& affected).getMsbD 5

/-- The answer with the exception bits that the page lists (R310 item 1), XX among them where FI is set, and FR and FI 0 where it
raises an invalid operation or a zero divide (R312). -/
def answerWithin (affected : Word) (a : FpAnswer) : FpAnswer :=
  let keep := !answerClears affected a
  { a with fr := a.fr && keep, fi := a.fi && keep, raised := (a.raised ||| bitIf (a.fi && keep) bitXx) &&& affected }

/-- The value can stand as the result of a single-precision instruction: it is representable in single format, a NaN without the
fraction bits 35:63 (R310 item 4). -/
def singleResult (d : Dword) : Bool := singleRepresentable d && slice 29 d 35 == 0

/-- The host's answer under the constraints of R310: in single precision a value that is no single is not admitted, and the
reference instance's `ref` stands in its place (item 4; log 18). -/
def admitAnswer (f affected : Word) (single : Bool) (ref : FpOut) (a : FpAnswer) : FpOut :=
  if single && !singleResult a.value then ref else answerOut f (answerWithin affected a)

/-- The spec's own pages bind the result in every instance (R310 items 6 and 7): the special operands of a square root, and the
estimates, for which the reference instance draws any value within the stated error. -/
def boundByPage (op : FpOp) (b : Dword) : Bool :=
  match op with
  | .sqrt =>
    match classify b with
    | .finite v => v.neg
    | .nan => true
    | .inf _ => true
    | .zero _ => true
  | .res => true
  | .rsqrte => true
  | .add => false
  | .sub => false
  | .mul => false
  | .div => false
  | .madd => false
  | .msub => false
  | .nmadd => false
  | .nmsub => false

/-- The operands of an arithmetic instruction: 0 stands for one that it does not have. -/
structure FpOperands where
  a : Dword
  b : Dword
  c : Dword
  deriving DecidableEq, Repr

/-- The request for an operation under the FPSCR `f` (R310). -/
def fpRequest (op : FpOp) (single : Bool) (x : FpOperands) (f : Word) : FpRequest :=
  { op := op, single := single, rn := slice 2 f 30, a := x.a, b := x.b, c := x.c, ve := fpscrVe f, ze := fpscrZe f,
    oe := fpscrOe f, ue := fpscrUe f }

/-- FP_RESULT.arith (R310): the reference instance's `ref`, or the host's answer under the constraints. -/
def arithResult (op : FpOp) (single : Bool) (x : FpOperands) (affected : Word) (ref : FpOut) (s : State) : FpOut :=
  match s.cfg.fpResult with
  | .reference => ref
  | .supplied =>
    if boundByPage op x.b then ref
    else admitAnswer s.fpscr affected single ref (Config.fpArith (fpRequest op single x s.fpscr))

/-- A conversion to an integer. -/
def convertsToInteger (kind : FpKind) : Bool :=
  match kind with
  | .rsp => false
  | .ctiw => true
  | .ctiwz => true
  | .ctid => true
  | .ctidz => true
  | .cfid => false

/-- The host may choose the value of this conversion: of a NaN, to an integer, or to a single among the values that are singles. -/
def freeConversion (kind : FpKind) (b v : Dword) : Bool :=
  match kind with
  | .rsp => isNan b && singleResult v
  | .ctiw => isNan b
  | .ctiwz => isNan b
  | .ctid => isNan b
  | .ctidz => isNan b
  | .cfid => false

/-- The host's answer for a conversion, bound by what R350 says of any replacement, `bare` being the reference instance's output with
no exception enabled: the rounding mode and the saturation values decide the value, FR and FI, a saturated result of a number being
inexact and not incremented; the exception bits are the host's (44 R350; log 18). -/
def boundConversion (kind : FpKind) (b : Dword) (bare : FpOut) (a : FpAnswer) : FpAnswer :=
  let saturates := convertsToInteger kind && !isNan b && bare.raised.getMsbD 23
  { a with value := if freeConversion kind b a.value then a.value else bare.value.getD 0, fr := bare.fr, fi := bare.fi || saturates }

/-- The host's answer for a conversion under the constraints: the bits are those that the page lists, an enabled invalid operation
has no result, and FPRF is the class of the value, or undefined for the conversions to an integer (44 R350, R355 to R360). -/
def admitConversion (kind : FpKind) (f affected : Word) (b : Dword) (bare : FpOut) (a : FpAnswer) : FpOut :=
  let out := answerOut f (answerWithin affected (boundConversion kind b bare a))
  { out with fprf := out.fprf.bind (fun c => if convertsToInteger kind then bare.fprf else some c) }

/-- FP_RESULT.convert (44 R350): the reference instance's `ref` under the FPSCR, or the host's answer under the constraints. Of the
FPSCR that answer depends on RN and VE alone, so `ref` is asked with RN alone. -/
def convertResult (kind : FpKind) (affected : Word) (b : Dword) (ref : Word → FpOut) (s : State) : FpOut :=
  match s.cfg.fpResult with
  | .reference => (ref s.fpscr).within affected
  | .supplied => admitConversion kind s.fpscr affected b (ref (s.fpscr &&& 3))
      (Config.fpConvert { kind := kind, rn := slice 2 s.fpscr 30, b := b, ve := fpscrVe s.fpscr })

/-! ## Running an operation -/

/-- A double-precision operation; one value is drawn, for a scaled result outside the format. -/
def runDouble (frd : BitVec 5) (rc : Bool) (affected : Word) (op : FpOp) (x : FpOperands) (out : Word → Dword → FpOut) (s : State) :
    Result :=
  fpFinish frd false rc (arithResult op false x affected ((out s.fpscr (s.draw 64)).within affected) s) s.drew

/-- The output that R311 leaves undefined: every part is drawn; the raised bits are among those the page lists (93 A27). -/
def FpOut.undefined (v : Dword) (bits : Word) : FpOut :=
  ⟨some v, some (slice 5 bits 15), bits.getMsbD 13, bits.getMsbD 14, bits⟩

/-- A single-precision operation: where an operand is not a single-format value, frD, FPRF, FR, FI and the exception bits the
page lists (`affected`) are free (R311; 93 A27). -/
def runSingle (frd : BitVec 5) (rc : Bool) (used : List Dword) (affected : Word) (op : FpOp) (x : FpOperands)
    (out : Word → Dword → FpOut) (s : State) : Result :=
  if used.all singleRepresentable then
    fpFinish frd true rc (arithResult op true x affected ((out s.fpscr (s.draw 64)).within affected) s) s.drew.drew
  else fpFinish frd true rc ((FpOut.undefined (s.draw 64) (s.drew.draw 32)).within affected) s.drew.drew

end Sys2Proof.Machine
end

