-- ==== Sys2Proof/Machine/FloatArith.lean ====
section
/-!
DEFINITION. Floating-point arithmetic instructions (43_float_arithmetic R314 to R334).
-/

namespace Sys2Proof.Machine

/-- The exception bits that the pages of add and subtract list (R314). -/
def affectedAdd : Word := bitOx ||| bitUx ||| bitXx ||| bitVxsnan ||| bitVxisi
/-- Of multiply (R318). -/
def affectedMul : Word := bitOx ||| bitUx ||| bitXx ||| bitVxsnan ||| bitVximz
/-- Of divide (R320). -/
def affectedDiv : Word := bitOx ||| bitUx ||| bitZx ||| bitXx ||| bitVxsnan ||| bitVxidi ||| bitVxzdz
/-- Of square root (R322). -/
def affectedSqrt : Word := bitXx ||| bitVxsnan ||| bitVxsqrt
/-- Of the reciprocal estimate (R324). -/
def affectedRes : Word := bitOx ||| bitUx ||| bitZx ||| bitVxsnan
/-- Of the reciprocal square root estimate (R325). -/
def affectedRsqrte : Word := bitZx ||| bitVxsnan ||| bitVxsqrt
/-- Of the multiply-add forms (R327). -/
def affectedMadd : Word := bitOx ||| bitUx ||| bitXx ||| bitVxsnan ||| bitVxisi ||| bitVximz

/-- The test of fsel (R326): not a NaN, and not less than zero; the sign of zero is ignored. -/
def atLeastZero (d : Dword) : Bool := !isNan d && (!signOf d || slice 63 d 1 == 0)

/-- `fadd` (R314). -/
def execFaddx (frd fra frb : BitVec 5) (rc : Bool) (s : State) : Result :=
  guarded (.faddx frd fra frb rc) s <|
    runDouble frd rc affectedAdd .add ⟨s.getFpr fra, s.getFpr frb, 0⟩
      (fun f u => addOut .double false f u (s.getFpr fra) (s.getFpr frb)) s

/-- `fadds` (R315). -/
def execFaddsx (frd fra frb : BitVec 5) (rc : Bool) (s : State) : Result :=
  guarded (.faddsx frd fra frb rc) s <|
    runSingle frd rc [s.getFpr fra, s.getFpr frb] affectedAdd .add ⟨s.getFpr fra, s.getFpr frb, 0⟩
      (fun f u => addOut .single false f u (s.getFpr fra) (s.getFpr frb)) s

/-- `fsub` (R316). -/
def execFsubx (frd fra frb : BitVec 5) (rc : Bool) (s : State) : Result :=
  guarded (.fsubx frd fra frb rc) s <|
    runDouble frd rc affectedAdd .sub ⟨s.getFpr fra, s.getFpr frb, 0⟩
      (fun f u => addOut .double true f u (s.getFpr fra) (s.getFpr frb)) s

/-- `fsubs` (R317). -/
def execFsubsx (frd fra frb : BitVec 5) (rc : Bool) (s : State) : Result :=
  guarded (.fsubsx frd fra frb rc) s <|
    runSingle frd rc [s.getFpr fra, s.getFpr frb] affectedAdd .sub ⟨s.getFpr fra, s.getFpr frb, 0⟩
      (fun f u => addOut .single true f u (s.getFpr fra) (s.getFpr frb)) s

/-- `fmul` (R318). -/
def execFmulx (frd fra frc : BitVec 5) (rc : Bool) (s : State) : Result :=
  guarded (.fmulx frd fra frc rc) s <|
    runDouble frd rc affectedMul .mul ⟨s.getFpr fra, 0, s.getFpr frc⟩
      (fun f u => mulOut .double f u (s.getFpr fra) (s.getFpr frc)) s

/-- `fmuls` (R319). -/
def execFmulsx (frd fra frc : BitVec 5) (rc : Bool) (s : State) : Result :=
  guarded (.fmulsx frd fra frc rc) s <|
    runSingle frd rc [s.getFpr fra, s.getFpr frc] affectedMul .mul ⟨s.getFpr fra, 0, s.getFpr frc⟩
      (fun f u => mulOut .single f u (s.getFpr fra) (s.getFpr frc)) s

/-- `fdiv` (R320). -/
def execFdivx (frd fra frb : BitVec 5) (rc : Bool) (s : State) : Result :=
  guarded (.fdivx frd fra frb rc) s <|
    runDouble frd rc affectedDiv .div ⟨s.getFpr fra, s.getFpr frb, 0⟩
      (fun f u => divOut .double f u (s.getFpr fra) (s.getFpr frb)) s

/-- `fdivs` (R321). -/
def execFdivsx (frd fra frb : BitVec 5) (rc : Bool) (s : State) : Result :=
  guarded (.fdivsx frd fra frb rc) s <|
    runSingle frd rc [s.getFpr fra, s.getFpr frb] affectedDiv .div ⟨s.getFpr fra, s.getFpr frb, 0⟩
      (fun f u => divOut .single f u (s.getFpr fra) (s.getFpr frb)) s

/-- `fsqrt` (R322). -/
def execFsqrtx (frd frb : BitVec 5) (rc : Bool) (s : State) : Result :=
  guarded (.fsqrtx frd frb rc) s <|
    runDouble frd rc affectedSqrt .sqrt ⟨0, s.getFpr frb, 0⟩ (fun f u => sqrtOut .double f u (s.getFpr frb)) s

/-- `fsqrts` (R323). -/
def execFsqrtsx (frd frb : BitVec 5) (rc : Bool) (s : State) : Result :=
  guarded (.fsqrtsx frd frb rc) s <|
    runSingle frd rc [s.getFpr frb] affectedSqrt .sqrt ⟨0, s.getFpr frb, 0⟩ (fun f u => sqrtOut .single f u (s.getFpr frb)) s

/-- FR and FI of an estimate: two undefined bits (R310 item 6). -/
def estimateBits (s : State) : BitVec 2 := s.drew.draw 2

/-- `fres` (R324): the candidate, FR and FI are free. -/
def execFresx (frd frb : BitVec 5) (rc : Bool) (s : State) : Result :=
  guarded (.fresx frd frb rc) s <|
    runSingle frd rc [s.getFpr frb] affectedRes .res ⟨0, s.getFpr frb, 0⟩
      (fun f u => resOut f u ((estimateBits s).getMsbD 0) ((estimateBits s).getMsbD 1) (s.getFpr frb)) s

/-- `frsqrte` (R325): the candidate, FR and FI are free. -/
def execFrsqrtex (frd frb : BitVec 5) (rc : Bool) (s : State) : Result :=
  guarded (.frsqrtex frd frb rc) s <|
    runDouble frd rc affectedRsqrte .rsqrte ⟨0, s.getFpr frb, 0⟩
      (fun f u => rsqrteOut f u ((estimateBits s).getMsbD 0) ((estimateBits s).getMsbD 1) (s.getFpr frb)) s

/-- `fsel` (R326): a copy; the FPSCR is not altered. -/
def execFselx (frd fra frb frc : BitVec 5) (rc : Bool) (s : State) : Result :=
  guarded (.fselx frd fra frb frc rc) s <|
    done ((s.setFpr frd (if atLeastZero (s.getFpr fra) then s.getFpr frc else s.getFpr frb) false).recordCr1If rc)

/-- `fmadd` (R327). -/
def execFmaddx (frd fra frb frc : BitVec 5) (rc : Bool) (s : State) : Result :=
  guarded (.fmaddx frd fra frb frc rc) s <|
    runDouble frd rc affectedMadd .madd ⟨s.getFpr fra, s.getFpr frb, s.getFpr frc⟩
      (fun f u => maddOut .double false false f u (s.getFpr fra) (s.getFpr frb) (s.getFpr frc)) s

/-- `fmadds` (R328). -/
def execFmaddsx (frd fra frb frc : BitVec 5) (rc : Bool) (s : State) : Result :=
  guarded (.fmaddsx frd fra frb frc rc) s <|
    runSingle frd rc [s.getFpr fra, s.getFpr frb, s.getFpr frc] affectedMadd .madd ⟨s.getFpr fra, s.getFpr frb, s.getFpr frc⟩
      (fun f u => maddOut .single false false f u (s.getFpr fra) (s.getFpr frb) (s.getFpr frc)) s

/-- `fmsub` (R329). -/
def execFmsubx (frd fra frb frc : BitVec 5) (rc : Bool) (s : State) : Result :=
  guarded (.fmsubx frd fra frb frc rc) s <|
    runDouble frd rc affectedMadd .msub ⟨s.getFpr fra, s.getFpr frb, s.getFpr frc⟩
      (fun f u => maddOut .double true false f u (s.getFpr fra) (s.getFpr frb) (s.getFpr frc)) s

/-- `fmsubs` (R330). -/
def execFmsubsx (frd fra frb frc : BitVec 5) (rc : Bool) (s : State) : Result :=
  guarded (.fmsubsx frd fra frb frc rc) s <|
    runSingle frd rc [s.getFpr fra, s.getFpr frb, s.getFpr frc] affectedMadd .msub ⟨s.getFpr fra, s.getFpr frb, s.getFpr frc⟩
      (fun f u => maddOut .single true false f u (s.getFpr fra) (s.getFpr frb) (s.getFpr frc)) s

/-- `fnmadd` (R331). -/
def execFnmaddx (frd fra frb frc : BitVec 5) (rc : Bool) (s : State) : Result :=
  guarded (.fnmaddx frd fra frb frc rc) s <|
    runDouble frd rc affectedMadd .nmadd ⟨s.getFpr fra, s.getFpr frb, s.getFpr frc⟩
      (fun f u => maddOut .double false true f u (s.getFpr fra) (s.getFpr frb) (s.getFpr frc)) s

/-- `fnmadds` (R332). -/
def execFnmaddsx (frd fra frb frc : BitVec 5) (rc : Bool) (s : State) : Result :=
  guarded (.fnmaddsx frd fra frb frc rc) s <|
    runSingle frd rc [s.getFpr fra, s.getFpr frb, s.getFpr frc] affectedMadd .nmadd ⟨s.getFpr fra, s.getFpr frb, s.getFpr frc⟩
      (fun f u => maddOut .single false true f u (s.getFpr fra) (s.getFpr frb) (s.getFpr frc)) s

/-- `fnmsub` (R333). -/
def execFnmsubx (frd fra frb frc : BitVec 5) (rc : Bool) (s : State) : Result :=
  guarded (.fnmsubx frd fra frb frc rc) s <|
    runDouble frd rc affectedMadd .nmsub ⟨s.getFpr fra, s.getFpr frb, s.getFpr frc⟩
      (fun f u => maddOut .double true true f u (s.getFpr fra) (s.getFpr frb) (s.getFpr frc)) s

/-- `fnmsubs` (R334). -/
def execFnmsubsx (frd fra frb frc : BitVec 5) (rc : Bool) (s : State) : Result :=
  guarded (.fnmsubsx frd fra frb frc rc) s <|
    runSingle frd rc [s.getFpr fra, s.getFpr frb, s.getFpr frc] affectedMadd .nmsub ⟨s.getFpr fra, s.getFpr frb, s.getFpr frc⟩
      (fun f u => maddOut .single true true f u (s.getFpr fra) (s.getFpr frb) (s.getFpr frc)) s

end Sys2Proof.Machine
end

