-- ==== Sys2Proof/Machine/FloatMove.lean ====
section
/-!
DEFINITION. Floating-point moves, rounding, conversions, comparisons and the FPSCR instructions
(44_float_move_convert_fpscr R350 to R368).
-/

namespace Sys2Proof.Machine

/-- A floating-point move: a bit pattern and its `single_origin` tag; the FPSCR is not altered (R350, R469). -/
def moveFpr (frd frb : BitVec 5) (rc : Bool) (v : Dword) (s : State) : Result :=
  done ((s.setFpr frd v (s.isSingle frb)).recordCr1If rc)

/-- `fmr` (R351). -/
def execFmrx (frd frb : BitVec 5) (rc : Bool) (s : State) : Result :=
  guarded (.fmrx frd frb rc) s <| moveFpr frd frb rc (s.getFpr frb) s

/-- `fneg` (R352): bit 0 inverted. -/
def execFnegx (frd frb : BitVec 5) (rc : Bool) (s : State) : Result :=
  guarded (.fnegx frd frb rc) s <| moveFpr frd frb rc (s.getFpr frb ^^^ 0x8000000000000000) s

/-- `fabs` (R353): bit 0 cleared. -/
def execFabsx (frd frb : BitVec 5) (rc : Bool) (s : State) : Result :=
  guarded (.fabsx frd frb rc) s <| moveFpr frd frb rc (s.getFpr frb &&& 0x7FFFFFFFFFFFFFFF) s

/-- `fnabs` (R354): bit 0 set. -/
def execFnabsx (frd frb : BitVec 5) (rc : Bool) (s : State) : Result :=
  guarded (.fnabsx frd frb rc) s <| moveFpr frd frb rc (s.getFpr frb ||| 0x8000000000000000) s

/-- The exception bits that the page of frsp lists (R355). -/
def affectedRsp : Word := bitOx ||| bitUx ||| bitXx ||| bitVxsnan
/-- Of the conversions to an integer (R356). -/
def affectedConvert : Word := bitXx ||| bitVxsnan ||| bitVxcvi
/-- Of the conversion from an integer (R360). -/
def affectedCfid : Word := bitXx

/-- The output of frsp (R355): NaNs lose the fraction bits 35:63, every other value is rounded to single precision. -/
def rspOut (f : Word) (u b : Dword) : FpOut :=
  withOperands .single f [b] 0 (.ofValue .single f u false (classify b))

/-- `frsp` (R355). -/
def execFrspx (frd frb : BitVec 5) (rc : Bool) (s : State) : Result :=
  guarded (.frspx frd frb rc) s <|
    convertFinish frd true rc
      (convertResult .rsp affectedRsp (s.getFpr frb) (fun f => rspOut f (s.draw 64) (s.getFpr frb)) s) s.drew

/-- The undefined FPRF of a conversion to an integer, drawn after the undefined half of the result (R356). -/
def undefinedFprf (s : State) : BitVec 5 := s.drew.draw 5

/-- A conversion to a word: bits 0 to 31 of the result are undefined (R356). -/
def FpOut.lowWord (u : Word) (out : FpOut) : FpOut := { out with value := out.value.map (fun v => joinWords u (low v)) }

/-- Conversion to a word under the mode that `mode` finds in the FPSCR (R356, R357). -/
def convertWord (frd frb : BitVec 5) (rc : Bool) (kind : FpKind) (mode : Word → RoundMode) (s : State) : Result :=
  convertFinish frd false rc
    ((convertResult kind affectedConvert (s.getFpr frb)
      (fun f => toIntegerOut 32 (mode f) f (undefinedFprf s) (s.getFpr frb)) s).lowWord (s.draw 32)) s.drew.drew

/-- `fctiw` (R356). -/
def execFctiwx (frd frb : BitVec 5) (rc : Bool) (s : State) : Result :=
  guarded (.fctiwx frd frb rc) s <| convertWord frd frb rc .ctiw roundMode s

/-- `fctiwz` (R357). -/
def execFctiwzx (frd frb : BitVec 5) (rc : Bool) (s : State) : Result :=
  guarded (.fctiwzx frd frb rc) s <| convertWord frd frb rc .ctiwz (fun _ => .zero) s

/-- Conversion to a doubleword under the mode that `mode` finds in the FPSCR (R358, R359). -/
def convertDword (frd frb : BitVec 5) (rc : Bool) (kind : FpKind) (mode : Word → RoundMode) (s : State) : Result :=
  convertFinish frd false rc
    (convertResult kind affectedConvert (s.getFpr frb) (fun f => toIntegerOut 64 (mode f) f (s.draw 5) (s.getFpr frb)) s) s.drew

/-- `fctid` (R358). -/
def execFctidx (frd frb : BitVec 5) (rc : Bool) (s : State) : Result :=
  guarded (.fctidx frd frb rc) s <| convertDword frd frb rc .ctid roundMode s

/-- `fctidz` (R359). -/
def execFctidzx (frd frb : BitVec 5) (rc : Bool) (s : State) : Result :=
  guarded (.fctidzx frd frb rc) s <| convertDword frd frb rc .ctidz (fun _ => .zero) s

/-- The output of fcfid (R360): a 64-bit integer always lies inside the double format. -/
def cfidOut (f : Word) (b : Dword) : FpOut := .ofValue .double f 0 false (ofInt false b.toInt 0)

/-- `fcfid` (R360). -/
def execFcfidx (frd frb : BitVec 5) (rc : Bool) (s : State) : Result :=
  guarded (.fcfidx frd frb rc) s <| convertFinish frd false rc
    (convertResult .cfid affectedCfid (s.getFpr frb) (fun f => cfidOut f (s.getFpr frb)) s) s

/-! ## Comparisons -/

/-- A number that orders non-NaN doubles by value; both zeros give 0. -/
def orderKey (d : Dword) : Int := if signOf d then -((slice 63 d 1).toNat : Int) else ((slice 63 d 1).toNat : Int)

/-- The code c of a comparison: LT, GT, EQ or UN (R361). -/
def compareCode (a b : Dword) : BitVec 4 :=
  if isNan a || isNan b then 0b0001
  else if orderKey a < orderKey b then 0b1000
  else if orderKey b < orderKey a then 0b0100
  else 0b0010

/-- VXSNAN when an operand is a signalling NaN (R361). -/
def unorderedRaised (a b : Dword) : Word := bitIf (isSnan a || isSnan b) bitVxsnan

/-- The exception bits of fcmpo (R362). -/
def orderedRaised (f : Word) (a b : Dword) : Word :=
  if isSnan a || isSnan b then bitVxsnan ||| bitIf (!fpscrVe f) bitVxvc else bitIf (isNan a || isNan b) bitVxvc

/-- FPCC and the exception bits of a comparison (R361). -/
def compareFpscr (f : Word) (c : BitVec 4) (raised : Word) : Word :=
  withFx f (merge 0xF000 (c.setWidth 32 <<< 12) (f ||| raised))

/-- A comparison's end: CR field, FPSCR, and the enabled exception when FEX = 1 (R361, R362, R350; log 38). -/
def endCompare (crfd : BitVec 3) (c : BitVec 4) (raised : Word) (s : State) : Result :=
  endFex ((s.setCrField crfd c).setFpscr (compareFpscr s.fpscr c raised))

/-- `fcmpu` (R361). -/
def execFcmpu (crfd : BitVec 3) (fra frb : BitVec 5) (s : State) : Result :=
  guarded (.fcmpu crfd fra frb) s <|
    endCompare crfd (compareCode (s.getFpr fra) (s.getFpr frb)) (unorderedRaised (s.getFpr fra) (s.getFpr frb)) s

/-- `fcmpo` (R362). -/
def execFcmpo (crfd : BitVec 3) (fra frb : BitVec 5) (s : State) : Result :=
  guarded (.fcmpo crfd fra frb) s <|
    endCompare crfd (compareCode (s.getFpr fra) (s.getFpr frb)) (orderedRaised s.fpscr (s.getFpr fra) (s.getFpr frb)) s

/-! ## FPSCR -/

/-- `mffs` (R363): bits 0 to 31 of the result are undefined. -/
def execMffsx (frd : BitVec 5) (rc : Bool) (s : State) : Result :=
  guarded (.mffsx frd rc) s <|
    done ((s.drew.setFpr frd (joinWords (s.draw 32) s.fpscr) false).recordCr1If rc)

/-- The end of an instruction that writes the FPSCR: CR1 when Rc = 1, and the enabled exception when FEX = 1 (R350; 60 R608
(a)). -/
def endFpscr (rc : Bool) (f : Word) (s : State) : Result := endFex ((s.setFpscr f).recordCr1If rc)

/-- The exception bits that mcrfs clears when it copies field `f`: FX and the bits of 3 to 12, 21 to 23 (R364). -/
def clearedByCopy (f : BitVec 3) : Word := fieldWord f 0xF &&& (fpscrExceptions ||| 0x80000000)

/-- `mcrfs` (R364). -/
def execMcrfs (crfd crfs : BitVec 3) (s : State) : Result :=
  guarded (.mcrfs crfd crfs) s <|
    endFpscr false (s.fpscr &&& ~~~ clearedByCopy crfs)
      (s.setCrField crfd (slice 4 s.fpscr (4 * crfs.toNat)))

/-- The FPSCR bits of field `f` that software can write: not FEX and VX (R365). -/
def writableField (f : BitVec 3) : Word := fieldWord f 0xF &&& ~~~ 0x60000000

/-- The FPSCR bits that a field mask selects (R365). -/
def fieldMask (fm : BitVec 8) : Word :=
  (List.range 8).foldl (fun m i => if fm.getMsbD i then m ||| writableField (BitVec.ofNat 3 i) else m) 0

/-- `mtfsf` (R365). -/
def execMtfsfx (fm : BitVec 8) (frb : BitVec 5) (rc : Bool) (s : State) : Result :=
  guarded (.mtfsfx fm frb rc) s <|
    endFpscr rc (merge (fieldMask fm) (low (s.getFpr frb)) s.fpscr) s

/-- `mtfsfi` (R366). -/
def execMtfsfix (crfd : BitVec 3) (imm : BitVec 4) (rc : Bool) (s : State) : Result :=
  guarded (.mtfsfix crfd imm rc) s <|
    endFpscr rc (merge (writableField crfd) (fieldWord crfd imm) s.fpscr) s

/-- Bit `i` of the FPSCR may be set and cleared: it is not FEX or VX (R367, R368). -/
def writableBit (i : BitVec 5) : Bool := i != 1 && i != 2

/-- `mtfsb0` (R367). -/
def execMtfsb0x (crbd : BitVec 5) (rc : Bool) (s : State) : Result :=
  guarded (.mtfsb0x crbd rc) s <|
    endFpscr rc (if writableBit crbd then putBit s.fpscr crbd.toNat false else s.fpscr) s

/-- `mtfsb1` (R368): FX by the usual rule. -/
def execMtfsb1x (crbd : BitVec 5) (rc : Bool) (s : State) : Result :=
  guarded (.mtfsb1x crbd rc) s <|
    endFpscr rc (if writableBit crbd then withFx s.fpscr (putBit s.fpscr crbd.toNat true) else s.fpscr) s

end Sys2Proof.Machine
end

