-- ==== Sys2Proof/Machine/Storage.lean ====
section
/-!
DEFINITION. Integer loads and stores (45_load_store_integer R380 to R430).
-/

namespace Sys2Proof.Machine

/-! ## Shared operations -/

/-- A loaded value zero-extended. -/
def zeroLoaded (bytes : List Byte) : Dword := ofBytes 64 bytes

/-- A loaded half word sign-extended. -/
def signHalf (bytes : List Byte) : Dword := (ofBytes 16 bytes).signExtend 64

/-- A loaded word sign-extended. -/
def signWord (bytes : List Byte) : Dword := (ofBytes 32 bytes).signExtend 64

/-- A loaded value whose bytes stand in the reverse order (R420, R421). -/
def reverseLoaded (bytes : List Byte) : Dword := ofBytes 64 bytes.reverse

/-- A load of `n` bytes at `ea` into rD (R380). -/
def loadGpr (rd : BitVec 5) (ea : Dword) (n : Nat) (extend : List Byte → Dword) (s : State) : Result :=
  (loadBytes s ea n).finish fun bytes t => done (t.setGpr rd (extend bytes))

/-- A load with update: rD, then rA receives the full sum (R380 step 4, R382). -/
def loadGprUpdate (rd ra : BitVec 5) (sum : Dword) (n : Nat) (extend : List Byte → Dword) (s : State) : Result :=
  (loadBytes s (s.ea32 sum) n).finish fun bytes t => done ((t.setGpr rd (extend bytes)).setGpr ra sum)

/-- A store of bytes at `ea` (R380). -/
def storeValue (ea : Dword) (bytes : List Byte) (s : State) : Result :=
  (storeBytes s ea bytes).finish fun _ t => done t

/-- A store with update: the bytes, then rA receives the full sum (R405). -/
def storeValueUpdate (ra : BitVec 5) (sum : Dword) (bytes : List Byte) (s : State) : Result :=
  (storeBytes s (s.ea32 sum) bytes).finish fun _ t => done (t.setGpr ra sum)

/-- The `n` low-order bytes of rS. -/
def gprBytes (s : State) (rs : BitVec 5) (n : Nat) : List Byte := toBytes n (s.getGpr rs)

/-- `n` words from `ea` on into rD, rD + 1, ... (R424). Registers loaded before an access fails stay loaded (60 R626). Addresses wrap
in the mode's width; 20_memory R92 notes that a model should refuse such an access, and this one performs it (log 33, DESIGN
CHOICE); so for the three operations below. -/
def loadWords (s : State) (r : BitVec 5) (ea : Dword) (n : Nat) : Access Unit :=
  match n with
  | 0 => .ok () s
  | n + 1 =>
    ((reachUnit s .load ea 4).bind readAt).bind fun bytes t =>
      loadWords (t.setGpr r (zeroLoaded bytes)) (r + 1) (t.ea32 (ea + 4)) n

/-- The low words of rS, rS + 1, ... stored from `ea` on (R425). Words stored before an access fails stay stored. -/
def storeWords (s : State) (r : BitVec 5) (ea : Dword) (n : Nat) : Access Unit :=
  match n with
  | 0 => .ok () s
  | n + 1 =>
    (reachUnit s .store ea 4).bind fun pas t =>
      storeWords (t.storeAll pas (gprBytes t r 4)) (r + 1) (t.ea32 (ea + 4)) n

/-- The register that holds byte `k` of a string (R430). -/
def stringReg (r : BitVec 5) (k : Nat) : BitVec 5 := r + BitVec.ofNat 5 (k / 4)

/-- How far left byte `k` of a string stands in its register's low word (R430). -/
def stringShift (k : Nat) : Nat := 8 * (3 - k % 4)

/-- `load_string` (R430): bytes `k`, `k + 1`, ... of the string, `n` of them, from `ea` on; a register is cleared before its
first byte. -/
def loadString (s : State) (rd : BitVec 5) (ea : Dword) (k n : Nat) : Access Unit :=
  match n with
  | 0 => .ok () s
  | n + 1 =>
    let r := stringReg rd k
    let s1 := if k % 4 = 0 then s.setGpr r 0 else s
    ((reachUnit s1 .load ea 1).bind readAt).bind fun bytes t =>
      loadString (t.setGpr r (t.getGpr r ||| (zeroLoaded bytes <<< stringShift k))) rd (t.ea32 (ea + 1)) (k + 1) n

/-- `store_string` (R430). -/
def storeString (s : State) (rs : BitVec 5) (ea : Dword) (k n : Nat) : Access Unit :=
  match n with
  | 0 => .ok () s
  | n + 1 =>
    (reachUnit s .store ea 1).bind fun pas t =>
      storeString (t.storeAll pas (toBytes 1 (t.getGpr (stringReg rs k) >>> stringShift k))) rs (t.ea32 (ea + 1)) (k + 1) n

/-- The end of a multiple or string instruction. -/
def finishMoves (a : Access Unit) : Result := a.finish fun _ t => done t

/-! ## Loads -/

/-- `lbz` (R381). -/
def execLbz (rd ra : BitVec 5) (d : BitVec 16) (s : State) : Result :=
  loadGpr rd (eaD s ra d) 1 zeroLoaded s

/-- `lbzu` (R382). -/
def execLbzu (rd ra : BitVec 5) (d : BitVec 16) (s : State) : Result :=
  guarded (.lbzu rd ra d) s <| loadGprUpdate rd ra (sumD s ra d) 1 zeroLoaded s

/-- `lbzx` (R383). -/
def execLbzx (rd ra rb : BitVec 5) (s : State) : Result :=
  loadGpr rd (eaX s ra rb) 1 zeroLoaded s

/-- `lbzux` (R384). -/
def execLbzux (rd ra rb : BitVec 5) (s : State) : Result :=
  guarded (.lbzux rd ra rb) s <| loadGprUpdate rd ra (sumX s ra rb) 1 zeroLoaded s

/-- `lhz` (R385). -/
def execLhz (rd ra : BitVec 5) (d : BitVec 16) (s : State) : Result :=
  loadGpr rd (eaD s ra d) 2 zeroLoaded s

/-- `lhzu` (R386). -/
def execLhzu (rd ra : BitVec 5) (d : BitVec 16) (s : State) : Result :=
  guarded (.lhzu rd ra d) s <| loadGprUpdate rd ra (sumD s ra d) 2 zeroLoaded s

/-- `lhzx` (R387). -/
def execLhzx (rd ra rb : BitVec 5) (s : State) : Result :=
  loadGpr rd (eaX s ra rb) 2 zeroLoaded s

/-- `lhzux` (R388). -/
def execLhzux (rd ra rb : BitVec 5) (s : State) : Result :=
  guarded (.lhzux rd ra rb) s <| loadGprUpdate rd ra (sumX s ra rb) 2 zeroLoaded s

/-- `lha` (R389). -/
def execLha (rd ra : BitVec 5) (d : BitVec 16) (s : State) : Result :=
  loadGpr rd (eaD s ra d) 2 signHalf s

/-- `lhau` (R390). -/
def execLhau (rd ra : BitVec 5) (d : BitVec 16) (s : State) : Result :=
  guarded (.lhau rd ra d) s <| loadGprUpdate rd ra (sumD s ra d) 2 signHalf s

/-- `lhax` (R391). -/
def execLhax (rd ra rb : BitVec 5) (s : State) : Result :=
  loadGpr rd (eaX s ra rb) 2 signHalf s

/-- `lhaux` (R392). -/
def execLhaux (rd ra rb : BitVec 5) (s : State) : Result :=
  guarded (.lhaux rd ra rb) s <| loadGprUpdate rd ra (sumX s ra rb) 2 signHalf s

/-- `lwz` (R393). -/
def execLwz (rd ra : BitVec 5) (d : BitVec 16) (s : State) : Result :=
  loadGpr rd (eaD s ra d) 4 zeroLoaded s

/-- `lwzu` (R394). -/
def execLwzu (rd ra : BitVec 5) (d : BitVec 16) (s : State) : Result :=
  guarded (.lwzu rd ra d) s <| loadGprUpdate rd ra (sumD s ra d) 4 zeroLoaded s

/-- `lwzx` (R395). -/
def execLwzx (rd ra rb : BitVec 5) (s : State) : Result :=
  loadGpr rd (eaX s ra rb) 4 zeroLoaded s

/-- `lwzux` (R396). -/
def execLwzux (rd ra rb : BitVec 5) (s : State) : Result :=
  guarded (.lwzux rd ra rb) s <| loadGprUpdate rd ra (sumX s ra rb) 4 zeroLoaded s

/-- `lwa` (R397). -/
def execLwa (rd ra : BitVec 5) (ds : BitVec 14) (s : State) : Result :=
  guarded (.lwa rd ra ds) s <| loadGpr rd (eaDs s ra ds) 4 signWord s

/-- `lwax` (R398). -/
def execLwax (rd ra rb : BitVec 5) (s : State) : Result :=
  guarded (.lwax rd ra rb) s <| loadGpr rd (eaX s ra rb) 4 signWord s

/-- `lwaux` (R399). -/
def execLwaux (rd ra rb : BitVec 5) (s : State) : Result :=
  guarded (.lwaux rd ra rb) s <| loadGprUpdate rd ra (sumX s ra rb) 4 signWord s

/-- `ld` (R400). -/
def execLd (rd ra : BitVec 5) (ds : BitVec 14) (s : State) : Result :=
  guarded (.ld rd ra ds) s <| loadGpr rd (eaDs s ra ds) 8 zeroLoaded s

/-- `ldu` (R401). -/
def execLdu (rd ra : BitVec 5) (ds : BitVec 14) (s : State) : Result :=
  guarded (.ldu rd ra ds) s <| loadGprUpdate rd ra (sumDs s ra ds) 8 zeroLoaded s

/-- `ldx` (R402). -/
def execLdx (rd ra rb : BitVec 5) (s : State) : Result :=
  guarded (.ldx rd ra rb) s <| loadGpr rd (eaX s ra rb) 8 zeroLoaded s

/-- `ldux` (R403). -/
def execLdux (rd ra rb : BitVec 5) (s : State) : Result :=
  guarded (.ldux rd ra rb) s <| loadGprUpdate rd ra (sumX s ra rb) 8 zeroLoaded s

/-! ## Stores -/

/-- `stb` (R404). -/
def execStb (rs ra : BitVec 5) (d : BitVec 16) (s : State) : Result :=
  storeValue (eaD s ra d) (gprBytes s rs 1) s

/-- `stbu` (R405). -/
def execStbu (rs ra : BitVec 5) (d : BitVec 16) (s : State) : Result :=
  guarded (.stbu rs ra d) s <| storeValueUpdate ra (sumD s ra d) (gprBytes s rs 1) s

/-- `stbx` (R406). -/
def execStbx (rs ra rb : BitVec 5) (s : State) : Result :=
  storeValue (eaX s ra rb) (gprBytes s rs 1) s

/-- `stbux` (R407). -/
def execStbux (rs ra rb : BitVec 5) (s : State) : Result :=
  guarded (.stbux rs ra rb) s <| storeValueUpdate ra (sumX s ra rb) (gprBytes s rs 1) s

/-- `sth` (R408). -/
def execSth (rs ra : BitVec 5) (d : BitVec 16) (s : State) : Result :=
  storeValue (eaD s ra d) (gprBytes s rs 2) s

/-- `sthu` (R409). -/
def execSthu (rs ra : BitVec 5) (d : BitVec 16) (s : State) : Result :=
  guarded (.sthu rs ra d) s <| storeValueUpdate ra (sumD s ra d) (gprBytes s rs 2) s

/-- `sthx` (R410). -/
def execSthx (rs ra rb : BitVec 5) (s : State) : Result :=
  storeValue (eaX s ra rb) (gprBytes s rs 2) s

/-- `sthux` (R411). -/
def execSthux (rs ra rb : BitVec 5) (s : State) : Result :=
  guarded (.sthux rs ra rb) s <| storeValueUpdate ra (sumX s ra rb) (gprBytes s rs 2) s

/-- `stw` (R412). -/
def execStw (rs ra : BitVec 5) (d : BitVec 16) (s : State) : Result :=
  storeValue (eaD s ra d) (gprBytes s rs 4) s

/-- `stwu` (R413). -/
def execStwu (rs ra : BitVec 5) (d : BitVec 16) (s : State) : Result :=
  guarded (.stwu rs ra d) s <| storeValueUpdate ra (sumD s ra d) (gprBytes s rs 4) s

/-- `stwx` (R414). -/
def execStwx (rs ra rb : BitVec 5) (s : State) : Result :=
  storeValue (eaX s ra rb) (gprBytes s rs 4) s

/-- `stwux` (R415). -/
def execStwux (rs ra rb : BitVec 5) (s : State) : Result :=
  guarded (.stwux rs ra rb) s <| storeValueUpdate ra (sumX s ra rb) (gprBytes s rs 4) s

/-- `std` (R416). -/
def execStd (rs ra : BitVec 5) (ds : BitVec 14) (s : State) : Result :=
  guarded (.std rs ra ds) s <| storeValue (eaDs s ra ds) (gprBytes s rs 8) s

/-- `stdu` (R417). -/
def execStdu (rs ra : BitVec 5) (ds : BitVec 14) (s : State) : Result :=
  guarded (.stdu rs ra ds) s <| storeValueUpdate ra (sumDs s ra ds) (gprBytes s rs 8) s

/-- `stdx` (R418). -/
def execStdx (rs ra rb : BitVec 5) (s : State) : Result :=
  guarded (.stdx rs ra rb) s <| storeValue (eaX s ra rb) (gprBytes s rs 8) s

/-- `stdux` (R419). -/
def execStdux (rs ra rb : BitVec 5) (s : State) : Result :=
  guarded (.stdux rs ra rb) s <| storeValueUpdate ra (sumX s ra rb) (gprBytes s rs 8) s

/-! ## Byte reverse -/

/-- `lhbrx` (R420). -/
def execLhbrx (rd ra rb : BitVec 5) (s : State) : Result :=
  loadGpr rd (eaX s ra rb) 2 reverseLoaded s

/-- `lwbrx` (R421). -/
def execLwbrx (rd ra rb : BitVec 5) (s : State) : Result :=
  loadGpr rd (eaX s ra rb) 4 reverseLoaded s

/-- `sthbrx` (R422). -/
def execSthbrx (rs ra rb : BitVec 5) (s : State) : Result :=
  storeValue (eaX s ra rb) (gprBytes s rs 2).reverse s

/-- `stwbrx` (R423). -/
def execStwbrx (rs ra rb : BitVec 5) (s : State) : Result :=
  storeValue (eaX s ra rb) (gprBytes s rs 4).reverse s

/-! ## Multiple and string -/

/-- `lmw` (R424): rA in the range loaded is an invalid form; a misaligned EA takes the alignment exception. -/
def execLmw (rd ra : BitVec 5) (d : BitVec 16) (s : State) : Result :=
  guarded (.lmw rd ra d) s <|
    if alignedTo (eaD s ra d) 4 then finishMoves (loadWords s rd (eaD s ra d) (32 - rd.toNat))
    else raise (.alignment (eaD s ra d)) s

/-- `stmw` (R425). -/
def execStmw (rs ra : BitVec 5) (d : BitVec 16) (s : State) : Result :=
  if alignedTo (eaD s ra d) 4 then finishMoves (storeWords s rs (eaD s ra d) (32 - rs.toNat))
  else raise (.alignment (eaD s ra d)) s

/-- `lswi` (R426). -/
def execLswi (rd ra nb : BitVec 5) (s : State) : Result :=
  guarded (.lswi rd ra nb) s <| finishMoves (loadString s rd (eaR s ra) 0 (stringCount nb))

/-- `lswx` (R427): a count of 0 leaves rD undefined; rA or rB in the range loaded is boundedly undefined. -/
def execLswx (rd ra rb : BitVec 5) (s : State) : Result :=
  guarded (.lswx rd ra rb) s <|
    let n := s.xerCount
    if n = 0 then done (s.setGpr rd (s.draw 64)).drew
    else if inWrappedRange ra rd ((n + 3) / 4) || inWrappedRange rb rd ((n + 3) / 4) then .fault .boundedlyUndefined
    else finishMoves (loadString s rd (eaX s ra rb) 0 n)

/-- `stswi` (R428). -/
def execStswi (rs ra nb : BitVec 5) (s : State) : Result :=
  finishMoves (storeString s rs (eaR s ra) 0 (stringCount nb))

/-- `stswx` (R429). -/
def execStswx (rs ra rb : BitVec 5) (s : State) : Result :=
  finishMoves (storeString s rs (eaX s ra rb) 0 s.xerCount)

end Sys2Proof.Machine
end

