-- ==== Sys2Proof/Machine/FloatStorage.lean ====
section
/-!
DEFINITION. Floating-point loads and stores (46_load_store_float R450 to R469).
-/

namespace Sys2Proof.Machine

/-- The value that a single load puts into a register (R453). -/
def singleLoaded (bytes : List Byte) : Dword := toDouble (ofBytes 32 bytes)

/-- A load into an FPR with its `single_origin` tag (R450, R469). -/
def loadFpr (frd : BitVec 5) (ea : Dword) (n : Nat) (single : Bool) (convert : List Byte → Dword) (s : State) : Result :=
  (loadBytes s ea n).finish fun bytes t => done (t.setFpr frd (convert bytes) single)

/-- The same with update (R454). -/
def loadFprUpdate (frd ra : BitVec 5) (sum : Dword) (n : Nat) (single : Bool) (convert : List Byte → Dword) (s : State) : Result :=
  (loadBytes s (s.ea32 sum) n).finish fun bytes t => done ((t.setFpr frd (convert bytes) single).setGpr ra sum)

/-- The bytes that a single store stores (R461): of an undefined value where SINGLE is undefined. -/
def singleBytes (s : State) (frs : BitVec 5) : List Byte := toBytes 4 (toSingle (s.draw 32) (s.getFpr frs))

/-- The state after the value of a single store is formed: a value has been drawn if it is undefined. -/
def State.formSingle (s : State) (frs : BitVec 5) : State := if singleUndefined (s.getFpr frs) then s.drew else s

/-- The bytes that stfiwx stores: of an undefined value when the register has a single origin (R469). -/
def integerBytes (s : State) (frs : BitVec 5) : List Byte :=
  toBytes 4 (if s.isSingle frs then s.draw 32 else low (s.getFpr frs))

/-- The state after that value is formed. -/
def State.formInteger (s : State) (frs : BitVec 5) : State := if s.isSingle frs then s.drew else s

/-- `lfs` (R453). -/
def execLfs (frd ra : BitVec 5) (d : BitVec 16) (s : State) : Result :=
  guarded (.lfs frd ra d) s <| loadFpr frd (eaD s ra d) 4 true singleLoaded s

/-- `lfsu` (R454). -/
def execLfsu (frd ra : BitVec 5) (d : BitVec 16) (s : State) : Result :=
  guarded (.lfsu frd ra d) s <| loadFprUpdate frd ra (sumD s ra d) 4 true singleLoaded s

/-- `lfsx` (R455). -/
def execLfsx (frd ra rb : BitVec 5) (s : State) : Result :=
  guarded (.lfsx frd ra rb) s <| loadFpr frd (eaX s ra rb) 4 true singleLoaded s

/-- `lfsux` (R456). -/
def execLfsux (frd ra rb : BitVec 5) (s : State) : Result :=
  guarded (.lfsux frd ra rb) s <| loadFprUpdate frd ra (sumX s ra rb) 4 true singleLoaded s

/-- `lfd` (R457). -/
def execLfd (frd ra : BitVec 5) (d : BitVec 16) (s : State) : Result :=
  guarded (.lfd frd ra d) s <| loadFpr frd (eaD s ra d) 8 false zeroLoaded s

/-- `lfdu` (R458). -/
def execLfdu (frd ra : BitVec 5) (d : BitVec 16) (s : State) : Result :=
  guarded (.lfdu frd ra d) s <| loadFprUpdate frd ra (sumD s ra d) 8 false zeroLoaded s

/-- `lfdx` (R459). -/
def execLfdx (frd ra rb : BitVec 5) (s : State) : Result :=
  guarded (.lfdx frd ra rb) s <| loadFpr frd (eaX s ra rb) 8 false zeroLoaded s

/-- `lfdux` (R460). -/
def execLfdux (frd ra rb : BitVec 5) (s : State) : Result :=
  guarded (.lfdux frd ra rb) s <| loadFprUpdate frd ra (sumX s ra rb) 8 false zeroLoaded s

/-- `stfs` (R461). -/
def execStfs (frs ra : BitVec 5) (d : BitVec 16) (s : State) : Result :=
  guarded (.stfs frs ra d) s <| storeValue (eaD s ra d) (singleBytes s frs) (s.formSingle frs)

/-- `stfsu` (R462). -/
def execStfsu (frs ra : BitVec 5) (d : BitVec 16) (s : State) : Result :=
  guarded (.stfsu frs ra d) s <| storeValueUpdate ra (sumD s ra d) (singleBytes s frs) (s.formSingle frs)

/-- `stfsx` (R463). -/
def execStfsx (frs ra rb : BitVec 5) (s : State) : Result :=
  guarded (.stfsx frs ra rb) s <| storeValue (eaX s ra rb) (singleBytes s frs) (s.formSingle frs)

/-- `stfsux` (R464). -/
def execStfsux (frs ra rb : BitVec 5) (s : State) : Result :=
  guarded (.stfsux frs ra rb) s <| storeValueUpdate ra (sumX s ra rb) (singleBytes s frs) (s.formSingle frs)

/-- `stfd` (R465). -/
def execStfd (frs ra : BitVec 5) (d : BitVec 16) (s : State) : Result :=
  guarded (.stfd frs ra d) s <| storeValue (eaD s ra d) (toBytes 8 (s.getFpr frs)) s

/-- `stfdu` (R466). -/
def execStfdu (frs ra : BitVec 5) (d : BitVec 16) (s : State) : Result :=
  guarded (.stfdu frs ra d) s <| storeValueUpdate ra (sumD s ra d) (toBytes 8 (s.getFpr frs)) s

/-- `stfdx` (R467). -/
def execStfdx (frs ra rb : BitVec 5) (s : State) : Result :=
  guarded (.stfdx frs ra rb) s <| storeValue (eaX s ra rb) (toBytes 8 (s.getFpr frs)) s

/-- `stfdux` (R468). -/
def execStfdux (frs ra rb : BitVec 5) (s : State) : Result :=
  guarded (.stfdux frs ra rb) s <| storeValueUpdate ra (sumX s ra rb) (toBytes 8 (s.getFpr frs)) s

/-- `stfiwx` (R469). -/
def execStfiwx (frs ra rb : BitVec 5) (s : State) : Result :=
  guarded (.stfiwx frs ra rb) s <| storeValue (eaX s ra rb) (integerBytes s frs) (s.formInteger frs)

end Sys2Proof.Machine
end

