-- ==== Sys2Proof/Machine/Logical.lean ====
section
/-!
DEFINITION. Integer compare and logical instructions (41_integer_compare_logical R240 to R263).
-/

namespace Sys2Proof.Machine

/-- The end of a compare: the CR field receives the order and XER[SO] (R240). -/
def finishCompare (crfd : BitVec 3) (lt gt : Bool) (s : State) : Result := done (s.setCrField crfd (orderField lt gt s.so))

/-- The end of a logical, shift or rotate instruction: rA, then CR0 when `rc` (R240, R280). -/
def finishLogical (ra : BitVec 5) (rc : Bool) (v : Dword) (s : State) : Result := done ((s.setGpr ra v).recordIf rc v)

/-- A signed comparison operand: the register, or its low word sign-extended when L = 0 (R242). -/
def signedOperand (l : Bool) (v : Dword) : Dword := if l then v else sext (low v)

/-- An unsigned comparison operand: the register, or its low word zero-extended when L = 0 (R244). -/
def unsignedOperand (l : Bool) (v : Dword) : Dword := if l then v else zext (low v)

/-- The leading zero bits of a `w`-bit value among its `n` bits from position `i` on (R262, R263). -/
def leadingZeros {w : Nat} (x : BitVec w) (i n : Nat) : Nat :=
  match n with
  | 0 => 0
  | n + 1 => if x.getMsbD i then 0 else leadingZeros x (i + 1) n + 1

/-! ## Compare -/

/-- `cmpi` (R241). -/
def execCmpi (crfd : BitVec 3) (l : Bool) (ra : BitVec 5) (simm : BitVec 16) (s : State) : Result :=
  guarded (.cmpi crfd l ra simm) s <|
    finishCompare crfd ((signedOperand l (s.getGpr ra)).slt (extSimm simm)) ((extSimm simm).slt (signedOperand l (s.getGpr ra))) s

/-- `cmp` (R242). -/
def execCmp (crfd : BitVec 3) (l : Bool) (ra rb : BitVec 5) (s : State) : Result :=
  guarded (.cmp crfd l ra rb) s <|
    finishCompare crfd ((signedOperand l (s.getGpr ra)).slt (signedOperand l (s.getGpr rb))) ((signedOperand l (s.getGpr rb)).slt (signedOperand l (s.getGpr ra))) s

/-- `cmpli` (R243). -/
def execCmpli (crfd : BitVec 3) (l : Bool) (ra : BitVec 5) (uimm : BitVec 16) (s : State) : Result :=
  guarded (.cmpli crfd l ra uimm) s <|
    finishCompare crfd ((unsignedOperand l (s.getGpr ra)).ult (extUimm uimm)) ((extUimm uimm).ult (unsignedOperand l (s.getGpr ra))) s

/-- `cmpl` (R244). -/
def execCmpl (crfd : BitVec 3) (l : Bool) (ra rb : BitVec 5) (s : State) : Result :=
  guarded (.cmpl crfd l ra rb) s <|
    finishCompare crfd ((unsignedOperand l (s.getGpr ra)).ult (unsignedOperand l (s.getGpr rb))) ((unsignedOperand l (s.getGpr rb)).ult (unsignedOperand l (s.getGpr ra))) s

/-! ## Logical with immediate -/

/-- `andi.` (R245): always records. -/
def execAndiDot (rs ra : BitVec 5) (uimm : BitVec 16) (s : State) : Result :=
  finishLogical ra true (s.getGpr rs &&& extUimm uimm) s

/-- `andis.` (R246): always records. -/
def execAndisDot (rs ra : BitVec 5) (uimm : BitVec 16) (s : State) : Result :=
  finishLogical ra true (s.getGpr rs &&& extUimmShifted uimm) s

/-- `ori` (R247). -/
def execOri (rs ra : BitVec 5) (uimm : BitVec 16) (s : State) : Result :=
  finishLogical ra false (s.getGpr rs ||| extUimm uimm) s

/-- `oris` (R248). -/
def execOris (rs ra : BitVec 5) (uimm : BitVec 16) (s : State) : Result :=
  finishLogical ra false (s.getGpr rs ||| extUimmShifted uimm) s

/-- `xori` (R249). -/
def execXori (rs ra : BitVec 5) (uimm : BitVec 16) (s : State) : Result :=
  finishLogical ra false (s.getGpr rs ^^^ extUimm uimm) s

/-- `xoris` (R250). -/
def execXoris (rs ra : BitVec 5) (uimm : BitVec 16) (s : State) : Result :=
  finishLogical ra false (s.getGpr rs ^^^ extUimmShifted uimm) s

/-! ## Logical, register operands -/

/-- `and` (R251). -/
def execAndx (rs ra rb : BitVec 5) (rc : Bool) (s : State) : Result :=
  finishLogical ra rc (s.getGpr rs &&& s.getGpr rb) s

/-- `or` (R252). -/
def execOrx (rs ra rb : BitVec 5) (rc : Bool) (s : State) : Result :=
  finishLogical ra rc (s.getGpr rs ||| s.getGpr rb) s

/-- `xor` (R253). -/
def execXorx (rs ra rb : BitVec 5) (rc : Bool) (s : State) : Result :=
  finishLogical ra rc (s.getGpr rs ^^^ s.getGpr rb) s

/-- `nand` (R254). -/
def execNandx (rs ra rb : BitVec 5) (rc : Bool) (s : State) : Result :=
  finishLogical ra rc (~~~ (s.getGpr rs &&& s.getGpr rb)) s

/-- `nor` (R255). -/
def execNorx (rs ra rb : BitVec 5) (rc : Bool) (s : State) : Result :=
  finishLogical ra rc (~~~ (s.getGpr rs ||| s.getGpr rb)) s

/-- `eqv` (R256). -/
def execEqvx (rs ra rb : BitVec 5) (rc : Bool) (s : State) : Result :=
  finishLogical ra rc (~~~ (s.getGpr rs ^^^ s.getGpr rb)) s

/-- `andc` (R257). -/
def execAndcx (rs ra rb : BitVec 5) (rc : Bool) (s : State) : Result :=
  finishLogical ra rc (s.getGpr rs &&& ~~~ s.getGpr rb) s

/-- `orc` (R258). -/
def execOrcx (rs ra rb : BitVec 5) (rc : Bool) (s : State) : Result :=
  finishLogical ra rc (s.getGpr rs ||| ~~~ s.getGpr rb) s

/-! ## Sign extension and count leading zeros -/

/-- `extsb` (R259). -/
def execExtsbx (rs ra : BitVec 5) (rc : Bool) (s : State) : Result :=
  finishLogical ra rc (((s.getGpr rs).setWidth 8).signExtend 64) s

/-- `extsh` (R260). -/
def execExtshx (rs ra : BitVec 5) (rc : Bool) (s : State) : Result :=
  finishLogical ra rc (((s.getGpr rs).setWidth 16).signExtend 64) s

/-- `extsw` (R261). -/
def execExtswx (rs ra : BitVec 5) (rc : Bool) (s : State) : Result :=
  guarded (.extswx rs ra rc) s <|
    finishLogical ra rc (sext (low (s.getGpr rs))) s

/-- `cntlzw` (R262). -/
def execCntlzwx (rs ra : BitVec 5) (rc : Bool) (s : State) : Result :=
  finishLogical ra rc (BitVec.ofNat 64 (leadingZeros (low (s.getGpr rs)) 0 32)) s

/-- `cntlzd` (R263). -/
def execCntlzdx (rs ra : BitVec 5) (rc : Bool) (s : State) : Result :=
  guarded (.cntlzdx rs ra rc) s <|
    finishLogical ra rc (BitVec.ofNat 64 (leadingZeros (s.getGpr rs) 0 64)) s

end Sys2Proof.Machine
end

