-- ==== Sys2Proof/Machine/Rotate.lean ====
section
/-!
DEFINITION. Integer rotate and shift instructions (42_integer_rotate_shift R280 to R298).
-/

namespace Sys2Proof.Machine

/-! ## Shared operations -/

/-- The mask of a word rotate: bits MB to ME of the low word, wrapped inside it when MB > ME (R281). -/
def wordMask (mb me : BitVec 5) : Dword :=
  if mb.toNat ≤ me.toNat then mask64 (mb.toNat + 32) (me.toNat + 32)
  else mask64 (mb.toNat + 32) 63 ||| mask64 32 (me.toNat + 32)

/-- The low word of `rlwinm` and `rlwnm` (R282). -/
def rotatedWord (v : Dword) (n : Nat) (mb me : BitVec 5) : Word := low (zext (rotl32 (low v) n) &&& wordMask mb me)

/-- The low word of `rlwimi` (R284). -/
def insertedWord (v old : Dword) (n : Nat) (mb me : BitVec 5) : Word :=
  low (merge (wordMask mb me) (zext (rotl32 (low v) n)) old)

/-- The end of a word rotate: the high word of rA is `h`, but an undefined value when the mask wraps on a 64-bit
implementation (R281, 92 D14). -/
def finishRotateWord (ra : BitVec 5) (rc : Bool) (mb me : BitVec 5) (h l : Word) (s : State) : Result :=
  if decide (me.toNat < mb.toNat) && s.cfg.impl64 then finishLogical ra rc (joinWords (s.draw 32) l) s.drew
  else finishLogical ra rc (joinWords h l) s

/-- The mask of a word shift by the count in a register: none when bit 58 is 1 (R291, R292). -/
def wordShiftMask (b : Dword) (m : Dword) : Dword := if b.getMsbD 58 then 0 else m

/-- The mask of a double-word shift by the count in a register: none when bit 57 is 1 (R295, R296). -/
def dwordShiftMask (b : Dword) (m : Dword) : Dword := if b.getMsbD 57 then 0 else m

/-- The low-order five bits of a register: GPR[rB][59:63]. -/
def count5 (b : Dword) : Nat := (b.setWidth 5).toNat

/-- The low-order six bits of a register: GPR[rB][58:63]. -/
def count6 (b : Dword) : Nat := (b.setWidth 6).toNat

/-- The end of an algebraic shift: `r` under the mask, the sign elsewhere; CA is 1 when the value is negative and a 1-bit
among `lost` is shifted out (R293, R297). -/
def finishAlgebraic (ra : BitVec 5) (rc sign lost : Bool) (r m : Dword) (s : State) : Result :=
  let v := merge m r (if sign then BitVec.allOnes 64 else 0)
  done (((s.setGpr ra v).setCa (sign && lost)).recordIf rc v)

/-- Algebraic right shift of a word by `n` under the mask `m` (R293, R294). -/
def shiftWordAlgebraic (ra : BitVec 5) (rc : Bool) (v : Dword) (n : Nat) (m : Dword) (s : State) : Result :=
  let r := zext (rotl32 (low v) (32 - n))
  finishAlgebraic ra rc (v.getMsbD 32) (low (r &&& ~~~ m) != 0) r m s

/-- Algebraic right shift of a double word by `n` under the mask `m` (R297, R298). -/
def shiftDwordAlgebraic (ra : BitVec 5) (rc : Bool) (v : Dword) (n : Nat) (m : Dword) (s : State) : Result :=
  let r := rotl64 v (64 - n)
  finishAlgebraic ra rc (v.getMsbD 0) (r &&& ~~~ m != 0) r m s

/-! ## Word rotates -/

/-- `rlwinm` (R282). -/
def execRlwinmx (rs ra sh mb me : BitVec 5) (rc : Bool) (s : State) : Result :=
  finishRotateWord ra rc mb me 0 (rotatedWord (s.getGpr rs) sh.toNat mb me) s

/-- `rlwnm` (R283). -/
def execRlwnmx (rs ra rb mb me : BitVec 5) (rc : Bool) (s : State) : Result :=
  finishRotateWord ra rc mb me 0 (rotatedWord (s.getGpr rs) (count5 (s.getGpr rb)) mb me) s

/-- `rlwimi` (R284): GPR[rA] is also a source. -/
def execRlwimix (rs ra sh mb me : BitVec 5) (rc : Bool) (s : State) : Result :=
  finishRotateWord ra rc mb me (high (s.getGpr ra)) (insertedWord (s.getGpr rs) (s.getGpr ra) sh.toNat mb me) s

/-! ## Double-word rotates -/

/-- `rldicl` (R285). -/
def execRldiclx (rs ra : BitVec 5) (sh mb : BitVec 6) (rc : Bool) (s : State) : Result :=
  guarded (.rldiclx rs ra sh mb rc) s <|
    finishLogical ra rc (rotl64 (s.getGpr rs) sh.toNat &&& mask64 mb.toNat 63) s

/-- `rldicr` (R286). -/
def execRldicrx (rs ra : BitVec 5) (sh me : BitVec 6) (rc : Bool) (s : State) : Result :=
  guarded (.rldicrx rs ra sh me rc) s <|
    finishLogical ra rc (rotl64 (s.getGpr rs) sh.toNat &&& mask64 0 me.toNat) s

/-- `rldic` (R287). -/
def execRldicx (rs ra : BitVec 5) (sh mb : BitVec 6) (rc : Bool) (s : State) : Result :=
  guarded (.rldicx rs ra sh mb rc) s <|
    finishLogical ra rc (rotl64 (s.getGpr rs) sh.toNat &&& mask64 mb.toNat (63 - sh.toNat)) s

/-- `rldimi` (R288): GPR[rA] is also a source. -/
def execRldimix (rs ra : BitVec 5) (sh mb : BitVec 6) (rc : Bool) (s : State) : Result :=
  guarded (.rldimix rs ra sh mb rc) s <|
    finishLogical ra rc (merge (mask64 mb.toNat (63 - sh.toNat)) (rotl64 (s.getGpr rs) sh.toNat) (s.getGpr ra)) s

/-- `rldcl` (R289). -/
def execRldclx (rs ra rb : BitVec 5) (mb : BitVec 6) (rc : Bool) (s : State) : Result :=
  guarded (.rldclx rs ra rb mb rc) s <|
    finishLogical ra rc (rotl64 (s.getGpr rs) (count6 (s.getGpr rb)) &&& mask64 mb.toNat 63) s

/-- `rldcr` (R290). -/
def execRldcrx (rs ra rb : BitVec 5) (me : BitVec 6) (rc : Bool) (s : State) : Result :=
  guarded (.rldcrx rs ra rb me rc) s <|
    finishLogical ra rc (rotl64 (s.getGpr rs) (count6 (s.getGpr rb)) &&& mask64 0 me.toNat) s

/-! ## Shifts -/

/-- `slw` (R291). -/
def execSlwx (rs ra rb : BitVec 5) (rc : Bool) (s : State) : Result :=
  let n := count5 (s.getGpr rb)
  finishLogical ra rc (zext (rotl32 (low (s.getGpr rs)) n) &&& wordShiftMask (s.getGpr rb) (mask64 32 (63 - n))) s

/-- `srw` (R292). -/
def execSrwx (rs ra rb : BitVec 5) (rc : Bool) (s : State) : Result :=
  let n := count5 (s.getGpr rb)
  finishLogical ra rc (zext (rotl32 (low (s.getGpr rs)) (32 - n)) &&& wordShiftMask (s.getGpr rb) (mask64 (n + 32) 63)) s

/-- `sraw` (R293). -/
def execSrawx (rs ra rb : BitVec 5) (rc : Bool) (s : State) : Result :=
  let n := count5 (s.getGpr rb)
  shiftWordAlgebraic ra rc (s.getGpr rs) n (wordShiftMask (s.getGpr rb) (mask64 (n + 32) 63)) s

/-- `srawi` (R294). -/
def execSrawix (rs ra sh : BitVec 5) (rc : Bool) (s : State) : Result :=
  shiftWordAlgebraic ra rc (s.getGpr rs) sh.toNat (mask64 (sh.toNat + 32) 63) s

/-- `sld` (R295). -/
def execSldx (rs ra rb : BitVec 5) (rc : Bool) (s : State) : Result :=
  guarded (.sldx rs ra rb rc) s <|
    finishLogical ra rc
      (rotl64 (s.getGpr rs) (count6 (s.getGpr rb)) &&& dwordShiftMask (s.getGpr rb) (mask64 0 (63 - count6 (s.getGpr rb)))) s

/-- `srd` (R296). -/
def execSrdx (rs ra rb : BitVec 5) (rc : Bool) (s : State) : Result :=
  guarded (.srdx rs ra rb rc) s <|
    finishLogical ra rc
      (rotl64 (s.getGpr rs) (64 - count6 (s.getGpr rb)) &&& dwordShiftMask (s.getGpr rb) (mask64 (count6 (s.getGpr rb)) 63)) s

/-- `srad` (R297). -/
def execSradx (rs ra rb : BitVec 5) (rc : Bool) (s : State) : Result :=
  guarded (.sradx rs ra rb rc) s <|
    shiftDwordAlgebraic ra rc (s.getGpr rs) (count6 (s.getGpr rb))
      (dwordShiftMask (s.getGpr rb) (mask64 (count6 (s.getGpr rb)) 63)) s

/-- `sradi` (R298). -/
def execSradix (rs ra : BitVec 5) (sh : BitVec 6) (rc : Bool) (s : State) : Result :=
  guarded (.sradix rs ra sh rc) s <|
    shiftDwordAlgebraic ra rc (s.getGpr rs) sh.toNat (mask64 sh.toNat 63) s

end Sys2Proof.Machine
end

