-- ==== Sys2Proof/Machine/Segments.lean ====
section
/-!
DEFINITION. Segment register moves and lookaside buffer management (49_sync_cache_segment_tlb R580 to R593).
-/

namespace Sys2Proof.Machine

/-! ## Segment register moves -/

/-- The segment register number in a register: bits 32:35 (R580). -/
def segmentOf (v : Dword) : BitVec 4 := slice 4 v 32

/-- The image of an SLB entry that the bridge's mfsr reads (Table 8-11, R581). -/
def slbImage (e : SlbEntry) : Dword :=
  (0 : BitVec 7) ++ slice 25 e.dw1 0 ++ slice 3 e.dw0 57 ++ slice 2 e.dw0 60 ++ slice 27 e.dw1 25

/-- Double word 0 of the entry that the bridge's mtsr writes: ESID = `n`, V, then T, Ks, Kp, N and the bit after it from
rS[32:36] (Table 8-16, R584). -/
def slbDw0 (n : BitVec 4) (v : Dword) : Dword :=
  (0 : Word) ++ n ++ (0 : BitVec 20) ++ (1 : BitVec 1) ++ slice 5 v 32 ++ (0 : BitVec 2)

/-- Double word 1: `vsidHigh` for VSID[0:24], rS[37:63] for VSID[25:51] (Tables 8-16 and 8-17, R584, R586). -/
def slbDw1 (vsidHigh : BitVec 25) (v : Dword) : Dword := vsidHigh ++ slice 27 v 37 ++ (0 : BitVec 12)

/-- The mark that segment register or SLB entry `n` has changed (70 R660): its new segment and the one it served. -/
def State.markEntry (s before : State) (n : BitVec 4) : State :=
  let t := s.markSegment before (n.setWidth 36)
  if s.cfg.impl64 then t.markSegment before (slice 36 (before.slb.get n.toFin).dw0 0) else t

/-- SLB[n] <- e (R584). -/
def State.setSlb (s : State) (n : BitVec 4) (e : SlbEntry) : State := { s with slb := s.slb.set n.toFin.val e n.toFin.isLt }

/-- SR[n] <- v (R584). -/
def State.setSr (s : State) (n : BitVec 4) (v : Word) : State := { s with sr := s.sr.set n.toFin.val v n.toFin.isLt }

/-- Move from segment register `n`: the register on a 32-bit implementation; the image of the SLB entry with the bridge, an
undefined value when no move wrote the entry (R581). -/
def moveFromSegment (rd : BitVec 5) (n : BitVec 4) (s : State) : Result :=
  if !s.cfg.impl64 then done (s.setGpr rd (zext (s.sr.get n.toFin)))
  else if (s.slb.get n.toFin).byMove then done (s.setGpr rd (slbImage (s.slb.get n.toFin)))
  else done (s.setGpr rd (s.draw 64)).drew

/-- Move to segment register `n`: the register on a 32-bit implementation; the SLB entry with the bridge (R584). -/
def moveToSegment (n : BitVec 4) (vsidHigh : BitVec 25) (v : Dword) (s : State) : Result :=
  if !s.cfg.impl64 then done ((s.setSr n (low v)).markEntry s n)
  else done ((s.setSlb n { dw0 := slbDw0 n v, dw1 := slbDw1 vsidHigh v, byMove := true }).markEntry s n)

/-- `mfsr` (R581). -/
def execMfsr (rd : BitVec 5) (sr : BitVec 4) (s : State) : Result := guarded (.mfsr rd sr) s <| moveFromSegment rd sr s

/-- `mfsrin` (R582). -/
def execMfsrin (rd rb : BitVec 5) (s : State) : Result :=
  guarded (.mfsrin rd rb) s <| moveFromSegment rd (segmentOf (s.getGpr rb)) s

/-- `mtsr` (R584). -/
def execMtsr (rs : BitVec 5) (sr : BitVec 4) (s : State) : Result :=
  guarded (.mtsr rs sr) s <| moveToSegment sr 0 (s.getGpr rs) s

/-- `mtsrin` (R585). -/
def execMtsrin (rs rb : BitVec 5) (s : State) : Result :=
  guarded (.mtsrin rs rb) s <| moveToSegment (segmentOf (s.getGpr rb)) 0 (s.getGpr rs) s

/-- `mtsrd` (R586): VSID[0:24] from rS[7:31]. -/
def execMtsrd (rs : BitVec 5) (sr : BitVec 4) (s : State) : Result :=
  guarded (.mtsrd rs sr) s <| moveToSegment sr (slice 25 (s.getGpr rs) 7) (s.getGpr rs) s

/-- `mtsrdin` (R587). -/
def execMtsrdin (rs rb : BitVec 5) (s : State) : Result :=
  guarded (.mtsrdin rs rb) s <| moveToSegment (segmentOf (s.getGpr rb)) (slice 25 (s.getGpr rs) 7) (s.getGpr rs) s

/-! ## Lookaside buffers -/

/-- An SLB entry made invalid (R588). -/
def invalidEntry (e : SlbEntry) : SlbEntry := { e with dw0 := putBit e.dw0 56 false, byMove := false }

/-- An SLB entry after a search for the segment of `ea`: invalid if it is valid and matches (R589). -/
def invalidateFor (ea : Dword) (e : SlbEntry) : SlbEntry :=
  if e.dw0.getMsbD 56 && slice 36 e.dw0 0 == slice 36 ea 0 then invalidEntry e else e

/-- `slbia` (R588). -/
def execSlbia (s : State) : Result :=
  guarded .slbia s <| done (State.markAll { s with slb := s.slb.map invalidEntry } s)

/-- `slbie` (R589): all 64 bits of rB count. -/
def execSlbie (rb : BitVec 5) (s : State) : Result :=
  guarded (.slbie rb) s <|
    done (State.markSegment { s with slb := s.slb.map (invalidateFor (s.getGpr rb)) } s (slice 36 (s.getGpr rb) 0))

/-- `tlbia` (R590). -/
def execTlbia (s : State) : Result := guarded .tlbia s <| done (State.markAll { s with tlb := [] } s)

/-- `tlbie` (R591): the entries of page index rB[36:51], in every segment. -/
def execTlbie (rb : BitVec 5) (s : State) : Result :=
  guarded (.tlbie rb) s <|
    done (State.markPage { s with tlb := dropPage s.tlb (slice 16 (s.getGpr rb) 36) } s (slice 16 (s.getGpr rb) 36))

/-- `tlbsync` (R592): there is no other processor to wait for. -/
def execTlbsync (s : State) : Result := guarded .tlbsync s <| done s

end Sys2Proof.Machine
end

