-- ==== Sys2Proof/Machine/Sync.lean ====
section
/-!
DEFINITION. Barriers, reservations, cache blocks and external control (49_sync_cache_segment_tlb R550 to R570).
-/

namespace Sys2Proof.Machine

/-! ## Barriers -/

/-- A change of DABR acts on the accesses that follow (70 R660: context synchronization or `sync`). -/
def State.syncDabr (s : State) : State := { s with stale := { s.stale with dabr := false } }

/-- `sync` (R550): every access of this model is performed before the next instruction; a change of DABR may be relied on after
it (70 R660). -/
def execSync (s : State) : Result := done s.syncDabr

/-- `isync` (R551): context synchronization. -/
def execIsync (s : State) : Result := done s.contextSync

/-- `eieio` (R552): orders accesses, which this model performs in order. -/
def execEieio (s : State) : Result := done s

/-! ## Load and reserve, store conditional -/

/-- RESERVE <- 1 and RESERVE_ADDR <- pa (R553). -/
def State.setReserve (s : State) (pa : Dword) : State := { s with reserve := true, reserveAddr := pa }

/-- Load and reserve of `n` bytes (R553, R554): the address must be aligned; an access that fails changes nothing. -/
def loadReserve (rd : BitVec 5) (ea : Dword) (n : Nat) (s : State) : Result :=
  if alignedTo ea n then
    (reach s .load ea).finish fun pa t =>
      (readAt (bytesFrom pa.1 n) t).finish fun bytes u => done ((u.setReserve pa.1).setGpr rd (zeroLoaded bytes))
  else raise (.alignment ea) s

/-- `lwarx` (R553). -/
def execLwarx (rd ra rb : BitVec 5) (s : State) : Result := loadReserve rd (eaX s ra rb) 4 s

/-- `ldarx` (R554). -/
def execLdarx (rd ra rb : BitVec 5) (s : State) : Result := guarded (.ldarx rd ra rb) s <| loadReserve rd (eaX s ra rb) 8 s

/-- RESERVE <- 0 (R555). -/
def State.clearReserve (s : State) : State := { s with reserve := false }

/-- CR0 of a store conditional: 0b00 || stored || XER[SO] (R555). -/
def State.recordStored (s : State) (stored : Bool) : State := s.setCrField 0 (fourBits false false stored s.so)

/-- The end of a store conditional that stores or not: memory, CR0, and the reservation is gone (R555). -/
def finishConditional (stored : Bool) (pa : Dword) (bytes : List Byte) (s : State) : Result :=
  let t := if stored then s.storeAll (bytesFrom pa bytes.length) bytes else s
  done (t.recordStored stored).clearReserve

/-- Store conditional (R555, R556): the address must be aligned; with a reservation for the same physical address it stores,
for another address it is undefined whether it stores, with none it does not. -/
def storeConditional (ea : Dword) (bytes : List Byte) (s : State) : Result :=
  if alignedTo ea bytes.length then
    (reach s .store ea).finish fun pa t =>
      if t.reserve then
        if t.reserveAddr = pa.1 then finishConditional true pa.1 bytes t
        else finishConditional (t.draw 1).msb pa.1 bytes t.drew
      else finishConditional false pa.1 bytes t
  else raise (.alignment ea) s

/-- `stwcx.` (R555). -/
def execStwcxDot (rs ra rb : BitVec 5) (s : State) : Result := storeConditional (eaX s ra rb) (gprBytes s rs 4) s

/-- `stdcx.` (R556). -/
def execStdcxDot (rs ra rb : BitVec 5) (s : State) : Result :=
  guarded (.stdcxDot rs ra rb) s <| storeConditional (eaX s ra rb) (gprBytes s rs 8) s

/-! ## Cache blocks -/

/-- CACHE_BLOCK_BYTES. -/
def State.blockBytes (s : State) : Nat := 2 ^ s.cfg.cacheBlockLog

/-- The first address of the cache block that holds the physical address `pa` (R559). The rules say blk(EA) and translate EA alone; up
to a page's size the block of the translated byte is the translation of that block, and for a block larger than a page, which the
spec leaves open, the model takes the aligned physical block too (log 40, DESIGN CHOICE). -/
def State.blockStart (s : State) (pa : Dword) : Dword := BitVec.ofNat 64 (s.blockOf pa.toNat * s.blockBytes)

/-- The addresses of the bytes of that block. -/
def State.blockAddresses (s : State) (pa : Dword) : List Dword := bytesFrom (s.blockStart pa) s.blockBytes

/-- Every byte of the block becomes 0 (R567). -/
def State.clearBlock (s : State) (pa : Dword) : State :=
  s.storeAll (s.blockAddresses pa) (List.replicate s.blockBytes 0)

/-- The values drawn for the bytes of a block. -/
def State.drawnBytes (s : State) (n : Nat) : List Byte := (List.range n).map (fun k => Config.drawn 8 (s.draws + k))

/-- Every byte of the block becomes an undefined value (R565, R566; 92 D32). The block becomes stale for instruction fetch; 70 R661
lists dcba and not dcbi, which R565 treats as a store (log 23, DESIGN CHOICE). -/
def State.undefineBlock (s : State) (pa : Dword) : State :=
  let t := s.storeAll (s.blockAddresses pa) (s.drawnBytes s.blockBytes)
  { t with draws := s.draws + s.blockBytes }

/-- A cache operation that only checks its address, as a load (R559, R560; 60 R610). -/
def touchBlock (ea : Dword) (s : State) : Result := (reach s .load ea).finish fun _ t => done t

/-- `dcbt` (R561): a hint, with no effect and no exception. -/
def execDcbt (_ra _rb : BitVec 5) (s : State) : Result := done s

/-- `dcbtst` (R562): a hint, with no effect and no exception. -/
def execDcbtst (_ra _rb : BitVec 5) (s : State) : Result := done s

/-- `dcbst` (R563): memory already holds every stored byte. -/
def execDcbst (ra rb : BitVec 5) (s : State) : Result := touchBlock (eaX s ra rb) s

/-- `dcbf` (R564): memory already holds every stored byte. -/
def execDcbf (ra rb : BitVec 5) (s : State) : Result := touchBlock (eaX s ra rb) s

/-- `dcbi` (R565): treated as a store; the bytes of the block become undefined. -/
def execDcbi (ra rb : BitVec 5) (s : State) : Result :=
  guarded (.dcbi ra rb) s <|
    (reach s .store (eaX s ra rb)).finish fun pa t => done (t.undefineBlock pa.1)

/-- `dcba` (R566): a failed translation or a caching-inhibited block makes it a no-op; otherwise the bytes of the block become
undefined. It never raises DSI (60 R610), so DABR is not looked at (log 25). -/
def execDcba (ra rb : BitVec 5) (s : State) : Result :=
  guarded (.dcba ra rb) s <|
    match translateData s .store (eaX s ra rb) with
    | .ok pa t => if pa.2.inhibited then done t else done (t.undefineBlock pa.1)
    | .raises _ t => done t
    | .faults f => .fault f

/-- `dcbz` traps on this memory: it is caching-inhibited or write-through and the policy is to trap (R567). -/
def dcbzTraps (s : State) (a : Attributes) : Bool := (a.inhibited || a.writeThrough) && s.cfg.dcbzUncached == .trap

/-- `dcbz` (R567): the bytes of the block become 0. -/
def execDcbz (ra rb : BitVec 5) (s : State) : Result :=
  (translateData s .store (eaX s ra rb)).finish fun pa t =>
    if dcbzTraps t pa.2 then raise (.alignment (eaX s ra rb)) t
    else (checkBreak t .store (eaX s ra rb)).finish fun _ u => done (u.clearBlock pa.1)

/-- `icbi` (R568): the block may be fetched again after the next context synchronization (70 R661). -/
def execIcbi (ra rb : BitVec 5) (s : State) : Result :=
  (reach s .load (eaX s ra rb)).finish fun pa t =>
    done { t with icbiDone := addNew (t.blockOf pa.1.toNat) t.icbiDone }

/-! ## External control -/

/-- EAR[E], bit 0. -/
def State.earEnabled (s : State) : Bool := s.ear.msb

/-- EAR[RID], bits 26:31. -/
def State.earRid (s : State) : BitVec 6 := s.ear.setWidth 6

/-- T = 1, as Translate answers for this access (R569): an address that a DBAT maps may have T = 0 in any segment (C3). -/
def State.externalDirect (s : State) (kind : AccessKind) (ea : Dword) : Bool :=
  (Config.translate s.mmuView s.mem kind s.pr ea).directStore

/-- The checks of eciwx and ecowx, in the order of R569 and 60 R619 item 8 (the breakpoint last), and the physical address of
their request. Every check depends on MSR[DR], so an unsynchronized change of it comes first (70 R660). -/
def reachExternal (s : State) (kind : AccessKind) (ea : Dword) : Access Dword :=
  if s.stale.dr then .faults .staleTranslation
  else if !s.dr then .faults .boundedlyUndefined
  else if s.stale.ear then .faults .staleTranslation
  else if !s.earEnabled then .raises (.dsi ea (0x00100000 ||| storeStatus kind)) s
  else if !alignedTo ea 4 then .raises (.alignment ea) s
  else
    (translateData s kind ea).bind fun pa t =>
      if s.externalDirect kind ea then .raises (.dsi ea (0x04000000 ||| storeStatus kind)) t
      else (checkBreak t kind ea).bind fun _ u => .ok pa.1 u

/-- `eciwx` (R569): the device's word comes into rD. -/
def execEciwx (rd ra rb : BitVec 5) (s : State) : Result :=
  guarded (.eciwx rd ra rb) s <|
    (reachExternal s .load (eaX s ra rb)).finish fun pa t =>
      done ((t.setGpr rd (zext (Config.deviceIn t.draws t.earRid pa))).drew)

/-- `ecowx` (R570): rS goes out to the device. -/
def execEcowx (rs ra rb : BitVec 5) (s : State) : Result :=
  guarded (.ecowx rs ra rb) s <|
    (reachExternal s .store (eaX s ra rb)).finish fun pa t =>
      done { t with deviceOut := t.deviceOut ++ [{ rid := t.earRid, pa := pa, word := low (s.getGpr rs) }] }

end Sys2Proof.Machine
end

