-- ==== Sys2Proof/Machine/Dispatch.lean ====
section
/-!
DEFINITION. The one match over the instructions: each constructor of Instr runs its meaning.
-/

namespace Sys2Proof.Machine

def exec (i : Instr) (s : State) : Host.Outcome State Fault Refusal :=
  match i with
  | .addx rd ra rb oe rc => Sys2Proof.Machine.execAddx rd ra rb oe rc s
  | .addcx rd ra rb oe rc => Sys2Proof.Machine.execAddcx rd ra rb oe rc s
  | .addex rd ra rb oe rc => Sys2Proof.Machine.execAddex rd ra rb oe rc s
  | .addi rd ra simm => Sys2Proof.Machine.execAddi rd ra simm s
  | .addic rd ra simm => Sys2Proof.Machine.execAddic rd ra simm s
  | .addicDot rd ra simm => Sys2Proof.Machine.execAddicDot rd ra simm s
  | .addis rd ra simm => Sys2Proof.Machine.execAddis rd ra simm s
  | .addmex rd ra oe rc => Sys2Proof.Machine.execAddmex rd ra oe rc s
  | .addzex rd ra oe rc => Sys2Proof.Machine.execAddzex rd ra oe rc s
  | .subfx rd ra rb oe rc => Sys2Proof.Machine.execSubfx rd ra rb oe rc s
  | .subfcx rd ra rb oe rc => Sys2Proof.Machine.execSubfcx rd ra rb oe rc s
  | .subfex rd ra rb oe rc => Sys2Proof.Machine.execSubfex rd ra rb oe rc s
  | .subfic rd ra simm => Sys2Proof.Machine.execSubfic rd ra simm s
  | .subfmex rd ra oe rc => Sys2Proof.Machine.execSubfmex rd ra oe rc s
  | .subfzex rd ra oe rc => Sys2Proof.Machine.execSubfzex rd ra oe rc s
  | .negx rd ra oe rc => Sys2Proof.Machine.execNegx rd ra oe rc s
  | .mulli rd ra simm => Sys2Proof.Machine.execMulli rd ra simm s
  | .mullwx rd ra rb oe rc => Sys2Proof.Machine.execMullwx rd ra rb oe rc s
  | .mulhwx rd ra rb rc => Sys2Proof.Machine.execMulhwx rd ra rb rc s
  | .mulhwux rd ra rb rc => Sys2Proof.Machine.execMulhwux rd ra rb rc s
  | .mulldx rd ra rb oe rc => Sys2Proof.Machine.execMulldx rd ra rb oe rc s
  | .mulhdx rd ra rb rc => Sys2Proof.Machine.execMulhdx rd ra rb rc s
  | .mulhdux rd ra rb rc => Sys2Proof.Machine.execMulhdux rd ra rb rc s
  | .divwx rd ra rb oe rc => Sys2Proof.Machine.execDivwx rd ra rb oe rc s
  | .divwux rd ra rb oe rc => Sys2Proof.Machine.execDivwux rd ra rb oe rc s
  | .divdx rd ra rb oe rc => Sys2Proof.Machine.execDivdx rd ra rb oe rc s
  | .divdux rd ra rb oe rc => Sys2Proof.Machine.execDivdux rd ra rb oe rc s
  | .cmpi crfd l ra simm => Sys2Proof.Machine.execCmpi crfd l ra simm s
  | .cmp crfd l ra rb => Sys2Proof.Machine.execCmp crfd l ra rb s
  | .cmpli crfd l ra uimm => Sys2Proof.Machine.execCmpli crfd l ra uimm s
  | .cmpl crfd l ra rb => Sys2Proof.Machine.execCmpl crfd l ra rb s
  | .andiDot rs ra uimm => Sys2Proof.Machine.execAndiDot rs ra uimm s
  | .andisDot rs ra uimm => Sys2Proof.Machine.execAndisDot rs ra uimm s
  | .ori rs ra uimm => Sys2Proof.Machine.execOri rs ra uimm s
  | .oris rs ra uimm => Sys2Proof.Machine.execOris rs ra uimm s
  | .xori rs ra uimm => Sys2Proof.Machine.execXori rs ra uimm s
  | .xoris rs ra uimm => Sys2Proof.Machine.execXoris rs ra uimm s
  | .andx rs ra rb rc => Sys2Proof.Machine.execAndx rs ra rb rc s
  | .orx rs ra rb rc => Sys2Proof.Machine.execOrx rs ra rb rc s
  | .xorx rs ra rb rc => Sys2Proof.Machine.execXorx rs ra rb rc s
  | .nandx rs ra rb rc => Sys2Proof.Machine.execNandx rs ra rb rc s
  | .norx rs ra rb rc => Sys2Proof.Machine.execNorx rs ra rb rc s
  | .eqvx rs ra rb rc => Sys2Proof.Machine.execEqvx rs ra rb rc s
  | .andcx rs ra rb rc => Sys2Proof.Machine.execAndcx rs ra rb rc s
  | .orcx rs ra rb rc => Sys2Proof.Machine.execOrcx rs ra rb rc s
  | .extsbx rs ra rc => Sys2Proof.Machine.execExtsbx rs ra rc s
  | .extshx rs ra rc => Sys2Proof.Machine.execExtshx rs ra rc s
  | .extswx rs ra rc => Sys2Proof.Machine.execExtswx rs ra rc s
  | .cntlzwx rs ra rc => Sys2Proof.Machine.execCntlzwx rs ra rc s
  | .cntlzdx rs ra rc => Sys2Proof.Machine.execCntlzdx rs ra rc s
  | .rlwinmx rs ra sh mb me rc => Sys2Proof.Machine.execRlwinmx rs ra sh mb me rc s
  | .rlwnmx rs ra rb mb me rc => Sys2Proof.Machine.execRlwnmx rs ra rb mb me rc s
  | .rlwimix rs ra sh mb me rc => Sys2Proof.Machine.execRlwimix rs ra sh mb me rc s
  | .rldiclx rs ra sh mb rc => Sys2Proof.Machine.execRldiclx rs ra sh mb rc s
  | .rldicrx rs ra sh me rc => Sys2Proof.Machine.execRldicrx rs ra sh me rc s
  | .rldicx rs ra sh mb rc => Sys2Proof.Machine.execRldicx rs ra sh mb rc s
  | .rldimix rs ra sh mb rc => Sys2Proof.Machine.execRldimix rs ra sh mb rc s
  | .rldclx rs ra rb mb rc => Sys2Proof.Machine.execRldclx rs ra rb mb rc s
  | .rldcrx rs ra rb me rc => Sys2Proof.Machine.execRldcrx rs ra rb me rc s
  | .slwx rs ra rb rc => Sys2Proof.Machine.execSlwx rs ra rb rc s
  | .srwx rs ra rb rc => Sys2Proof.Machine.execSrwx rs ra rb rc s
  | .srawx rs ra rb rc => Sys2Proof.Machine.execSrawx rs ra rb rc s
  | .srawix rs ra sh rc => Sys2Proof.Machine.execSrawix rs ra sh rc s
  | .sldx rs ra rb rc => Sys2Proof.Machine.execSldx rs ra rb rc s
  | .srdx rs ra rb rc => Sys2Proof.Machine.execSrdx rs ra rb rc s
  | .sradx rs ra rb rc => Sys2Proof.Machine.execSradx rs ra rb rc s
  | .sradix rs ra sh rc => Sys2Proof.Machine.execSradix rs ra sh rc s
  | .faddx frd fra frb rc => Sys2Proof.Machine.execFaddx frd fra frb rc s
  | .faddsx frd fra frb rc => Sys2Proof.Machine.execFaddsx frd fra frb rc s
  | .fsubx frd fra frb rc => Sys2Proof.Machine.execFsubx frd fra frb rc s
  | .fsubsx frd fra frb rc => Sys2Proof.Machine.execFsubsx frd fra frb rc s
  | .fmulx frd fra frc rc => Sys2Proof.Machine.execFmulx frd fra frc rc s
  | .fmulsx frd fra frc rc => Sys2Proof.Machine.execFmulsx frd fra frc rc s
  | .fdivx frd fra frb rc => Sys2Proof.Machine.execFdivx frd fra frb rc s
  | .fdivsx frd fra frb rc => Sys2Proof.Machine.execFdivsx frd fra frb rc s
  | .fsqrtx frd frb rc => Sys2Proof.Machine.execFsqrtx frd frb rc s
  | .fsqrtsx frd frb rc => Sys2Proof.Machine.execFsqrtsx frd frb rc s
  | .fresx frd frb rc => Sys2Proof.Machine.execFresx frd frb rc s
  | .frsqrtex frd frb rc => Sys2Proof.Machine.execFrsqrtex frd frb rc s
  | .fselx frd fra frb frc rc => Sys2Proof.Machine.execFselx frd fra frb frc rc s
  | .fmaddx frd fra frb frc rc => Sys2Proof.Machine.execFmaddx frd fra frb frc rc s
  | .fmaddsx frd fra frb frc rc => Sys2Proof.Machine.execFmaddsx frd fra frb frc rc s
  | .fmsubx frd fra frb frc rc => Sys2Proof.Machine.execFmsubx frd fra frb frc rc s
  | .fmsubsx frd fra frb frc rc => Sys2Proof.Machine.execFmsubsx frd fra frb frc rc s
  | .fnmaddx frd fra frb frc rc => Sys2Proof.Machine.execFnmaddx frd fra frb frc rc s
  | .fnmaddsx frd fra frb frc rc => Sys2Proof.Machine.execFnmaddsx frd fra frb frc rc s
  | .fnmsubx frd fra frb frc rc => Sys2Proof.Machine.execFnmsubx frd fra frb frc rc s
  | .fnmsubsx frd fra frb frc rc => Sys2Proof.Machine.execFnmsubsx frd fra frb frc rc s
  | .fmrx frd frb rc => Sys2Proof.Machine.execFmrx frd frb rc s
  | .fnegx frd frb rc => Sys2Proof.Machine.execFnegx frd frb rc s
  | .fabsx frd frb rc => Sys2Proof.Machine.execFabsx frd frb rc s
  | .fnabsx frd frb rc => Sys2Proof.Machine.execFnabsx frd frb rc s
  | .frspx frd frb rc => Sys2Proof.Machine.execFrspx frd frb rc s
  | .fctiwx frd frb rc => Sys2Proof.Machine.execFctiwx frd frb rc s
  | .fctiwzx frd frb rc => Sys2Proof.Machine.execFctiwzx frd frb rc s
  | .fctidx frd frb rc => Sys2Proof.Machine.execFctidx frd frb rc s
  | .fctidzx frd frb rc => Sys2Proof.Machine.execFctidzx frd frb rc s
  | .fcfidx frd frb rc => Sys2Proof.Machine.execFcfidx frd frb rc s
  | .fcmpu crfd fra frb => Sys2Proof.Machine.execFcmpu crfd fra frb s
  | .fcmpo crfd fra frb => Sys2Proof.Machine.execFcmpo crfd fra frb s
  | .mffsx frd rc => Sys2Proof.Machine.execMffsx frd rc s
  | .mcrfs crfd crfs => Sys2Proof.Machine.execMcrfs crfd crfs s
  | .mtfsfx fm frb rc => Sys2Proof.Machine.execMtfsfx fm frb rc s
  | .mtfsfix crfd imm rc => Sys2Proof.Machine.execMtfsfix crfd imm rc s
  | .mtfsb0x crbd rc => Sys2Proof.Machine.execMtfsb0x crbd rc s
  | .mtfsb1x crbd rc => Sys2Proof.Machine.execMtfsb1x crbd rc s
  | .lbz rd ra d => Sys2Proof.Machine.execLbz rd ra d s
  | .lbzu rd ra d => Sys2Proof.Machine.execLbzu rd ra d s
  | .lbzx rd ra rb => Sys2Proof.Machine.execLbzx rd ra rb s
  | .lbzux rd ra rb => Sys2Proof.Machine.execLbzux rd ra rb s
  | .lhz rd ra d => Sys2Proof.Machine.execLhz rd ra d s
  | .lhzu rd ra d => Sys2Proof.Machine.execLhzu rd ra d s
  | .lhzx rd ra rb => Sys2Proof.Machine.execLhzx rd ra rb s
  | .lhzux rd ra rb => Sys2Proof.Machine.execLhzux rd ra rb s
  | .lha rd ra d => Sys2Proof.Machine.execLha rd ra d s
  | .lhau rd ra d => Sys2Proof.Machine.execLhau rd ra d s
  | .lhax rd ra rb => Sys2Proof.Machine.execLhax rd ra rb s
  | .lhaux rd ra rb => Sys2Proof.Machine.execLhaux rd ra rb s
  | .lwz rd ra d => Sys2Proof.Machine.execLwz rd ra d s
  | .lwzu rd ra d => Sys2Proof.Machine.execLwzu rd ra d s
  | .lwzx rd ra rb => Sys2Proof.Machine.execLwzx rd ra rb s
  | .lwzux rd ra rb => Sys2Proof.Machine.execLwzux rd ra rb s
  | .lwa rd ra ds => Sys2Proof.Machine.execLwa rd ra ds s
  | .lwax rd ra rb => Sys2Proof.Machine.execLwax rd ra rb s
  | .lwaux rd ra rb => Sys2Proof.Machine.execLwaux rd ra rb s
  | .ld rd ra ds => Sys2Proof.Machine.execLd rd ra ds s
  | .ldu rd ra ds => Sys2Proof.Machine.execLdu rd ra ds s
  | .ldx rd ra rb => Sys2Proof.Machine.execLdx rd ra rb s
  | .ldux rd ra rb => Sys2Proof.Machine.execLdux rd ra rb s
  | .stb rs ra d => Sys2Proof.Machine.execStb rs ra d s
  | .stbu rs ra d => Sys2Proof.Machine.execStbu rs ra d s
  | .stbx rs ra rb => Sys2Proof.Machine.execStbx rs ra rb s
  | .stbux rs ra rb => Sys2Proof.Machine.execStbux rs ra rb s
  | .sth rs ra d => Sys2Proof.Machine.execSth rs ra d s
  | .sthu rs ra d => Sys2Proof.Machine.execSthu rs ra d s
  | .sthx rs ra rb => Sys2Proof.Machine.execSthx rs ra rb s
  | .sthux rs ra rb => Sys2Proof.Machine.execSthux rs ra rb s
  | .stw rs ra d => Sys2Proof.Machine.execStw rs ra d s
  | .stwu rs ra d => Sys2Proof.Machine.execStwu rs ra d s
  | .stwx rs ra rb => Sys2Proof.Machine.execStwx rs ra rb s
  | .stwux rs ra rb => Sys2Proof.Machine.execStwux rs ra rb s
  | .std rs ra ds => Sys2Proof.Machine.execStd rs ra ds s
  | .stdu rs ra ds => Sys2Proof.Machine.execStdu rs ra ds s
  | .stdx rs ra rb => Sys2Proof.Machine.execStdx rs ra rb s
  | .stdux rs ra rb => Sys2Proof.Machine.execStdux rs ra rb s
  | .lhbrx rd ra rb => Sys2Proof.Machine.execLhbrx rd ra rb s
  | .lwbrx rd ra rb => Sys2Proof.Machine.execLwbrx rd ra rb s
  | .sthbrx rs ra rb => Sys2Proof.Machine.execSthbrx rs ra rb s
  | .stwbrx rs ra rb => Sys2Proof.Machine.execStwbrx rs ra rb s
  | .lmw rd ra d => Sys2Proof.Machine.execLmw rd ra d s
  | .stmw rs ra d => Sys2Proof.Machine.execStmw rs ra d s
  | .lswi rd ra nb => Sys2Proof.Machine.execLswi rd ra nb s
  | .lswx rd ra rb => Sys2Proof.Machine.execLswx rd ra rb s
  | .stswi rs ra nb => Sys2Proof.Machine.execStswi rs ra nb s
  | .stswx rs ra rb => Sys2Proof.Machine.execStswx rs ra rb s
  | .lfs frd ra d => Sys2Proof.Machine.execLfs frd ra d s
  | .lfsu frd ra d => Sys2Proof.Machine.execLfsu frd ra d s
  | .lfsx frd ra rb => Sys2Proof.Machine.execLfsx frd ra rb s
  | .lfsux frd ra rb => Sys2Proof.Machine.execLfsux frd ra rb s
  | .lfd frd ra d => Sys2Proof.Machine.execLfd frd ra d s
  | .lfdu frd ra d => Sys2Proof.Machine.execLfdu frd ra d s
  | .lfdx frd ra rb => Sys2Proof.Machine.execLfdx frd ra rb s
  | .lfdux frd ra rb => Sys2Proof.Machine.execLfdux frd ra rb s
  | .stfs frs ra d => Sys2Proof.Machine.execStfs frs ra d s
  | .stfsu frs ra d => Sys2Proof.Machine.execStfsu frs ra d s
  | .stfsx frs ra rb => Sys2Proof.Machine.execStfsx frs ra rb s
  | .stfsux frs ra rb => Sys2Proof.Machine.execStfsux frs ra rb s
  | .stfd frs ra d => Sys2Proof.Machine.execStfd frs ra d s
  | .stfdu frs ra d => Sys2Proof.Machine.execStfdu frs ra d s
  | .stfdx frs ra rb => Sys2Proof.Machine.execStfdx frs ra rb s
  | .stfdux frs ra rb => Sys2Proof.Machine.execStfdux frs ra rb s
  | .stfiwx frs ra rb => Sys2Proof.Machine.execStfiwx frs ra rb s
  | .bx li aa lk => Sys2Proof.Machine.execBx li aa lk s
  | .bcx bo bi bd aa lk => Sys2Proof.Machine.execBcx bo bi bd aa lk s
  | .bclrx bo bi lk => Sys2Proof.Machine.execBclrx bo bi lk s
  | .bcctrx bo bi lk => Sys2Proof.Machine.execBcctrx bo bi lk s
  | .crand crbd crba crbb => Sys2Proof.Machine.execCrand crbd crba crbb s
  | .cror crbd crba crbb => Sys2Proof.Machine.execCror crbd crba crbb s
  | .crxor crbd crba crbb => Sys2Proof.Machine.execCrxor crbd crba crbb s
  | .crnand crbd crba crbb => Sys2Proof.Machine.execCrnand crbd crba crbb s
  | .crnor crbd crba crbb => Sys2Proof.Machine.execCrnor crbd crba crbb s
  | .creqv crbd crba crbb => Sys2Proof.Machine.execCreqv crbd crba crbb s
  | .crandc crbd crba crbb => Sys2Proof.Machine.execCrandc crbd crba crbb s
  | .crorc crbd crba crbb => Sys2Proof.Machine.execCrorc crbd crba crbb s
  | .mcrf crfd crfs => Sys2Proof.Machine.execMcrf crfd crfs s
  | .sc => Sys2Proof.Machine.execSc s
  | .rfi => Sys2Proof.Machine.execRfi s
  | .rfid => Sys2Proof.Machine.execRfid s
  | .tw tof ra rb => Sys2Proof.Machine.execTw tof ra rb s
  | .twi tof ra simm => Sys2Proof.Machine.execTwi tof ra simm s
  | .td tof ra rb => Sys2Proof.Machine.execTd tof ra rb s
  | .tdi tof ra simm => Sys2Proof.Machine.execTdi tof ra simm s
  | .mfcr rd => Sys2Proof.Machine.execMfcr rd s
  | .mtcrf rs crm => Sys2Proof.Machine.execMtcrf rs crm s
  | .mcrxr crfd => Sys2Proof.Machine.execMcrxr crfd s
  | .mfmsr rd => Sys2Proof.Machine.execMfmsr rd s
  | .mtmsr rs => Sys2Proof.Machine.execMtmsr rs s
  | .mtmsrd rs => Sys2Proof.Machine.execMtmsrd rs s
  | .mfspr rd spr => Sys2Proof.Machine.execMfspr rd spr s
  | .mtspr rs spr => Sys2Proof.Machine.execMtspr rs spr s
  | .mftb rd tbr => Sys2Proof.Machine.execMftb rd tbr s
  | .sync => Sys2Proof.Machine.execSync s
  | .isync => Sys2Proof.Machine.execIsync s
  | .eieio => Sys2Proof.Machine.execEieio s
  | .lwarx rd ra rb => Sys2Proof.Machine.execLwarx rd ra rb s
  | .ldarx rd ra rb => Sys2Proof.Machine.execLdarx rd ra rb s
  | .stwcxDot rs ra rb => Sys2Proof.Machine.execStwcxDot rs ra rb s
  | .stdcxDot rs ra rb => Sys2Proof.Machine.execStdcxDot rs ra rb s
  | .dcbt ra rb => Sys2Proof.Machine.execDcbt ra rb s
  | .dcbtst ra rb => Sys2Proof.Machine.execDcbtst ra rb s
  | .dcbst ra rb => Sys2Proof.Machine.execDcbst ra rb s
  | .dcbf ra rb => Sys2Proof.Machine.execDcbf ra rb s
  | .dcbi ra rb => Sys2Proof.Machine.execDcbi ra rb s
  | .dcba ra rb => Sys2Proof.Machine.execDcba ra rb s
  | .dcbz ra rb => Sys2Proof.Machine.execDcbz ra rb s
  | .icbi ra rb => Sys2Proof.Machine.execIcbi ra rb s
  | .eciwx rd ra rb => Sys2Proof.Machine.execEciwx rd ra rb s
  | .ecowx rs ra rb => Sys2Proof.Machine.execEcowx rs ra rb s
  | .mfsr rd sr => Sys2Proof.Machine.execMfsr rd sr s
  | .mfsrin rd rb => Sys2Proof.Machine.execMfsrin rd rb s
  | .mtsr rs sr => Sys2Proof.Machine.execMtsr rs sr s
  | .mtsrin rs rb => Sys2Proof.Machine.execMtsrin rs rb s
  | .mtsrd rs sr => Sys2Proof.Machine.execMtsrd rs sr s
  | .mtsrdin rs rb => Sys2Proof.Machine.execMtsrdin rs rb s
  | .slbia => Sys2Proof.Machine.execSlbia s
  | .slbie rb => Sys2Proof.Machine.execSlbie rb s
  | .tlbia => Sys2Proof.Machine.execTlbia s
  | .tlbie rb => Sys2Proof.Machine.execTlbie rb s
  | .tlbsync => Sys2Proof.Machine.execTlbsync s

end Sys2Proof.Machine
end

