-- ==== Sys2Proof/Decode.lean ====
section
/-!
DEFINITION. Decoding (30_encoding R160 to R164) and, after it, the encoder, both written from the encoding forms R141
to R156.  Instruction bits are numbered from the most significant one, as the spec numbers them (R11).
Decoding is total: a word that matches no row is `illegal` (R163); a word that matches a row but holds a 1 in one of
the row's reserved bits is `reserved`, with the instruction the row names (R164, D7: its earlier checks of R619 still
come first).
-/

namespace Sys2Proof

/-- What a 32-bit word decodes to. -/
inductive Decoded where
  /-- The word is this instruction. -/
  | ok (i : Instr)
  /-- The word matches this instruction's row but has a reserved bit set (R164). -/
  | reserved (i : Instr)
  /-- The word matches no row (R163). -/
  | illegal
  deriving DecidableEq, Repr

/-- Bits `a` to `b` of an instruction word, numbered from the most significant bit (R11). -/
def field (w a b : Nat) : Nat := w / 2 ^ (31 - b) % 2 ^ (b + 1 - a)

/-- The same bits as a bit vector. -/
def fieldBits (n w a b : Nat) : BitVec n := BitVec.ofNat n (field w a b)

/-- One bit of the word as a flag. -/
def fieldBit (w a : Nat) : Bool := field w a a == 1

/-- The `spr` or `tbr` number: its two halves stand exchanged in bits 11:20 (R152). -/
def swappedField (w : Nat) : BitVec 10 := BitVec.ofNat 10 (field w 16 20 * 32 + field w 11 15)

/-- The 6-bit mask bound of forms MD and MDS: bit 26 is its high-order bit (R155, R156). -/
def splitMask (w : Nat) : BitVec 6 := BitVec.ofNat 6 (field w 26 26 * 32 + field w 21 25)

/-- The 6-bit shift amount of forms MD and XS: bit 30 is its high-order bit (R150, R155). -/
def splitShift (w : Nat) : BitVec 6 := BitVec.ofNat 6 (field w 30 30 * 32 + field w 16 20)

/-- The row's instruction when all its reserved fields are zero, else the reserved-bit outcome (R164). -/
def whenZero (w : Nat) (reserved : List (Nat × Nat)) (i : Instr) : Decoded :=
  if reserved.all (fun f => field w f.1 f.2 == 0) then .ok i else .reserved i

/-- Primary opcode 17: the extended opcode selects the row (30_encoding R162). -/
def decodeOp17 (w : Nat) : Decoded :=
  if field w 30 30 = 1 then whenZero w [(6, 29), (31, 31)] .sc
  else .illegal

/-- Primary opcode 19: the extended opcode selects the row (30_encoding R162). -/
def decodeOp19 (w : Nat) : Decoded :=
  if field w 21 30 = 16 then whenZero w [(16, 20)] (.bclrx (fieldBits 5 w 6 10) (fieldBits 5 w 11 15) (fieldBit w 31))
  else if field w 21 30 = 528 then whenZero w [(16, 20)] (.bcctrx (fieldBits 5 w 6 10) (fieldBits 5 w 11 15) (fieldBit w 31))
  else if field w 21 30 = 257 then whenZero w [(31, 31)] (.crand (fieldBits 5 w 6 10) (fieldBits 5 w 11 15) (fieldBits 5 w 16 20))
  else if field w 21 30 = 449 then whenZero w [(31, 31)] (.cror (fieldBits 5 w 6 10) (fieldBits 5 w 11 15) (fieldBits 5 w 16 20))
  else if field w 21 30 = 193 then whenZero w [(31, 31)] (.crxor (fieldBits 5 w 6 10) (fieldBits 5 w 11 15) (fieldBits 5 w 16 20))
  else if field w 21 30 = 225 then whenZero w [(31, 31)] (.crnand (fieldBits 5 w 6 10) (fieldBits 5 w 11 15) (fieldBits 5 w 16 20))
  else if field w 21 30 = 33 then whenZero w [(31, 31)] (.crnor (fieldBits 5 w 6 10) (fieldBits 5 w 11 15) (fieldBits 5 w 16 20))
  else if field w 21 30 = 289 then whenZero w [(31, 31)] (.creqv (fieldBits 5 w 6 10) (fieldBits 5 w 11 15) (fieldBits 5 w 16 20))
  else if field w 21 30 = 129 then whenZero w [(31, 31)] (.crandc (fieldBits 5 w 6 10) (fieldBits 5 w 11 15) (fieldBits 5 w 16 20))
  else if field w 21 30 = 417 then whenZero w [(31, 31)] (.crorc (fieldBits 5 w 6 10) (fieldBits 5 w 11 15) (fieldBits 5 w 16 20))
  else if field w 21 30 = 0 then whenZero w [(9, 10), (14, 20), (31, 31)] (.mcrf (fieldBits 3 w 6 8) (fieldBits 3 w 11 13))
  else if field w 21 30 = 50 then whenZero w [(6, 20), (31, 31)] .rfi
  else if field w 21 30 = 18 then whenZero w [(6, 20), (31, 31)] .rfid
  else if field w 21 30 = 150 then whenZero w [(6, 20), (31, 31)] .isync
  else .illegal

/-- Primary opcode 30: the extended opcode selects the row (30_encoding R162). -/
def decodeOp30 (w : Nat) : Decoded :=
  if field w 27 29 = 0 then .ok (.rldiclx (fieldBits 5 w 6 10) (fieldBits 5 w 11 15) (splitShift w) (splitMask w) (fieldBit w 31))
  else if field w 27 29 = 1 then .ok (.rldicrx (fieldBits 5 w 6 10) (fieldBits 5 w 11 15) (splitShift w) (splitMask w) (fieldBit w 31))
  else if field w 27 29 = 2 then .ok (.rldicx (fieldBits 5 w 6 10) (fieldBits 5 w 11 15) (splitShift w) (splitMask w) (fieldBit w 31))
  else if field w 27 29 = 3 then .ok (.rldimix (fieldBits 5 w 6 10) (fieldBits 5 w 11 15) (splitShift w) (splitMask w) (fieldBit w 31))
  else if field w 27 30 = 8 then .ok (.rldclx (fieldBits 5 w 6 10) (fieldBits 5 w 11 15) (fieldBits 5 w 16 20) (splitMask w) (fieldBit w 31))
  else if field w 27 30 = 9 then .ok (.rldcrx (fieldBits 5 w 6 10) (fieldBits 5 w 11 15) (fieldBits 5 w 16 20) (splitMask w) (fieldBit w 31))
  else .illegal

/-- Primary opcode 31: the extended opcode selects the row (30_encoding R162). -/
def decodeOp31 (w : Nat) : Decoded :=
  if field w 22 30 = 266 then .ok (.addx (fieldBits 5 w 6 10) (fieldBits 5 w 11 15) (fieldBits 5 w 16 20) (fieldBit w 21) (fieldBit w 31))
  else if field w 22 30 = 10 then .ok (.addcx (fieldBits 5 w 6 10) (fieldBits 5 w 11 15) (fieldBits 5 w 16 20) (fieldBit w 21) (fieldBit w 31))
  else if field w 22 30 = 138 then .ok (.addex (fieldBits 5 w 6 10) (fieldBits 5 w 11 15) (fieldBits 5 w 16 20) (fieldBit w 21) (fieldBit w 31))
  else if field w 22 30 = 234 then whenZero w [(16, 20)] (.addmex (fieldBits 5 w 6 10) (fieldBits 5 w 11 15) (fieldBit w 21) (fieldBit w 31))
  else if field w 22 30 = 202 then whenZero w [(16, 20)] (.addzex (fieldBits 5 w 6 10) (fieldBits 5 w 11 15) (fieldBit w 21) (fieldBit w 31))
  else if field w 22 30 = 40 then .ok (.subfx (fieldBits 5 w 6 10) (fieldBits 5 w 11 15) (fieldBits 5 w 16 20) (fieldBit w 21) (fieldBit w 31))
  else if field w 22 30 = 8 then .ok (.subfcx (fieldBits 5 w 6 10) (fieldBits 5 w 11 15) (fieldBits 5 w 16 20) (fieldBit w 21) (fieldBit w 31))
  else if field w 22 30 = 136 then .ok (.subfex (fieldBits 5 w 6 10) (fieldBits 5 w 11 15) (fieldBits 5 w 16 20) (fieldBit w 21) (fieldBit w 31))
  else if field w 22 30 = 232 then whenZero w [(16, 20)] (.subfmex (fieldBits 5 w 6 10) (fieldBits 5 w 11 15) (fieldBit w 21) (fieldBit w 31))
  else if field w 22 30 = 200 then whenZero w [(16, 20)] (.subfzex (fieldBits 5 w 6 10) (fieldBits 5 w 11 15) (fieldBit w 21) (fieldBit w 31))
  else if field w 22 30 = 104 then whenZero w [(16, 20)] (.negx (fieldBits 5 w 6 10) (fieldBits 5 w 11 15) (fieldBit w 21) (fieldBit w 31))
  else if field w 22 30 = 235 then .ok (.mullwx (fieldBits 5 w 6 10) (fieldBits 5 w 11 15) (fieldBits 5 w 16 20) (fieldBit w 21) (fieldBit w 31))
  else if field w 22 30 = 75 then whenZero w [(21, 21)] (.mulhwx (fieldBits 5 w 6 10) (fieldBits 5 w 11 15) (fieldBits 5 w 16 20) (fieldBit w 31))
  else if field w 22 30 = 11 then whenZero w [(21, 21)] (.mulhwux (fieldBits 5 w 6 10) (fieldBits 5 w 11 15) (fieldBits 5 w 16 20) (fieldBit w 31))
  else if field w 22 30 = 233 then .ok (.mulldx (fieldBits 5 w 6 10) (fieldBits 5 w 11 15) (fieldBits 5 w 16 20) (fieldBit w 21) (fieldBit w 31))
  else if field w 22 30 = 73 then whenZero w [(21, 21)] (.mulhdx (fieldBits 5 w 6 10) (fieldBits 5 w 11 15) (fieldBits 5 w 16 20) (fieldBit w 31))
  else if field w 22 30 = 9 then whenZero w [(21, 21)] (.mulhdux (fieldBits 5 w 6 10) (fieldBits 5 w 11 15) (fieldBits 5 w 16 20) (fieldBit w 31))
  else if field w 22 30 = 491 then .ok (.divwx (fieldBits 5 w 6 10) (fieldBits 5 w 11 15) (fieldBits 5 w 16 20) (fieldBit w 21) (fieldBit w 31))
  else if field w 22 30 = 459 then .ok (.divwux (fieldBits 5 w 6 10) (fieldBits 5 w 11 15) (fieldBits 5 w 16 20) (fieldBit w 21) (fieldBit w 31))
  else if field w 22 30 = 489 then .ok (.divdx (fieldBits 5 w 6 10) (fieldBits 5 w 11 15) (fieldBits 5 w 16 20) (fieldBit w 21) (fieldBit w 31))
  else if field w 22 30 = 457 then .ok (.divdux (fieldBits 5 w 6 10) (fieldBits 5 w 11 15) (fieldBits 5 w 16 20) (fieldBit w 21) (fieldBit w 31))
  else if field w 21 30 = 0 then whenZero w [(9, 9), (31, 31)] (.cmp (fieldBits 3 w 6 8) (fieldBit w 10) (fieldBits 5 w 11 15) (fieldBits 5 w 16 20))
  else if field w 21 30 = 32 then whenZero w [(9, 9), (31, 31)] (.cmpl (fieldBits 3 w 6 8) (fieldBit w 10) (fieldBits 5 w 11 15) (fieldBits 5 w 16 20))
  else if field w 21 30 = 28 then .ok (.andx (fieldBits 5 w 6 10) (fieldBits 5 w 11 15) (fieldBits 5 w 16 20) (fieldBit w 31))
  else if field w 21 30 = 444 then .ok (.orx (fieldBits 5 w 6 10) (fieldBits 5 w 11 15) (fieldBits 5 w 16 20) (fieldBit w 31))
  else if field w 21 30 = 316 then .ok (.xorx (fieldBits 5 w 6 10) (fieldBits 5 w 11 15) (fieldBits 5 w 16 20) (fieldBit w 31))
  else if field w 21 30 = 476 then .ok (.nandx (fieldBits 5 w 6 10) (fieldBits 5 w 11 15) (fieldBits 5 w 16 20) (fieldBit w 31))
  else if field w 21 30 = 124 then .ok (.norx (fieldBits 5 w 6 10) (fieldBits 5 w 11 15) (fieldBits 5 w 16 20) (fieldBit w 31))
  else if field w 21 30 = 284 then .ok (.eqvx (fieldBits 5 w 6 10) (fieldBits 5 w 11 15) (fieldBits 5 w 16 20) (fieldBit w 31))
  else if field w 21 30 = 60 then .ok (.andcx (fieldBits 5 w 6 10) (fieldBits 5 w 11 15) (fieldBits 5 w 16 20) (fieldBit w 31))
  else if field w 21 30 = 412 then .ok (.orcx (fieldBits 5 w 6 10) (fieldBits 5 w 11 15) (fieldBits 5 w 16 20) (fieldBit w 31))
  else if field w 21 30 = 954 then whenZero w [(16, 20)] (.extsbx (fieldBits 5 w 6 10) (fieldBits 5 w 11 15) (fieldBit w 31))
  else if field w 21 30 = 922 then whenZero w [(16, 20)] (.extshx (fieldBits 5 w 6 10) (fieldBits 5 w 11 15) (fieldBit w 31))
  else if field w 21 30 = 986 then whenZero w [(16, 20)] (.extswx (fieldBits 5 w 6 10) (fieldBits 5 w 11 15) (fieldBit w 31))
  else if field w 21 30 = 26 then whenZero w [(16, 20)] (.cntlzwx (fieldBits 5 w 6 10) (fieldBits 5 w 11 15) (fieldBit w 31))
  else if field w 21 30 = 58 then whenZero w [(16, 20)] (.cntlzdx (fieldBits 5 w 6 10) (fieldBits 5 w 11 15) (fieldBit w 31))
  else if field w 21 30 = 24 then .ok (.slwx (fieldBits 5 w 6 10) (fieldBits 5 w 11 15) (fieldBits 5 w 16 20) (fieldBit w 31))
  else if field w 21 30 = 536 then .ok (.srwx (fieldBits 5 w 6 10) (fieldBits 5 w 11 15) (fieldBits 5 w 16 20) (fieldBit w 31))
  else if field w 21 30 = 792 then .ok (.srawx (fieldBits 5 w 6 10) (fieldBits 5 w 11 15) (fieldBits 5 w 16 20) (fieldBit w 31))
  else if field w 21 30 = 824 then .ok (.srawix (fieldBits 5 w 6 10) (fieldBits 5 w 11 15) (fieldBits 5 w 16 20) (fieldBit w 31))
  else if field w 21 30 = 27 then .ok (.sldx (fieldBits 5 w 6 10) (fieldBits 5 w 11 15) (fieldBits 5 w 16 20) (fieldBit w 31))
  else if field w 21 30 = 539 then .ok (.srdx (fieldBits 5 w 6 10) (fieldBits 5 w 11 15) (fieldBits 5 w 16 20) (fieldBit w 31))
  else if field w 21 30 = 794 then .ok (.sradx (fieldBits 5 w 6 10) (fieldBits 5 w 11 15) (fieldBits 5 w 16 20) (fieldBit w 31))
  else if field w 21 29 = 413 then .ok (.sradix (fieldBits 5 w 6 10) (fieldBits 5 w 11 15) (splitShift w) (fieldBit w 31))
  else if field w 21 30 = 87 then whenZero w [(31, 31)] (.lbzx (fieldBits 5 w 6 10) (fieldBits 5 w 11 15) (fieldBits 5 w 16 20))
  else if field w 21 30 = 119 then whenZero w [(31, 31)] (.lbzux (fieldBits 5 w 6 10) (fieldBits 5 w 11 15) (fieldBits 5 w 16 20))
  else if field w 21 30 = 279 then whenZero w [(31, 31)] (.lhzx (fieldBits 5 w 6 10) (fieldBits 5 w 11 15) (fieldBits 5 w 16 20))
  else if field w 21 30 = 311 then whenZero w [(31, 31)] (.lhzux (fieldBits 5 w 6 10) (fieldBits 5 w 11 15) (fieldBits 5 w 16 20))
  else if field w 21 30 = 343 then whenZero w [(31, 31)] (.lhax (fieldBits 5 w 6 10) (fieldBits 5 w 11 15) (fieldBits 5 w 16 20))
  else if field w 21 30 = 375 then whenZero w [(31, 31)] (.lhaux (fieldBits 5 w 6 10) (fieldBits 5 w 11 15) (fieldBits 5 w 16 20))
  else if field w 21 30 = 23 then whenZero w [(31, 31)] (.lwzx (fieldBits 5 w 6 10) (fieldBits 5 w 11 15) (fieldBits 5 w 16 20))
  else if field w 21 30 = 55 then whenZero w [(31, 31)] (.lwzux (fieldBits 5 w 6 10) (fieldBits 5 w 11 15) (fieldBits 5 w 16 20))
  else if field w 21 30 = 341 then whenZero w [(31, 31)] (.lwax (fieldBits 5 w 6 10) (fieldBits 5 w 11 15) (fieldBits 5 w 16 20))
  else if field w 21 30 = 373 then whenZero w [(31, 31)] (.lwaux (fieldBits 5 w 6 10) (fieldBits 5 w 11 15) (fieldBits 5 w 16 20))
  else if field w 21 30 = 21 then whenZero w [(31, 31)] (.ldx (fieldBits 5 w 6 10) (fieldBits 5 w 11 15) (fieldBits 5 w 16 20))
  else if field w 21 30 = 53 then whenZero w [(31, 31)] (.ldux (fieldBits 5 w 6 10) (fieldBits 5 w 11 15) (fieldBits 5 w 16 20))
  else if field w 21 30 = 215 then whenZero w [(31, 31)] (.stbx (fieldBits 5 w 6 10) (fieldBits 5 w 11 15) (fieldBits 5 w 16 20))
  else if field w 21 30 = 247 then whenZero w [(31, 31)] (.stbux (fieldBits 5 w 6 10) (fieldBits 5 w 11 15) (fieldBits 5 w 16 20))
  else if field w 21 30 = 407 then whenZero w [(31, 31)] (.sthx (fieldBits 5 w 6 10) (fieldBits 5 w 11 15) (fieldBits 5 w 16 20))
  else if field w 21 30 = 439 then whenZero w [(31, 31)] (.sthux (fieldBits 5 w 6 10) (fieldBits 5 w 11 15) (fieldBits 5 w 16 20))
  else if field w 21 30 = 151 then whenZero w [(31, 31)] (.stwx (fieldBits 5 w 6 10) (fieldBits 5 w 11 15) (fieldBits 5 w 16 20))
  else if field w 21 30 = 183 then whenZero w [(31, 31)] (.stwux (fieldBits 5 w 6 10) (fieldBits 5 w 11 15) (fieldBits 5 w 16 20))
  else if field w 21 30 = 149 then whenZero w [(31, 31)] (.stdx (fieldBits 5 w 6 10) (fieldBits 5 w 11 15) (fieldBits 5 w 16 20))
  else if field w 21 30 = 181 then whenZero w [(31, 31)] (.stdux (fieldBits 5 w 6 10) (fieldBits 5 w 11 15) (fieldBits 5 w 16 20))
  else if field w 21 30 = 790 then whenZero w [(31, 31)] (.lhbrx (fieldBits 5 w 6 10) (fieldBits 5 w 11 15) (fieldBits 5 w 16 20))
  else if field w 21 30 = 534 then whenZero w [(31, 31)] (.lwbrx (fieldBits 5 w 6 10) (fieldBits 5 w 11 15) (fieldBits 5 w 16 20))
  else if field w 21 30 = 918 then whenZero w [(31, 31)] (.sthbrx (fieldBits 5 w 6 10) (fieldBits 5 w 11 15) (fieldBits 5 w 16 20))
  else if field w 21 30 = 662 then whenZero w [(31, 31)] (.stwbrx (fieldBits 5 w 6 10) (fieldBits 5 w 11 15) (fieldBits 5 w 16 20))
  else if field w 21 30 = 597 then whenZero w [(31, 31)] (.lswi (fieldBits 5 w 6 10) (fieldBits 5 w 11 15) (fieldBits 5 w 16 20))
  else if field w 21 30 = 533 then whenZero w [(31, 31)] (.lswx (fieldBits 5 w 6 10) (fieldBits 5 w 11 15) (fieldBits 5 w 16 20))
  else if field w 21 30 = 725 then whenZero w [(31, 31)] (.stswi (fieldBits 5 w 6 10) (fieldBits 5 w 11 15) (fieldBits 5 w 16 20))
  else if field w 21 30 = 661 then whenZero w [(31, 31)] (.stswx (fieldBits 5 w 6 10) (fieldBits 5 w 11 15) (fieldBits 5 w 16 20))
  else if field w 21 30 = 535 then whenZero w [(31, 31)] (.lfsx (fieldBits 5 w 6 10) (fieldBits 5 w 11 15) (fieldBits 5 w 16 20))
  else if field w 21 30 = 567 then whenZero w [(31, 31)] (.lfsux (fieldBits 5 w 6 10) (fieldBits 5 w 11 15) (fieldBits 5 w 16 20))
  else if field w 21 30 = 599 then whenZero w [(31, 31)] (.lfdx (fieldBits 5 w 6 10) (fieldBits 5 w 11 15) (fieldBits 5 w 16 20))
  else if field w 21 30 = 631 then whenZero w [(31, 31)] (.lfdux (fieldBits 5 w 6 10) (fieldBits 5 w 11 15) (fieldBits 5 w 16 20))
  else if field w 21 30 = 663 then whenZero w [(31, 31)] (.stfsx (fieldBits 5 w 6 10) (fieldBits 5 w 11 15) (fieldBits 5 w 16 20))
  else if field w 21 30 = 695 then whenZero w [(31, 31)] (.stfsux (fieldBits 5 w 6 10) (fieldBits 5 w 11 15) (fieldBits 5 w 16 20))
  else if field w 21 30 = 727 then whenZero w [(31, 31)] (.stfdx (fieldBits 5 w 6 10) (fieldBits 5 w 11 15) (fieldBits 5 w 16 20))
  else if field w 21 30 = 759 then whenZero w [(31, 31)] (.stfdux (fieldBits 5 w 6 10) (fieldBits 5 w 11 15) (fieldBits 5 w 16 20))
  else if field w 21 30 = 983 then whenZero w [(31, 31)] (.stfiwx (fieldBits 5 w 6 10) (fieldBits 5 w 11 15) (fieldBits 5 w 16 20))
  else if field w 21 30 = 4 then whenZero w [(31, 31)] (.tw (fieldBits 5 w 6 10) (fieldBits 5 w 11 15) (fieldBits 5 w 16 20))
  else if field w 21 30 = 68 then whenZero w [(31, 31)] (.td (fieldBits 5 w 6 10) (fieldBits 5 w 11 15) (fieldBits 5 w 16 20))
  else if field w 21 30 = 19 then whenZero w [(11, 20), (31, 31)] (.mfcr (fieldBits 5 w 6 10))
  else if field w 21 30 = 144 then whenZero w [(11, 11), (20, 20), (31, 31)] (.mtcrf (fieldBits 5 w 6 10) (fieldBits 8 w 12 19))
  else if field w 21 30 = 512 then whenZero w [(9, 20), (31, 31)] (.mcrxr (fieldBits 3 w 6 8))
  else if field w 21 30 = 83 then whenZero w [(11, 20), (31, 31)] (.mfmsr (fieldBits 5 w 6 10))
  else if field w 21 30 = 146 then whenZero w [(11, 20), (31, 31)] (.mtmsr (fieldBits 5 w 6 10))
  else if field w 21 30 = 178 then whenZero w [(11, 20), (31, 31)] (.mtmsrd (fieldBits 5 w 6 10))
  else if field w 21 30 = 339 then whenZero w [(31, 31)] (.mfspr (fieldBits 5 w 6 10) (swappedField w))
  else if field w 21 30 = 467 then whenZero w [(31, 31)] (.mtspr (fieldBits 5 w 6 10) (swappedField w))
  else if field w 21 30 = 371 then whenZero w [(31, 31)] (.mftb (fieldBits 5 w 6 10) (swappedField w))
  else if field w 21 30 = 598 then whenZero w [(6, 20), (31, 31)] .sync
  else if field w 21 30 = 854 then whenZero w [(6, 20), (31, 31)] .eieio
  else if field w 21 30 = 20 then whenZero w [(31, 31)] (.lwarx (fieldBits 5 w 6 10) (fieldBits 5 w 11 15) (fieldBits 5 w 16 20))
  else if field w 21 30 = 84 then whenZero w [(31, 31)] (.ldarx (fieldBits 5 w 6 10) (fieldBits 5 w 11 15) (fieldBits 5 w 16 20))
  else if field w 21 31 = 301 then .ok (.stwcxDot (fieldBits 5 w 6 10) (fieldBits 5 w 11 15) (fieldBits 5 w 16 20))
  else if field w 21 31 = 429 then .ok (.stdcxDot (fieldBits 5 w 6 10) (fieldBits 5 w 11 15) (fieldBits 5 w 16 20))
  else if field w 21 30 = 278 then whenZero w [(6, 10), (31, 31)] (.dcbt (fieldBits 5 w 11 15) (fieldBits 5 w 16 20))
  else if field w 21 30 = 246 then whenZero w [(6, 10), (31, 31)] (.dcbtst (fieldBits 5 w 11 15) (fieldBits 5 w 16 20))
  else if field w 21 30 = 54 then whenZero w [(6, 10), (31, 31)] (.dcbst (fieldBits 5 w 11 15) (fieldBits 5 w 16 20))
  else if field w 21 30 = 86 then whenZero w [(6, 10), (31, 31)] (.dcbf (fieldBits 5 w 11 15) (fieldBits 5 w 16 20))
  else if field w 21 30 = 470 then whenZero w [(6, 10), (31, 31)] (.dcbi (fieldBits 5 w 11 15) (fieldBits 5 w 16 20))
  else if field w 21 30 = 758 then whenZero w [(6, 10), (31, 31)] (.dcba (fieldBits 5 w 11 15) (fieldBits 5 w 16 20))
  else if field w 21 30 = 1014 then whenZero w [(6, 10), (31, 31)] (.dcbz (fieldBits 5 w 11 15) (fieldBits 5 w 16 20))
  else if field w 21 30 = 982 then whenZero w [(6, 10), (31, 31)] (.icbi (fieldBits 5 w 11 15) (fieldBits 5 w 16 20))
  else if field w 21 30 = 310 then whenZero w [(31, 31)] (.eciwx (fieldBits 5 w 6 10) (fieldBits 5 w 11 15) (fieldBits 5 w 16 20))
  else if field w 21 30 = 438 then whenZero w [(31, 31)] (.ecowx (fieldBits 5 w 6 10) (fieldBits 5 w 11 15) (fieldBits 5 w 16 20))
  else if field w 21 30 = 595 then whenZero w [(11, 11), (16, 20), (31, 31)] (.mfsr (fieldBits 5 w 6 10) (fieldBits 4 w 12 15))
  else if field w 21 30 = 659 then whenZero w [(11, 15), (31, 31)] (.mfsrin (fieldBits 5 w 6 10) (fieldBits 5 w 16 20))
  else if field w 21 30 = 210 then whenZero w [(11, 11), (16, 20), (31, 31)] (.mtsr (fieldBits 5 w 6 10) (fieldBits 4 w 12 15))
  else if field w 21 30 = 242 then whenZero w [(11, 15), (31, 31)] (.mtsrin (fieldBits 5 w 6 10) (fieldBits 5 w 16 20))
  else if field w 21 30 = 82 then whenZero w [(11, 11), (16, 20), (31, 31)] (.mtsrd (fieldBits 5 w 6 10) (fieldBits 4 w 12 15))
  else if field w 21 30 = 114 then whenZero w [(11, 15), (31, 31)] (.mtsrdin (fieldBits 5 w 6 10) (fieldBits 5 w 16 20))
  else if field w 21 30 = 498 then whenZero w [(6, 20), (31, 31)] .slbia
  else if field w 21 30 = 434 then whenZero w [(6, 15), (31, 31)] (.slbie (fieldBits 5 w 16 20))
  else if field w 21 30 = 370 then whenZero w [(6, 20), (31, 31)] .tlbia
  else if field w 21 30 = 306 then whenZero w [(6, 15), (31, 31)] (.tlbie (fieldBits 5 w 16 20))
  else if field w 21 30 = 566 then whenZero w [(6, 20), (31, 31)] .tlbsync
  else .illegal

/-- Primary opcode 58: the extended opcode selects the row (30_encoding R162). -/
def decodeOp58 (w : Nat) : Decoded :=
  if field w 30 31 = 2 then .ok (.lwa (fieldBits 5 w 6 10) (fieldBits 5 w 11 15) (fieldBits 14 w 16 29))
  else if field w 30 31 = 0 then .ok (.ld (fieldBits 5 w 6 10) (fieldBits 5 w 11 15) (fieldBits 14 w 16 29))
  else if field w 30 31 = 1 then .ok (.ldu (fieldBits 5 w 6 10) (fieldBits 5 w 11 15) (fieldBits 14 w 16 29))
  else .illegal

/-- Primary opcode 59: the extended opcode selects the row (30_encoding R162). -/
def decodeOp59 (w : Nat) : Decoded :=
  if field w 26 30 = 21 then whenZero w [(21, 25)] (.faddsx (fieldBits 5 w 6 10) (fieldBits 5 w 11 15) (fieldBits 5 w 16 20) (fieldBit w 31))
  else if field w 26 30 = 20 then whenZero w [(21, 25)] (.fsubsx (fieldBits 5 w 6 10) (fieldBits 5 w 11 15) (fieldBits 5 w 16 20) (fieldBit w 31))
  else if field w 26 30 = 25 then whenZero w [(16, 20)] (.fmulsx (fieldBits 5 w 6 10) (fieldBits 5 w 11 15) (fieldBits 5 w 21 25) (fieldBit w 31))
  else if field w 26 30 = 18 then whenZero w [(21, 25)] (.fdivsx (fieldBits 5 w 6 10) (fieldBits 5 w 11 15) (fieldBits 5 w 16 20) (fieldBit w 31))
  else if field w 26 30 = 22 then whenZero w [(11, 15), (21, 25)] (.fsqrtsx (fieldBits 5 w 6 10) (fieldBits 5 w 16 20) (fieldBit w 31))
  else if field w 26 30 = 24 then whenZero w [(11, 15), (21, 25)] (.fresx (fieldBits 5 w 6 10) (fieldBits 5 w 16 20) (fieldBit w 31))
  else if field w 26 30 = 29 then .ok (.fmaddsx (fieldBits 5 w 6 10) (fieldBits 5 w 11 15) (fieldBits 5 w 16 20) (fieldBits 5 w 21 25) (fieldBit w 31))
  else if field w 26 30 = 28 then .ok (.fmsubsx (fieldBits 5 w 6 10) (fieldBits 5 w 11 15) (fieldBits 5 w 16 20) (fieldBits 5 w 21 25) (fieldBit w 31))
  else if field w 26 30 = 31 then .ok (.fnmaddsx (fieldBits 5 w 6 10) (fieldBits 5 w 11 15) (fieldBits 5 w 16 20) (fieldBits 5 w 21 25) (fieldBit w 31))
  else if field w 26 30 = 30 then .ok (.fnmsubsx (fieldBits 5 w 6 10) (fieldBits 5 w 11 15) (fieldBits 5 w 16 20) (fieldBits 5 w 21 25) (fieldBit w 31))
  else .illegal

/-- Primary opcode 62: the extended opcode selects the row (30_encoding R162). -/
def decodeOp62 (w : Nat) : Decoded :=
  if field w 30 31 = 0 then .ok (.std (fieldBits 5 w 6 10) (fieldBits 5 w 11 15) (fieldBits 14 w 16 29))
  else if field w 30 31 = 1 then .ok (.stdu (fieldBits 5 w 6 10) (fieldBits 5 w 11 15) (fieldBits 14 w 16 29))
  else .illegal

/-- Primary opcode 63: the extended opcode selects the row (30_encoding R162). -/
def decodeOp63 (w : Nat) : Decoded :=
  if field w 26 30 = 21 then whenZero w [(21, 25)] (.faddx (fieldBits 5 w 6 10) (fieldBits 5 w 11 15) (fieldBits 5 w 16 20) (fieldBit w 31))
  else if field w 26 30 = 20 then whenZero w [(21, 25)] (.fsubx (fieldBits 5 w 6 10) (fieldBits 5 w 11 15) (fieldBits 5 w 16 20) (fieldBit w 31))
  else if field w 26 30 = 25 then whenZero w [(16, 20)] (.fmulx (fieldBits 5 w 6 10) (fieldBits 5 w 11 15) (fieldBits 5 w 21 25) (fieldBit w 31))
  else if field w 26 30 = 18 then whenZero w [(21, 25)] (.fdivx (fieldBits 5 w 6 10) (fieldBits 5 w 11 15) (fieldBits 5 w 16 20) (fieldBit w 31))
  else if field w 26 30 = 22 then whenZero w [(11, 15), (21, 25)] (.fsqrtx (fieldBits 5 w 6 10) (fieldBits 5 w 16 20) (fieldBit w 31))
  else if field w 26 30 = 26 then whenZero w [(11, 15), (21, 25)] (.frsqrtex (fieldBits 5 w 6 10) (fieldBits 5 w 16 20) (fieldBit w 31))
  else if field w 26 30 = 23 then .ok (.fselx (fieldBits 5 w 6 10) (fieldBits 5 w 11 15) (fieldBits 5 w 16 20) (fieldBits 5 w 21 25) (fieldBit w 31))
  else if field w 26 30 = 29 then .ok (.fmaddx (fieldBits 5 w 6 10) (fieldBits 5 w 11 15) (fieldBits 5 w 16 20) (fieldBits 5 w 21 25) (fieldBit w 31))
  else if field w 26 30 = 28 then .ok (.fmsubx (fieldBits 5 w 6 10) (fieldBits 5 w 11 15) (fieldBits 5 w 16 20) (fieldBits 5 w 21 25) (fieldBit w 31))
  else if field w 26 30 = 31 then .ok (.fnmaddx (fieldBits 5 w 6 10) (fieldBits 5 w 11 15) (fieldBits 5 w 16 20) (fieldBits 5 w 21 25) (fieldBit w 31))
  else if field w 26 30 = 30 then .ok (.fnmsubx (fieldBits 5 w 6 10) (fieldBits 5 w 11 15) (fieldBits 5 w 16 20) (fieldBits 5 w 21 25) (fieldBit w 31))
  else if field w 21 30 = 72 then whenZero w [(11, 15)] (.fmrx (fieldBits 5 w 6 10) (fieldBits 5 w 16 20) (fieldBit w 31))
  else if field w 21 30 = 40 then whenZero w [(11, 15)] (.fnegx (fieldBits 5 w 6 10) (fieldBits 5 w 16 20) (fieldBit w 31))
  else if field w 21 30 = 264 then whenZero w [(11, 15)] (.fabsx (fieldBits 5 w 6 10) (fieldBits 5 w 16 20) (fieldBit w 31))
  else if field w 21 30 = 136 then whenZero w [(11, 15)] (.fnabsx (fieldBits 5 w 6 10) (fieldBits 5 w 16 20) (fieldBit w 31))
  else if field w 21 30 = 12 then whenZero w [(11, 15)] (.frspx (fieldBits 5 w 6 10) (fieldBits 5 w 16 20) (fieldBit w 31))
  else if field w 21 30 = 14 then whenZero w [(11, 15)] (.fctiwx (fieldBits 5 w 6 10) (fieldBits 5 w 16 20) (fieldBit w 31))
  else if field w 21 30 = 15 then whenZero w [(11, 15)] (.fctiwzx (fieldBits 5 w 6 10) (fieldBits 5 w 16 20) (fieldBit w 31))
  else if field w 21 30 = 814 then whenZero w [(11, 15)] (.fctidx (fieldBits 5 w 6 10) (fieldBits 5 w 16 20) (fieldBit w 31))
  else if field w 21 30 = 815 then whenZero w [(11, 15)] (.fctidzx (fieldBits 5 w 6 10) (fieldBits 5 w 16 20) (fieldBit w 31))
  else if field w 21 30 = 846 then whenZero w [(11, 15)] (.fcfidx (fieldBits 5 w 6 10) (fieldBits 5 w 16 20) (fieldBit w 31))
  else if field w 21 30 = 0 then whenZero w [(9, 10), (31, 31)] (.fcmpu (fieldBits 3 w 6 8) (fieldBits 5 w 11 15) (fieldBits 5 w 16 20))
  else if field w 21 30 = 32 then whenZero w [(9, 10), (31, 31)] (.fcmpo (fieldBits 3 w 6 8) (fieldBits 5 w 11 15) (fieldBits 5 w 16 20))
  else if field w 21 30 = 583 then whenZero w [(11, 20)] (.mffsx (fieldBits 5 w 6 10) (fieldBit w 31))
  else if field w 21 30 = 64 then whenZero w [(9, 10), (14, 20), (31, 31)] (.mcrfs (fieldBits 3 w 6 8) (fieldBits 3 w 11 13))
  else if field w 21 30 = 711 then whenZero w [(6, 6), (15, 15)] (.mtfsfx (fieldBits 8 w 7 14) (fieldBits 5 w 16 20) (fieldBit w 31))
  else if field w 21 30 = 134 then whenZero w [(9, 15), (20, 20)] (.mtfsfix (fieldBits 3 w 6 8) (fieldBits 4 w 16 19) (fieldBit w 31))
  else if field w 21 30 = 70 then whenZero w [(11, 20)] (.mtfsb0x (fieldBits 5 w 6 10) (fieldBit w 31))
  else if field w 21 30 = 38 then whenZero w [(11, 20)] (.mtfsb1x (fieldBits 5 w 6 10) (fieldBit w 31))
  else .illegal

/-- Decoding of the word with value `w` (R160 steps 1, 2, 6 and 8). -/
def decodeNat (w : Nat) : Decoded :=
  if field w 0 5 = 2 then .ok (.tdi (fieldBits 5 w 6 10) (fieldBits 5 w 11 15) (fieldBits 16 w 16 31))
  else if field w 0 5 = 3 then .ok (.twi (fieldBits 5 w 6 10) (fieldBits 5 w 11 15) (fieldBits 16 w 16 31))
  else if field w 0 5 = 7 then .ok (.mulli (fieldBits 5 w 6 10) (fieldBits 5 w 11 15) (fieldBits 16 w 16 31))
  else if field w 0 5 = 8 then .ok (.subfic (fieldBits 5 w 6 10) (fieldBits 5 w 11 15) (fieldBits 16 w 16 31))
  else if field w 0 5 = 10 then whenZero w [(9, 9)] (.cmpli (fieldBits 3 w 6 8) (fieldBit w 10) (fieldBits 5 w 11 15) (fieldBits 16 w 16 31))
  else if field w 0 5 = 11 then whenZero w [(9, 9)] (.cmpi (fieldBits 3 w 6 8) (fieldBit w 10) (fieldBits 5 w 11 15) (fieldBits 16 w 16 31))
  else if field w 0 5 = 12 then .ok (.addic (fieldBits 5 w 6 10) (fieldBits 5 w 11 15) (fieldBits 16 w 16 31))
  else if field w 0 5 = 13 then .ok (.addicDot (fieldBits 5 w 6 10) (fieldBits 5 w 11 15) (fieldBits 16 w 16 31))
  else if field w 0 5 = 14 then .ok (.addi (fieldBits 5 w 6 10) (fieldBits 5 w 11 15) (fieldBits 16 w 16 31))
  else if field w 0 5 = 15 then .ok (.addis (fieldBits 5 w 6 10) (fieldBits 5 w 11 15) (fieldBits 16 w 16 31))
  else if field w 0 5 = 16 then .ok (.bcx (fieldBits 5 w 6 10) (fieldBits 5 w 11 15) (fieldBits 14 w 16 29) (fieldBit w 30) (fieldBit w 31))
  else if field w 0 5 = 17 then decodeOp17 w
  else if field w 0 5 = 18 then .ok (.bx (fieldBits 24 w 6 29) (fieldBit w 30) (fieldBit w 31))
  else if field w 0 5 = 19 then decodeOp19 w
  else if field w 0 5 = 20 then .ok (.rlwimix (fieldBits 5 w 6 10) (fieldBits 5 w 11 15) (fieldBits 5 w 16 20) (fieldBits 5 w 21 25) (fieldBits 5 w 26 30) (fieldBit w 31))
  else if field w 0 5 = 21 then .ok (.rlwinmx (fieldBits 5 w 6 10) (fieldBits 5 w 11 15) (fieldBits 5 w 16 20) (fieldBits 5 w 21 25) (fieldBits 5 w 26 30) (fieldBit w 31))
  else if field w 0 5 = 23 then .ok (.rlwnmx (fieldBits 5 w 6 10) (fieldBits 5 w 11 15) (fieldBits 5 w 16 20) (fieldBits 5 w 21 25) (fieldBits 5 w 26 30) (fieldBit w 31))
  else if field w 0 5 = 24 then .ok (.ori (fieldBits 5 w 6 10) (fieldBits 5 w 11 15) (fieldBits 16 w 16 31))
  else if field w 0 5 = 25 then .ok (.oris (fieldBits 5 w 6 10) (fieldBits 5 w 11 15) (fieldBits 16 w 16 31))
  else if field w 0 5 = 26 then .ok (.xori (fieldBits 5 w 6 10) (fieldBits 5 w 11 15) (fieldBits 16 w 16 31))
  else if field w 0 5 = 27 then .ok (.xoris (fieldBits 5 w 6 10) (fieldBits 5 w 11 15) (fieldBits 16 w 16 31))
  else if field w 0 5 = 28 then .ok (.andiDot (fieldBits 5 w 6 10) (fieldBits 5 w 11 15) (fieldBits 16 w 16 31))
  else if field w 0 5 = 29 then .ok (.andisDot (fieldBits 5 w 6 10) (fieldBits 5 w 11 15) (fieldBits 16 w 16 31))
  else if field w 0 5 = 30 then decodeOp30 w
  else if field w 0 5 = 31 then decodeOp31 w
  else if field w 0 5 = 32 then .ok (.lwz (fieldBits 5 w 6 10) (fieldBits 5 w 11 15) (fieldBits 16 w 16 31))
  else if field w 0 5 = 33 then .ok (.lwzu (fieldBits 5 w 6 10) (fieldBits 5 w 11 15) (fieldBits 16 w 16 31))
  else if field w 0 5 = 34 then .ok (.lbz (fieldBits 5 w 6 10) (fieldBits 5 w 11 15) (fieldBits 16 w 16 31))
  else if field w 0 5 = 35 then .ok (.lbzu (fieldBits 5 w 6 10) (fieldBits 5 w 11 15) (fieldBits 16 w 16 31))
  else if field w 0 5 = 36 then .ok (.stw (fieldBits 5 w 6 10) (fieldBits 5 w 11 15) (fieldBits 16 w 16 31))
  else if field w 0 5 = 37 then .ok (.stwu (fieldBits 5 w 6 10) (fieldBits 5 w 11 15) (fieldBits 16 w 16 31))
  else if field w 0 5 = 38 then .ok (.stb (fieldBits 5 w 6 10) (fieldBits 5 w 11 15) (fieldBits 16 w 16 31))
  else if field w 0 5 = 39 then .ok (.stbu (fieldBits 5 w 6 10) (fieldBits 5 w 11 15) (fieldBits 16 w 16 31))
  else if field w 0 5 = 40 then .ok (.lhz (fieldBits 5 w 6 10) (fieldBits 5 w 11 15) (fieldBits 16 w 16 31))
  else if field w 0 5 = 41 then .ok (.lhzu (fieldBits 5 w 6 10) (fieldBits 5 w 11 15) (fieldBits 16 w 16 31))
  else if field w 0 5 = 42 then .ok (.lha (fieldBits 5 w 6 10) (fieldBits 5 w 11 15) (fieldBits 16 w 16 31))
  else if field w 0 5 = 43 then .ok (.lhau (fieldBits 5 w 6 10) (fieldBits 5 w 11 15) (fieldBits 16 w 16 31))
  else if field w 0 5 = 44 then .ok (.sth (fieldBits 5 w 6 10) (fieldBits 5 w 11 15) (fieldBits 16 w 16 31))
  else if field w 0 5 = 45 then .ok (.sthu (fieldBits 5 w 6 10) (fieldBits 5 w 11 15) (fieldBits 16 w 16 31))
  else if field w 0 5 = 46 then .ok (.lmw (fieldBits 5 w 6 10) (fieldBits 5 w 11 15) (fieldBits 16 w 16 31))
  else if field w 0 5 = 47 then .ok (.stmw (fieldBits 5 w 6 10) (fieldBits 5 w 11 15) (fieldBits 16 w 16 31))
  else if field w 0 5 = 48 then .ok (.lfs (fieldBits 5 w 6 10) (fieldBits 5 w 11 15) (fieldBits 16 w 16 31))
  else if field w 0 5 = 49 then .ok (.lfsu (fieldBits 5 w 6 10) (fieldBits 5 w 11 15) (fieldBits 16 w 16 31))
  else if field w 0 5 = 50 then .ok (.lfd (fieldBits 5 w 6 10) (fieldBits 5 w 11 15) (fieldBits 16 w 16 31))
  else if field w 0 5 = 51 then .ok (.lfdu (fieldBits 5 w 6 10) (fieldBits 5 w 11 15) (fieldBits 16 w 16 31))
  else if field w 0 5 = 52 then .ok (.stfs (fieldBits 5 w 6 10) (fieldBits 5 w 11 15) (fieldBits 16 w 16 31))
  else if field w 0 5 = 53 then .ok (.stfsu (fieldBits 5 w 6 10) (fieldBits 5 w 11 15) (fieldBits 16 w 16 31))
  else if field w 0 5 = 54 then .ok (.stfd (fieldBits 5 w 6 10) (fieldBits 5 w 11 15) (fieldBits 16 w 16 31))
  else if field w 0 5 = 55 then .ok (.stfdu (fieldBits 5 w 6 10) (fieldBits 5 w 11 15) (fieldBits 16 w 16 31))
  else if field w 0 5 = 58 then decodeOp58 w
  else if field w 0 5 = 59 then decodeOp59 w
  else if field w 0 5 = 62 then decodeOp62 w
  else if field w 0 5 = 63 then decodeOp63 w
  else .illegal

/-- Decoding of an instruction word. -/
def decode (w : BitVec 32) : Decoded := decodeNat w.toNat

/-- The word of an instruction, as a number: the row's fixed bits and each operand at its place; reserved bits are 0. -/
def encodeNat (i : Instr) : Nat :=
  match i with
  | .addx rd ra rb oe rc => 0x7C000214 + rd.toNat * 2097152 + ra.toNat * 65536 + rb.toNat * 2048 + oe.toNat * 1024 + rc.toNat
  | .addcx rd ra rb oe rc => 0x7C000014 + rd.toNat * 2097152 + ra.toNat * 65536 + rb.toNat * 2048 + oe.toNat * 1024 + rc.toNat
  | .addex rd ra rb oe rc => 0x7C000114 + rd.toNat * 2097152 + ra.toNat * 65536 + rb.toNat * 2048 + oe.toNat * 1024 + rc.toNat
  | .addi rd ra simm => 0x38000000 + rd.toNat * 2097152 + ra.toNat * 65536 + simm.toNat
  | .addic rd ra simm => 0x30000000 + rd.toNat * 2097152 + ra.toNat * 65536 + simm.toNat
  | .addicDot rd ra simm => 0x34000000 + rd.toNat * 2097152 + ra.toNat * 65536 + simm.toNat
  | .addis rd ra simm => 0x3C000000 + rd.toNat * 2097152 + ra.toNat * 65536 + simm.toNat
  | .addmex rd ra oe rc => 0x7C0001D4 + rd.toNat * 2097152 + ra.toNat * 65536 + oe.toNat * 1024 + rc.toNat
  | .addzex rd ra oe rc => 0x7C000194 + rd.toNat * 2097152 + ra.toNat * 65536 + oe.toNat * 1024 + rc.toNat
  | .subfx rd ra rb oe rc => 0x7C000050 + rd.toNat * 2097152 + ra.toNat * 65536 + rb.toNat * 2048 + oe.toNat * 1024 + rc.toNat
  | .subfcx rd ra rb oe rc => 0x7C000010 + rd.toNat * 2097152 + ra.toNat * 65536 + rb.toNat * 2048 + oe.toNat * 1024 + rc.toNat
  | .subfex rd ra rb oe rc => 0x7C000110 + rd.toNat * 2097152 + ra.toNat * 65536 + rb.toNat * 2048 + oe.toNat * 1024 + rc.toNat
  | .subfic rd ra simm => 0x20000000 + rd.toNat * 2097152 + ra.toNat * 65536 + simm.toNat
  | .subfmex rd ra oe rc => 0x7C0001D0 + rd.toNat * 2097152 + ra.toNat * 65536 + oe.toNat * 1024 + rc.toNat
  | .subfzex rd ra oe rc => 0x7C000190 + rd.toNat * 2097152 + ra.toNat * 65536 + oe.toNat * 1024 + rc.toNat
  | .negx rd ra oe rc => 0x7C0000D0 + rd.toNat * 2097152 + ra.toNat * 65536 + oe.toNat * 1024 + rc.toNat
  | .mulli rd ra simm => 0x1C000000 + rd.toNat * 2097152 + ra.toNat * 65536 + simm.toNat
  | .mullwx rd ra rb oe rc => 0x7C0001D6 + rd.toNat * 2097152 + ra.toNat * 65536 + rb.toNat * 2048 + oe.toNat * 1024 + rc.toNat
  | .mulhwx rd ra rb rc => 0x7C000096 + rd.toNat * 2097152 + ra.toNat * 65536 + rb.toNat * 2048 + rc.toNat
  | .mulhwux rd ra rb rc => 0x7C000016 + rd.toNat * 2097152 + ra.toNat * 65536 + rb.toNat * 2048 + rc.toNat
  | .mulldx rd ra rb oe rc => 0x7C0001D2 + rd.toNat * 2097152 + ra.toNat * 65536 + rb.toNat * 2048 + oe.toNat * 1024 + rc.toNat
  | .mulhdx rd ra rb rc => 0x7C000092 + rd.toNat * 2097152 + ra.toNat * 65536 + rb.toNat * 2048 + rc.toNat
  | .mulhdux rd ra rb rc => 0x7C000012 + rd.toNat * 2097152 + ra.toNat * 65536 + rb.toNat * 2048 + rc.toNat
  | .divwx rd ra rb oe rc => 0x7C0003D6 + rd.toNat * 2097152 + ra.toNat * 65536 + rb.toNat * 2048 + oe.toNat * 1024 + rc.toNat
  | .divwux rd ra rb oe rc => 0x7C000396 + rd.toNat * 2097152 + ra.toNat * 65536 + rb.toNat * 2048 + oe.toNat * 1024 + rc.toNat
  | .divdx rd ra rb oe rc => 0x7C0003D2 + rd.toNat * 2097152 + ra.toNat * 65536 + rb.toNat * 2048 + oe.toNat * 1024 + rc.toNat
  | .divdux rd ra rb oe rc => 0x7C000392 + rd.toNat * 2097152 + ra.toNat * 65536 + rb.toNat * 2048 + oe.toNat * 1024 + rc.toNat
  | .cmpi crfd l ra simm => 0x2C000000 + crfd.toNat * 8388608 + l.toNat * 2097152 + ra.toNat * 65536 + simm.toNat
  | .cmp crfd l ra rb => 0x7C000000 + crfd.toNat * 8388608 + l.toNat * 2097152 + ra.toNat * 65536 + rb.toNat * 2048
  | .cmpli crfd l ra uimm => 0x28000000 + crfd.toNat * 8388608 + l.toNat * 2097152 + ra.toNat * 65536 + uimm.toNat
  | .cmpl crfd l ra rb => 0x7C000040 + crfd.toNat * 8388608 + l.toNat * 2097152 + ra.toNat * 65536 + rb.toNat * 2048
  | .andiDot rs ra uimm => 0x70000000 + rs.toNat * 2097152 + ra.toNat * 65536 + uimm.toNat
  | .andisDot rs ra uimm => 0x74000000 + rs.toNat * 2097152 + ra.toNat * 65536 + uimm.toNat
  | .ori rs ra uimm => 0x60000000 + rs.toNat * 2097152 + ra.toNat * 65536 + uimm.toNat
  | .oris rs ra uimm => 0x64000000 + rs.toNat * 2097152 + ra.toNat * 65536 + uimm.toNat
  | .xori rs ra uimm => 0x68000000 + rs.toNat * 2097152 + ra.toNat * 65536 + uimm.toNat
  | .xoris rs ra uimm => 0x6C000000 + rs.toNat * 2097152 + ra.toNat * 65536 + uimm.toNat
  | .andx rs ra rb rc => 0x7C000038 + rs.toNat * 2097152 + ra.toNat * 65536 + rb.toNat * 2048 + rc.toNat
  | .orx rs ra rb rc => 0x7C000378 + rs.toNat * 2097152 + ra.toNat * 65536 + rb.toNat * 2048 + rc.toNat
  | .xorx rs ra rb rc => 0x7C000278 + rs.toNat * 2097152 + ra.toNat * 65536 + rb.toNat * 2048 + rc.toNat
  | .nandx rs ra rb rc => 0x7C0003B8 + rs.toNat * 2097152 + ra.toNat * 65536 + rb.toNat * 2048 + rc.toNat
  | .norx rs ra rb rc => 0x7C0000F8 + rs.toNat * 2097152 + ra.toNat * 65536 + rb.toNat * 2048 + rc.toNat
  | .eqvx rs ra rb rc => 0x7C000238 + rs.toNat * 2097152 + ra.toNat * 65536 + rb.toNat * 2048 + rc.toNat
  | .andcx rs ra rb rc => 0x7C000078 + rs.toNat * 2097152 + ra.toNat * 65536 + rb.toNat * 2048 + rc.toNat
  | .orcx rs ra rb rc => 0x7C000338 + rs.toNat * 2097152 + ra.toNat * 65536 + rb.toNat * 2048 + rc.toNat
  | .extsbx rs ra rc => 0x7C000774 + rs.toNat * 2097152 + ra.toNat * 65536 + rc.toNat
  | .extshx rs ra rc => 0x7C000734 + rs.toNat * 2097152 + ra.toNat * 65536 + rc.toNat
  | .extswx rs ra rc => 0x7C0007B4 + rs.toNat * 2097152 + ra.toNat * 65536 + rc.toNat
  | .cntlzwx rs ra rc => 0x7C000034 + rs.toNat * 2097152 + ra.toNat * 65536 + rc.toNat
  | .cntlzdx rs ra rc => 0x7C000074 + rs.toNat * 2097152 + ra.toNat * 65536 + rc.toNat
  | .rlwinmx rs ra sh mb me rc => 0x54000000 + rs.toNat * 2097152 + ra.toNat * 65536 + sh.toNat * 2048 + mb.toNat * 64 + me.toNat * 2 + rc.toNat
  | .rlwnmx rs ra rb mb me rc => 0x5C000000 + rs.toNat * 2097152 + ra.toNat * 65536 + rb.toNat * 2048 + mb.toNat * 64 + me.toNat * 2 + rc.toNat
  | .rlwimix rs ra sh mb me rc => 0x50000000 + rs.toNat * 2097152 + ra.toNat * 65536 + sh.toNat * 2048 + mb.toNat * 64 + me.toNat * 2 + rc.toNat
  | .rldiclx rs ra sh mb rc => 0x78000000 + rs.toNat * 2097152 + ra.toNat * 65536 + sh.toNat % 32 * 2048 + sh.toNat / 32 * 2 + mb.toNat % 32 * 64 + mb.toNat / 32 * 32 + rc.toNat
  | .rldicrx rs ra sh me rc => 0x78000004 + rs.toNat * 2097152 + ra.toNat * 65536 + sh.toNat % 32 * 2048 + sh.toNat / 32 * 2 + me.toNat % 32 * 64 + me.toNat / 32 * 32 + rc.toNat
  | .rldicx rs ra sh mb rc => 0x78000008 + rs.toNat * 2097152 + ra.toNat * 65536 + sh.toNat % 32 * 2048 + sh.toNat / 32 * 2 + mb.toNat % 32 * 64 + mb.toNat / 32 * 32 + rc.toNat
  | .rldimix rs ra sh mb rc => 0x7800000C + rs.toNat * 2097152 + ra.toNat * 65536 + sh.toNat % 32 * 2048 + sh.toNat / 32 * 2 + mb.toNat % 32 * 64 + mb.toNat / 32 * 32 + rc.toNat
  | .rldclx rs ra rb mb rc => 0x78000010 + rs.toNat * 2097152 + ra.toNat * 65536 + rb.toNat * 2048 + mb.toNat % 32 * 64 + mb.toNat / 32 * 32 + rc.toNat
  | .rldcrx rs ra rb me rc => 0x78000012 + rs.toNat * 2097152 + ra.toNat * 65536 + rb.toNat * 2048 + me.toNat % 32 * 64 + me.toNat / 32 * 32 + rc.toNat
  | .slwx rs ra rb rc => 0x7C000030 + rs.toNat * 2097152 + ra.toNat * 65536 + rb.toNat * 2048 + rc.toNat
  | .srwx rs ra rb rc => 0x7C000430 + rs.toNat * 2097152 + ra.toNat * 65536 + rb.toNat * 2048 + rc.toNat
  | .srawx rs ra rb rc => 0x7C000630 + rs.toNat * 2097152 + ra.toNat * 65536 + rb.toNat * 2048 + rc.toNat
  | .srawix rs ra sh rc => 0x7C000670 + rs.toNat * 2097152 + ra.toNat * 65536 + sh.toNat * 2048 + rc.toNat
  | .sldx rs ra rb rc => 0x7C000036 + rs.toNat * 2097152 + ra.toNat * 65536 + rb.toNat * 2048 + rc.toNat
  | .srdx rs ra rb rc => 0x7C000436 + rs.toNat * 2097152 + ra.toNat * 65536 + rb.toNat * 2048 + rc.toNat
  | .sradx rs ra rb rc => 0x7C000634 + rs.toNat * 2097152 + ra.toNat * 65536 + rb.toNat * 2048 + rc.toNat
  | .sradix rs ra sh rc => 0x7C000674 + rs.toNat * 2097152 + ra.toNat * 65536 + sh.toNat % 32 * 2048 + sh.toNat / 32 * 2 + rc.toNat
  | .faddx frd fra frb rc => 0xFC00002A + frd.toNat * 2097152 + fra.toNat * 65536 + frb.toNat * 2048 + rc.toNat
  | .faddsx frd fra frb rc => 0xEC00002A + frd.toNat * 2097152 + fra.toNat * 65536 + frb.toNat * 2048 + rc.toNat
  | .fsubx frd fra frb rc => 0xFC000028 + frd.toNat * 2097152 + fra.toNat * 65536 + frb.toNat * 2048 + rc.toNat
  | .fsubsx frd fra frb rc => 0xEC000028 + frd.toNat * 2097152 + fra.toNat * 65536 + frb.toNat * 2048 + rc.toNat
  | .fmulx frd fra frc rc => 0xFC000032 + frd.toNat * 2097152 + fra.toNat * 65536 + frc.toNat * 64 + rc.toNat
  | .fmulsx frd fra frc rc => 0xEC000032 + frd.toNat * 2097152 + fra.toNat * 65536 + frc.toNat * 64 + rc.toNat
  | .fdivx frd fra frb rc => 0xFC000024 + frd.toNat * 2097152 + fra.toNat * 65536 + frb.toNat * 2048 + rc.toNat
  | .fdivsx frd fra frb rc => 0xEC000024 + frd.toNat * 2097152 + fra.toNat * 65536 + frb.toNat * 2048 + rc.toNat
  | .fsqrtx frd frb rc => 0xFC00002C + frd.toNat * 2097152 + frb.toNat * 2048 + rc.toNat
  | .fsqrtsx frd frb rc => 0xEC00002C + frd.toNat * 2097152 + frb.toNat * 2048 + rc.toNat
  | .fresx frd frb rc => 0xEC000030 + frd.toNat * 2097152 + frb.toNat * 2048 + rc.toNat
  | .frsqrtex frd frb rc => 0xFC000034 + frd.toNat * 2097152 + frb.toNat * 2048 + rc.toNat
  | .fselx frd fra frb frc rc => 0xFC00002E + frd.toNat * 2097152 + fra.toNat * 65536 + frb.toNat * 2048 + frc.toNat * 64 + rc.toNat
  | .fmaddx frd fra frb frc rc => 0xFC00003A + frd.toNat * 2097152 + fra.toNat * 65536 + frb.toNat * 2048 + frc.toNat * 64 + rc.toNat
  | .fmaddsx frd fra frb frc rc => 0xEC00003A + frd.toNat * 2097152 + fra.toNat * 65536 + frb.toNat * 2048 + frc.toNat * 64 + rc.toNat
  | .fmsubx frd fra frb frc rc => 0xFC000038 + frd.toNat * 2097152 + fra.toNat * 65536 + frb.toNat * 2048 + frc.toNat * 64 + rc.toNat
  | .fmsubsx frd fra frb frc rc => 0xEC000038 + frd.toNat * 2097152 + fra.toNat * 65536 + frb.toNat * 2048 + frc.toNat * 64 + rc.toNat
  | .fnmaddx frd fra frb frc rc => 0xFC00003E + frd.toNat * 2097152 + fra.toNat * 65536 + frb.toNat * 2048 + frc.toNat * 64 + rc.toNat
  | .fnmaddsx frd fra frb frc rc => 0xEC00003E + frd.toNat * 2097152 + fra.toNat * 65536 + frb.toNat * 2048 + frc.toNat * 64 + rc.toNat
  | .fnmsubx frd fra frb frc rc => 0xFC00003C + frd.toNat * 2097152 + fra.toNat * 65536 + frb.toNat * 2048 + frc.toNat * 64 + rc.toNat
  | .fnmsubsx frd fra frb frc rc => 0xEC00003C + frd.toNat * 2097152 + fra.toNat * 65536 + frb.toNat * 2048 + frc.toNat * 64 + rc.toNat
  | .fmrx frd frb rc => 0xFC000090 + frd.toNat * 2097152 + frb.toNat * 2048 + rc.toNat
  | .fnegx frd frb rc => 0xFC000050 + frd.toNat * 2097152 + frb.toNat * 2048 + rc.toNat
  | .fabsx frd frb rc => 0xFC000210 + frd.toNat * 2097152 + frb.toNat * 2048 + rc.toNat
  | .fnabsx frd frb rc => 0xFC000110 + frd.toNat * 2097152 + frb.toNat * 2048 + rc.toNat
  | .frspx frd frb rc => 0xFC000018 + frd.toNat * 2097152 + frb.toNat * 2048 + rc.toNat
  | .fctiwx frd frb rc => 0xFC00001C + frd.toNat * 2097152 + frb.toNat * 2048 + rc.toNat
  | .fctiwzx frd frb rc => 0xFC00001E + frd.toNat * 2097152 + frb.toNat * 2048 + rc.toNat
  | .fctidx frd frb rc => 0xFC00065C + frd.toNat * 2097152 + frb.toNat * 2048 + rc.toNat
  | .fctidzx frd frb rc => 0xFC00065E + frd.toNat * 2097152 + frb.toNat * 2048 + rc.toNat
  | .fcfidx frd frb rc => 0xFC00069C + frd.toNat * 2097152 + frb.toNat * 2048 + rc.toNat
  | .fcmpu crfd fra frb => 0xFC000000 + crfd.toNat * 8388608 + fra.toNat * 65536 + frb.toNat * 2048
  | .fcmpo crfd fra frb => 0xFC000040 + crfd.toNat * 8388608 + fra.toNat * 65536 + frb.toNat * 2048
  | .mffsx frd rc => 0xFC00048E + frd.toNat * 2097152 + rc.toNat
  | .mcrfs crfd crfs => 0xFC000080 + crfd.toNat * 8388608 + crfs.toNat * 262144
  | .mtfsfx fm frb rc => 0xFC00058E + fm.toNat * 131072 + frb.toNat * 2048 + rc.toNat
  | .mtfsfix crfd imm rc => 0xFC00010C + crfd.toNat * 8388608 + imm.toNat * 4096 + rc.toNat
  | .mtfsb0x crbd rc => 0xFC00008C + crbd.toNat * 2097152 + rc.toNat
  | .mtfsb1x crbd rc => 0xFC00004C + crbd.toNat * 2097152 + rc.toNat
  | .lbz rd ra d => 0x88000000 + rd.toNat * 2097152 + ra.toNat * 65536 + d.toNat
  | .lbzu rd ra d => 0x8C000000 + rd.toNat * 2097152 + ra.toNat * 65536 + d.toNat
  | .lbzx rd ra rb => 0x7C0000AE + rd.toNat * 2097152 + ra.toNat * 65536 + rb.toNat * 2048
  | .lbzux rd ra rb => 0x7C0000EE + rd.toNat * 2097152 + ra.toNat * 65536 + rb.toNat * 2048
  | .lhz rd ra d => 0xA0000000 + rd.toNat * 2097152 + ra.toNat * 65536 + d.toNat
  | .lhzu rd ra d => 0xA4000000 + rd.toNat * 2097152 + ra.toNat * 65536 + d.toNat
  | .lhzx rd ra rb => 0x7C00022E + rd.toNat * 2097152 + ra.toNat * 65536 + rb.toNat * 2048
  | .lhzux rd ra rb => 0x7C00026E + rd.toNat * 2097152 + ra.toNat * 65536 + rb.toNat * 2048
  | .lha rd ra d => 0xA8000000 + rd.toNat * 2097152 + ra.toNat * 65536 + d.toNat
  | .lhau rd ra d => 0xAC000000 + rd.toNat * 2097152 + ra.toNat * 65536 + d.toNat
  | .lhax rd ra rb => 0x7C0002AE + rd.toNat * 2097152 + ra.toNat * 65536 + rb.toNat * 2048
  | .lhaux rd ra rb => 0x7C0002EE + rd.toNat * 2097152 + ra.toNat * 65536 + rb.toNat * 2048
  | .lwz rd ra d => 0x80000000 + rd.toNat * 2097152 + ra.toNat * 65536 + d.toNat
  | .lwzu rd ra d => 0x84000000 + rd.toNat * 2097152 + ra.toNat * 65536 + d.toNat
  | .lwzx rd ra rb => 0x7C00002E + rd.toNat * 2097152 + ra.toNat * 65536 + rb.toNat * 2048
  | .lwzux rd ra rb => 0x7C00006E + rd.toNat * 2097152 + ra.toNat * 65536 + rb.toNat * 2048
  | .lwa rd ra ds => 0xE8000002 + rd.toNat * 2097152 + ra.toNat * 65536 + ds.toNat * 4
  | .lwax rd ra rb => 0x7C0002AA + rd.toNat * 2097152 + ra.toNat * 65536 + rb.toNat * 2048
  | .lwaux rd ra rb => 0x7C0002EA + rd.toNat * 2097152 + ra.toNat * 65536 + rb.toNat * 2048
  | .ld rd ra ds => 0xE8000000 + rd.toNat * 2097152 + ra.toNat * 65536 + ds.toNat * 4
  | .ldu rd ra ds => 0xE8000001 + rd.toNat * 2097152 + ra.toNat * 65536 + ds.toNat * 4
  | .ldx rd ra rb => 0x7C00002A + rd.toNat * 2097152 + ra.toNat * 65536 + rb.toNat * 2048
  | .ldux rd ra rb => 0x7C00006A + rd.toNat * 2097152 + ra.toNat * 65536 + rb.toNat * 2048
  | .stb rs ra d => 0x98000000 + rs.toNat * 2097152 + ra.toNat * 65536 + d.toNat
  | .stbu rs ra d => 0x9C000000 + rs.toNat * 2097152 + ra.toNat * 65536 + d.toNat
  | .stbx rs ra rb => 0x7C0001AE + rs.toNat * 2097152 + ra.toNat * 65536 + rb.toNat * 2048
  | .stbux rs ra rb => 0x7C0001EE + rs.toNat * 2097152 + ra.toNat * 65536 + rb.toNat * 2048
  | .sth rs ra d => 0xB0000000 + rs.toNat * 2097152 + ra.toNat * 65536 + d.toNat
  | .sthu rs ra d => 0xB4000000 + rs.toNat * 2097152 + ra.toNat * 65536 + d.toNat
  | .sthx rs ra rb => 0x7C00032E + rs.toNat * 2097152 + ra.toNat * 65536 + rb.toNat * 2048
  | .sthux rs ra rb => 0x7C00036E + rs.toNat * 2097152 + ra.toNat * 65536 + rb.toNat * 2048
  | .stw rs ra d => 0x90000000 + rs.toNat * 2097152 + ra.toNat * 65536 + d.toNat
  | .stwu rs ra d => 0x94000000 + rs.toNat * 2097152 + ra.toNat * 65536 + d.toNat
  | .stwx rs ra rb => 0x7C00012E + rs.toNat * 2097152 + ra.toNat * 65536 + rb.toNat * 2048
  | .stwux rs ra rb => 0x7C00016E + rs.toNat * 2097152 + ra.toNat * 65536 + rb.toNat * 2048
  | .std rs ra ds => 0xF8000000 + rs.toNat * 2097152 + ra.toNat * 65536 + ds.toNat * 4
  | .stdu rs ra ds => 0xF8000001 + rs.toNat * 2097152 + ra.toNat * 65536 + ds.toNat * 4
  | .stdx rs ra rb => 0x7C00012A + rs.toNat * 2097152 + ra.toNat * 65536 + rb.toNat * 2048
  | .stdux rs ra rb => 0x7C00016A + rs.toNat * 2097152 + ra.toNat * 65536 + rb.toNat * 2048
  | .lhbrx rd ra rb => 0x7C00062C + rd.toNat * 2097152 + ra.toNat * 65536 + rb.toNat * 2048
  | .lwbrx rd ra rb => 0x7C00042C + rd.toNat * 2097152 + ra.toNat * 65536 + rb.toNat * 2048
  | .sthbrx rs ra rb => 0x7C00072C + rs.toNat * 2097152 + ra.toNat * 65536 + rb.toNat * 2048
  | .stwbrx rs ra rb => 0x7C00052C + rs.toNat * 2097152 + ra.toNat * 65536 + rb.toNat * 2048
  | .lmw rd ra d => 0xB8000000 + rd.toNat * 2097152 + ra.toNat * 65536 + d.toNat
  | .stmw rs ra d => 0xBC000000 + rs.toNat * 2097152 + ra.toNat * 65536 + d.toNat
  | .lswi rd ra nb => 0x7C0004AA + rd.toNat * 2097152 + ra.toNat * 65536 + nb.toNat * 2048
  | .lswx rd ra rb => 0x7C00042A + rd.toNat * 2097152 + ra.toNat * 65536 + rb.toNat * 2048
  | .stswi rs ra nb => 0x7C0005AA + rs.toNat * 2097152 + ra.toNat * 65536 + nb.toNat * 2048
  | .stswx rs ra rb => 0x7C00052A + rs.toNat * 2097152 + ra.toNat * 65536 + rb.toNat * 2048
  | .lfs frd ra d => 0xC0000000 + frd.toNat * 2097152 + ra.toNat * 65536 + d.toNat
  | .lfsu frd ra d => 0xC4000000 + frd.toNat * 2097152 + ra.toNat * 65536 + d.toNat
  | .lfsx frd ra rb => 0x7C00042E + frd.toNat * 2097152 + ra.toNat * 65536 + rb.toNat * 2048
  | .lfsux frd ra rb => 0x7C00046E + frd.toNat * 2097152 + ra.toNat * 65536 + rb.toNat * 2048
  | .lfd frd ra d => 0xC8000000 + frd.toNat * 2097152 + ra.toNat * 65536 + d.toNat
  | .lfdu frd ra d => 0xCC000000 + frd.toNat * 2097152 + ra.toNat * 65536 + d.toNat
  | .lfdx frd ra rb => 0x7C0004AE + frd.toNat * 2097152 + ra.toNat * 65536 + rb.toNat * 2048
  | .lfdux frd ra rb => 0x7C0004EE + frd.toNat * 2097152 + ra.toNat * 65536 + rb.toNat * 2048
  | .stfs frs ra d => 0xD0000000 + frs.toNat * 2097152 + ra.toNat * 65536 + d.toNat
  | .stfsu frs ra d => 0xD4000000 + frs.toNat * 2097152 + ra.toNat * 65536 + d.toNat
  | .stfsx frs ra rb => 0x7C00052E + frs.toNat * 2097152 + ra.toNat * 65536 + rb.toNat * 2048
  | .stfsux frs ra rb => 0x7C00056E + frs.toNat * 2097152 + ra.toNat * 65536 + rb.toNat * 2048
  | .stfd frs ra d => 0xD8000000 + frs.toNat * 2097152 + ra.toNat * 65536 + d.toNat
  | .stfdu frs ra d => 0xDC000000 + frs.toNat * 2097152 + ra.toNat * 65536 + d.toNat
  | .stfdx frs ra rb => 0x7C0005AE + frs.toNat * 2097152 + ra.toNat * 65536 + rb.toNat * 2048
  | .stfdux frs ra rb => 0x7C0005EE + frs.toNat * 2097152 + ra.toNat * 65536 + rb.toNat * 2048
  | .stfiwx frs ra rb => 0x7C0007AE + frs.toNat * 2097152 + ra.toNat * 65536 + rb.toNat * 2048
  | .bx li aa lk => 0x48000000 + li.toNat * 4 + aa.toNat * 2 + lk.toNat
  | .bcx bo bi bd aa lk => 0x40000000 + bo.toNat * 2097152 + bi.toNat * 65536 + bd.toNat * 4 + aa.toNat * 2 + lk.toNat
  | .bclrx bo bi lk => 0x4C000020 + bo.toNat * 2097152 + bi.toNat * 65536 + lk.toNat
  | .bcctrx bo bi lk => 0x4C000420 + bo.toNat * 2097152 + bi.toNat * 65536 + lk.toNat
  | .crand crbd crba crbb => 0x4C000202 + crbd.toNat * 2097152 + crba.toNat * 65536 + crbb.toNat * 2048
  | .cror crbd crba crbb => 0x4C000382 + crbd.toNat * 2097152 + crba.toNat * 65536 + crbb.toNat * 2048
  | .crxor crbd crba crbb => 0x4C000182 + crbd.toNat * 2097152 + crba.toNat * 65536 + crbb.toNat * 2048
  | .crnand crbd crba crbb => 0x4C0001C2 + crbd.toNat * 2097152 + crba.toNat * 65536 + crbb.toNat * 2048
  | .crnor crbd crba crbb => 0x4C000042 + crbd.toNat * 2097152 + crba.toNat * 65536 + crbb.toNat * 2048
  | .creqv crbd crba crbb => 0x4C000242 + crbd.toNat * 2097152 + crba.toNat * 65536 + crbb.toNat * 2048
  | .crandc crbd crba crbb => 0x4C000102 + crbd.toNat * 2097152 + crba.toNat * 65536 + crbb.toNat * 2048
  | .crorc crbd crba crbb => 0x4C000342 + crbd.toNat * 2097152 + crba.toNat * 65536 + crbb.toNat * 2048
  | .mcrf crfd crfs => 0x4C000000 + crfd.toNat * 8388608 + crfs.toNat * 262144
  | .sc => 0x44000002
  | .rfi => 0x4C000064
  | .rfid => 0x4C000024
  | .tw tof ra rb => 0x7C000008 + tof.toNat * 2097152 + ra.toNat * 65536 + rb.toNat * 2048
  | .twi tof ra simm => 0xC000000 + tof.toNat * 2097152 + ra.toNat * 65536 + simm.toNat
  | .td tof ra rb => 0x7C000088 + tof.toNat * 2097152 + ra.toNat * 65536 + rb.toNat * 2048
  | .tdi tof ra simm => 0x8000000 + tof.toNat * 2097152 + ra.toNat * 65536 + simm.toNat
  | .mfcr rd => 0x7C000026 + rd.toNat * 2097152
  | .mtcrf rs crm => 0x7C000120 + rs.toNat * 2097152 + crm.toNat * 4096
  | .mcrxr crfd => 0x7C000400 + crfd.toNat * 8388608
  | .mfmsr rd => 0x7C0000A6 + rd.toNat * 2097152
  | .mtmsr rs => 0x7C000124 + rs.toNat * 2097152
  | .mtmsrd rs => 0x7C000164 + rs.toNat * 2097152
  | .mfspr rd spr => 0x7C0002A6 + rd.toNat * 2097152 + spr.toNat % 32 * 65536 + spr.toNat / 32 * 2048
  | .mtspr rs spr => 0x7C0003A6 + rs.toNat * 2097152 + spr.toNat % 32 * 65536 + spr.toNat / 32 * 2048
  | .mftb rd tbr => 0x7C0002E6 + rd.toNat * 2097152 + tbr.toNat % 32 * 65536 + tbr.toNat / 32 * 2048
  | .sync => 0x7C0004AC
  | .isync => 0x4C00012C
  | .eieio => 0x7C0006AC
  | .lwarx rd ra rb => 0x7C000028 + rd.toNat * 2097152 + ra.toNat * 65536 + rb.toNat * 2048
  | .ldarx rd ra rb => 0x7C0000A8 + rd.toNat * 2097152 + ra.toNat * 65536 + rb.toNat * 2048
  | .stwcxDot rs ra rb => 0x7C00012D + rs.toNat * 2097152 + ra.toNat * 65536 + rb.toNat * 2048
  | .stdcxDot rs ra rb => 0x7C0001AD + rs.toNat * 2097152 + ra.toNat * 65536 + rb.toNat * 2048
  | .dcbt ra rb => 0x7C00022C + ra.toNat * 65536 + rb.toNat * 2048
  | .dcbtst ra rb => 0x7C0001EC + ra.toNat * 65536 + rb.toNat * 2048
  | .dcbst ra rb => 0x7C00006C + ra.toNat * 65536 + rb.toNat * 2048
  | .dcbf ra rb => 0x7C0000AC + ra.toNat * 65536 + rb.toNat * 2048
  | .dcbi ra rb => 0x7C0003AC + ra.toNat * 65536 + rb.toNat * 2048
  | .dcba ra rb => 0x7C0005EC + ra.toNat * 65536 + rb.toNat * 2048
  | .dcbz ra rb => 0x7C0007EC + ra.toNat * 65536 + rb.toNat * 2048
  | .icbi ra rb => 0x7C0007AC + ra.toNat * 65536 + rb.toNat * 2048
  | .eciwx rd ra rb => 0x7C00026C + rd.toNat * 2097152 + ra.toNat * 65536 + rb.toNat * 2048
  | .ecowx rs ra rb => 0x7C00036C + rs.toNat * 2097152 + ra.toNat * 65536 + rb.toNat * 2048
  | .mfsr rd sr => 0x7C0004A6 + rd.toNat * 2097152 + sr.toNat * 65536
  | .mfsrin rd rb => 0x7C000526 + rd.toNat * 2097152 + rb.toNat * 2048
  | .mtsr rs sr => 0x7C0001A4 + rs.toNat * 2097152 + sr.toNat * 65536
  | .mtsrin rs rb => 0x7C0001E4 + rs.toNat * 2097152 + rb.toNat * 2048
  | .mtsrd rs sr => 0x7C0000A4 + rs.toNat * 2097152 + sr.toNat * 65536
  | .mtsrdin rs rb => 0x7C0000E4 + rs.toNat * 2097152 + rb.toNat * 2048
  | .slbia => 0x7C0003E4
  | .slbie rb => 0x7C000364 + rb.toNat * 2048
  | .tlbia => 0x7C0002E4
  | .tlbie rb => 0x7C000264 + rb.toNat * 2048
  | .tlbsync => 0x7C00046C

/-- The word of an instruction. -/
def encode (i : Instr) : BitVec 32 := BitVec.ofNat 32 (encodeNat i)

/-- Big-endian assembly of a word from its four bytes, the first at the lowest address (20_memory R90). -/
def wordOfBytes (b0 b1 b2 b3 : BitVec 8) : BitVec 32 := b0 ++ b1 ++ b2 ++ b3

/-- The four bytes of a word, the byte of the lowest address first (20_memory R90). -/
def bytesOfWord (w : BitVec 32) : BitVec 8 × BitVec 8 × BitVec 8 × BitVec 8 :=
  (w.extractLsb' 24 8, w.extractLsb' 16 8, w.extractLsb' 8 8, w.extractLsb' 0 8)

/-- The instruction a word decodes to, `none` where decoding refuses it by name (reserved bits) or finds no row. -/
def Decoded.instr? (d : Decoded) : Option Instr :=
  match d with
  | .ok i => some i
  | .reserved _ => none
  | .illegal => none

/-- The instruction read from an instruction whose bits are `w` (bit 0 the least significant bit of the word; bits
from `nbits` up are 0): the word is laid out as four big-endian bytes and these are decoded. -/
def decodeTableWord (nbits w : Nat) : Option Instr :=
  let word : BitVec 32 := BitVec.ofNat 32 (w % 2 ^ nbits)
  let bytes := bytesOfWord word
  (decode (wordOfBytes bytes.1 bytes.2.1 bytes.2.2.1 bytes.2.2.2)).instr?

end Sys2Proof
end

