-- ==== Sys2Proof/Machine/Fetch.lean ====
section
/-!
DEFINITION. Fetching an instruction (60 R612; 70 R660, R661) and storing one where it is fetched.
-/

namespace Sys2Proof.Machine

/-- The answer in real addressing mode: the identity (20_memory R96). -/
def realXlate (ea : Dword) : Xlate :=
  { result := .frame (ea.extractLsb' 12 52) realAttributes, directStore := false, tlbFill := none, slbFill := none }

/-- What the translation state `v` answers for a fetch at `ea` in user mode or not. -/
def fetchXlate (v : MmuView) (user : Bool) (s : State) (ea : Dword) : Xlate :=
  if v.ir then Config.translate v s.mem .fetch user ea else realXlate ea

/-- The outcome of a fetch's translation: direct-store segments and, with MSR[IR] = 1, guarded memory are not executable
(60 R627). Where the translation fails its cause is the one reported, also in a direct-store segment (log 42, DESIGN CHOICE). -/
def fetchResult (v : MmuView) (user : Bool) (s : State) (ea : Dword) : XlateResult :=
  let x := fetchXlate v user s ea
  match x.result with
  | .fails c => .fails c
  | .frame f attributes =>
    if v.ir && (attributes.guarded || directStore v s.cfg.impl64 x ea) then .fails .noExecute else .frame f attributes

/-- A fetch at `ea` depends on an unsynchronized context change: it translates otherwise than before one of the changes, or its
address is another in the other computation mode (70 R660). -/
def State.staleFetch (s : State) (ea : Dword) : Bool :=
  s.stale.views.any (fun v => fetchResult v.mmu v.user s ea != fetchResult s.mmuView s.pr s ea) ||
    s.stale.sfCut || (s.stale.sf && high ea != 0)

/-- The cache blocks of the word at `pa`: one, or with blocks of one or two bytes those of each of its bytes (70 R661; log 40). -/
def State.blocksOfWord (s : State) (pa : Dword) : List Nat := (bytesFrom pa 4).map (fun a => s.blockOf a.toNat)

/-- The word at physical address `pa`, unless a block of it is stale (70 R661) or it has a byte that nothing has written. -/
def readInstruction (pa : Dword) (s : State) : Access Word :=
  if (s.blocksOfWord pa).any s.staleInsn.contains then .faults .staleInstruction
  else
    match s.mem.readAll (bytesFrom pa 4) with
    | .ok bytes => .ok (ofBytes 32 bytes) s
    | .error a => .faults (.unwrittenRead a)

/-- The fetch of the next instruction's word: ISI when its address does not translate (60 R612); such a fetch loads no entry of the
lookaside buffers (log 41, DESIGN CHOICE). -/
def fetch (s : State) : Access Word :=
  let ea := s.ea32 s.nia
  if s.staleFetch ea then .faults .staleTranslation
  else
    match fetchResult s.mmuView s.pr s ea with
    | .fails c => .raises (.isi c) s
    | .frame f _ => readInstruction (physical f ea) (s.fill (fetchXlate s.mmuView s.pr s ea))

/-- The physical address of the next fetch; the address itself where it does not translate. -/
def State.fetchAddress (s : State) : Dword :=
  let ea := s.ea32 s.nia
  match fetchResult s.mmuView s.pr s ea with
  | .fails _ => ea
  | .frame f _ => physical f ea

/-- The state with the word `w` placed from outside the machine at physical address `pa`: its bytes, and no stale mark on
its blocks. -/
def State.placeWord (s : State) (pa : Dword) (w : Word) : State :=
  let b := bytesOfWord w
  { s with
    mem := (((s.mem.write pa.toNat b.1).write (pa + 1).toNat b.2.1).write (pa + 2).toNat b.2.2.1).write (pa + 3).toNat b.2.2.2
    staleInsn := s.staleInsn.filter (fun n => !(s.blocksOfWord pa).contains n) }

end Sys2Proof.Machine
end

