-- ==== Sys2Proof/Machine/Step.lean ====
section
/-!
DEFINITION. One step of the machine: an instruction boundary (60 R615), and, when no exception is taken there, the fetch and
execution of one instruction.
-/

namespace Sys2Proof.Machine

/-- The word `w` is executed in state `s`: its instruction; or, for a word with reserved bits set, the exceptions that come
first and then the fault (60 R619); or the illegal instruction exception (30 R163). -/
def runWord (w : Word) (s : State) : Host.Outcome State Fault Refusal :=
  match decode w with
  | .ok i => afterInstr i s (exec i s)
  | .reserved i =>
    match preCheck i s with
    | some e => raise e s
    | none => .fault .reservedBitsNonZero
  | .illegal => raise (.program .illegal) s

/-- One step: the outside world acts, a pending exception is taken, or else one instruction is fetched and executed. -/
def step (s : State) : Host.Outcome State Fault Refusal :=
  if s.le then .refused .littleEndian
  else if s.pow then .refused .powerSave
  else
    match recognise s.environment with
    | some r => r
    | none => (fetch s.environment).finish runWord

/-- The state with the instruction whose bits are `w` stored where `step` fetches its next instruction. -/
def State.withFetchWord (s : State) (nbits w : Nat) : State :=
  s.placeWord s.fetchAddress (BitVec.ofNat 32 (w % 2 ^ nbits))

end Sys2Proof.Machine
end

