-- ==== Sys2Proof/Safety.lean ====
section
/-!
DEFINITION. The terms the statements use: safe runs, the invariant of the state, and what it means that an instruction has a
given effect and leaves everything else as it was.
-/

namespace Sys2Proof.Machine

/-! ## Runs and the invariant -/

/-- The step from `s` neither faults nor refuses. -/
def State.steps (s : State) : Prop := ∃ t, step s = .next t

/-- None of the first `k` steps from `s` faults or refuses. -/
def safeFor (k : Nat) (s : State) : Prop :=
  match k with
  | 0 => True
  | k + 1 => ∃ t, step s = .next t ∧ safeFor k t

/-- A register of width XLEN holds `v` on this implementation: bits 0 to 31 are 0 on a 32-bit one (00_scope R12). -/
def State.fits (s : State) (v : Dword) : Prop := s.cfg.impl64 = true ∨ high v = 0

/-- Every register of width XLEN holds a value of that width. -/
structure State.Narrow (s : State) : Prop where
  gpr : ∀ r, s.fits (s.getGpr r)
  lr : s.fits s.lr
  ctr : s.fits s.ctr
  msr : s.fits s.msr
  srr0 : s.fits s.srr0
  srr1 : s.fits s.srr1
  dar : s.fits s.dar
  sdr1 : s.fits s.sdr1
  asr : s.fits s.asr
  dabr : s.fits s.dabr
  sprg : ∀ k : Fin 4, s.fits (s.sprg.get k)
  ibat : ∀ k : Fin 8, s.fits (s.ibat.get k)
  dbat : ∀ k : Fin 8, s.fits (s.dbat.get k)

/-- The pc is a multiple of 4, and outside 64-bit mode its bits 0 to 31 are 0 (10_state R33). -/
def State.PcAligned (s : State) : Prop := s.nia.extractLsb' 0 2 = 0 ∧ (s.mode64 = true ∨ high s.nia = 0)

/-- The summary bits FEX and VX of the FPSCR agree with the others (10_state R45). -/
def State.FpscrSummarised (s : State) : Prop := fpscrSummary s.fpscr = s.fpscr

/-- The invariant. -/
structure State.Inv (s : State) : Prop where
  memory : s.mem.wf = true
  pc : s.PcAligned
  fpscr : s.FpscrSummarised
  narrow : s.Narrow

/-! ## Classes of instructions -/

/-- A floating-point instruction: one of the files 43, 44 and 46 (60 R609). -/
def isFloat (i : Instr) : Bool :=
  match i with
  | .faddx _ _ _ _ => true
  | .faddsx _ _ _ _ => true
  | .fsubx _ _ _ _ => true
  | .fsubsx _ _ _ _ => true
  | .fmulx _ _ _ _ => true
  | .fmulsx _ _ _ _ => true
  | .fdivx _ _ _ _ => true
  | .fdivsx _ _ _ _ => true
  | .fsqrtx _ _ _ => true
  | .fsqrtsx _ _ _ => true
  | .fresx _ _ _ => true
  | .frsqrtex _ _ _ => true
  | .fselx _ _ _ _ _ => true
  | .fmaddx _ _ _ _ _ => true
  | .fmaddsx _ _ _ _ _ => true
  | .fmsubx _ _ _ _ _ => true
  | .fmsubsx _ _ _ _ _ => true
  | .fnmaddx _ _ _ _ _ => true
  | .fnmaddsx _ _ _ _ _ => true
  | .fnmsubx _ _ _ _ _ => true
  | .fnmsubsx _ _ _ _ _ => true
  | .fmrx _ _ _ => true
  | .fnegx _ _ _ => true
  | .fabsx _ _ _ => true
  | .fnabsx _ _ _ => true
  | .frspx _ _ _ => true
  | .fctiwx _ _ _ => true
  | .fctiwzx _ _ _ => true
  | .fctidx _ _ _ => true
  | .fctidzx _ _ _ => true
  | .fcfidx _ _ _ => true
  | .fcmpu _ _ _ => true
  | .fcmpo _ _ _ => true
  | .mffsx _ _ => true
  | .mcrfs _ _ => true
  | .mtfsfx _ _ _ => true
  | .mtfsfix _ _ _ => true
  | .mtfsb0x _ _ => true
  | .mtfsb1x _ _ => true
  | .lfs _ _ _ => true
  | .lfsu _ _ _ => true
  | .lfsx _ _ _ => true
  | .lfsux _ _ _ => true
  | .lfd _ _ _ => true
  | .lfdu _ _ _ => true
  | .lfdx _ _ _ => true
  | .lfdux _ _ _ => true
  | .stfs _ _ _ => true
  | .stfsu _ _ _ => true
  | .stfsx _ _ _ => true
  | .stfsux _ _ _ => true
  | .stfd _ _ _ => true
  | .stfdu _ _ _ => true
  | .stfdx _ _ _ => true
  | .stfdux _ _ _ => true
  | .stfiwx _ _ _ => true
  | _ => false

/-- An instruction defined only for 64-bit implementations (30 R166); the optional `slbia` and `slbie`, and `mtsrd` and `mtsrdin` of the
bridge, stand in `optionHolds`. -/
def only64 (i : Instr) : Bool :=
  match i with
  | .mulldx _ _ _ _ _ => true
  | .mulhdx _ _ _ _ => true
  | .mulhdux _ _ _ _ => true
  | .divdx _ _ _ _ _ => true
  | .divdux _ _ _ _ _ => true
  | .extswx _ _ _ => true
  | .cntlzdx _ _ _ => true
  | .rldiclx _ _ _ _ _ => true
  | .rldicrx _ _ _ _ _ => true
  | .rldicx _ _ _ _ _ => true
  | .rldimix _ _ _ _ _ => true
  | .rldclx _ _ _ _ _ => true
  | .rldcrx _ _ _ _ _ => true
  | .sldx _ _ _ _ => true
  | .srdx _ _ _ _ => true
  | .sradx _ _ _ _ => true
  | .sradix _ _ _ _ => true
  | .fctidx _ _ _ => true
  | .fctidzx _ _ _ => true
  | .fcfidx _ _ _ => true
  | .lwa _ _ _ => true
  | .lwax _ _ _ => true
  | .lwaux _ _ _ => true
  | .ld _ _ _ => true
  | .ldu _ _ _ => true
  | .ldx _ _ _ => true
  | .ldux _ _ _ => true
  | .std _ _ _ => true
  | .stdu _ _ _ => true
  | .stdx _ _ _ => true
  | .stdux _ _ _ => true
  | .rfid => true
  | .td _ _ _ => true
  | .tdi _ _ _ => true
  | .mtmsrd _ => true
  | .ldarx _ _ _ => true
  | .stdcxDot _ _ _ => true
  | _ => false

/-- The condition on the implementation under which an optional instruction, or one of 32-bit implementations and the bridge,
exists (30 R166, R167; 60 R606). -/
def optionHolds (c : Config) (i : Instr) : Bool :=
  match i with
  | .fsqrtx _ _ _ => c.optFsqrt
  | .fsqrtsx _ _ _ => c.optFsqrt
  | .fresx _ _ _ => c.optFres
  | .frsqrtex _ _ _ => c.optFrsqrte
  | .fselx _ _ _ _ _ => c.optFsel
  | .stfiwx _ _ _ => c.optStfiwx
  | .rfi => !c.impl64 || c.bridgeMtmsrRfi
  | .mtmsr _ => !c.impl64 || c.bridgeMtmsrRfi
  | .dcba _ _ => c.optDcba
  | .eciwx _ _ _ => c.optExtctl
  | .ecowx _ _ _ => c.optExtctl
  | .mfsr _ _ => !c.impl64 || c.bridge
  | .mfsrin _ _ => !c.impl64 || c.bridge
  | .mtsr _ _ => !c.impl64 || c.bridge
  | .mtsrin _ _ => !c.impl64 || c.bridge
  | .mtsrd _ _ => c.impl64 && c.bridge && c.bridgeMtsrd
  | .mtsrdin _ _ => c.impl64 && c.bridge && c.bridgeMtsrd
  | .slbia => c.impl64 && c.optSlbia
  | .slbie _ => c.impl64 && c.optSlbie
  | .tlbia => c.optTlbia
  | .tlbie _ => c.optTlbie
  | .tlbsync => c.optTlbsync
  | _ => true

/-! ## Frames -/

/-- The address of the next instruction in sequence: `iea(CIA + 4)`. -/
def State.nextPc (s : State) : Dword := s.ea32 (s.nia + 4) &&& ~~~ 3

/-- Every byte of memory reads as before. -/
def sameMemory (s t : State) : Prop := ∀ a, t.mem.read a = s.mem.read a

/-- Every general register but those listed is unchanged. -/
def gprsKept (s t : State) (but : List (BitVec 5)) : Prop := ∀ q, q ∉ but → t.getGpr q = s.getGpr q

/-- Every floating-point register but those listed is unchanged. -/
def fprsKept (s t : State) (but : List (BitVec 5)) : Prop :=
  ∀ q, q ∉ but → t.getFpr q = s.getFpr q ∧ t.isSingle q = s.isSingle q

/-- Every CR field but those listed is unchanged. -/
def crKept (s t : State) (but : List (BitVec 3)) : Prop := ∀ f, f ∉ but → t.crField f = s.crField f

/-- Only general registers, CR, XER, the pc (now the next in sequence) and the draw counter may have changed. -/
def integerFrame (s t : State) : Prop :=
  t = { s with gpr := t.gpr, cr := t.cr, xer := t.xer, nia := s.nextPc, draws := t.draws } ∧ sameMemory s t

/-- Only floating-point registers, the FPSCR, CR, the pc (now the next in sequence) and the draw counter may have changed. -/
def floatFrame (s t : State) : Prop :=
  t = { s with fpr := t.fpr, fprSingle := t.fprSingle, fpscr := t.fpscr, cr := t.cr, nia := s.nextPc, draws := t.draws } ∧
    sameMemory s t

/-! ## Integer effects -/

/-- The width in bits that the computation mode gives results: 64 or 32 (00_scope R10). -/
def State.width (s : State) : Nat := if s.mode64 then 64 else 32

/-- A value as an unsigned number of that width. -/
def State.unsignedPart (s : State) (v : Dword) : Nat := v.toNat % 2 ^ s.width

/-- A value as a signed number of that width. -/
def State.signedPart (s : State) (v : Dword) : Int := if s.mode64 then v.toInt else (low v).toInt

/-- A number lies outside the signed range of `w` bits. -/
def outside (w : Nat) (i : Int) : Bool := decide (i < -(2 : Int) ^ (w - 1) ∨ (2 : Int) ^ (w - 1) ≤ i)

/-- LT, GT, EQ of two numbers and a copy of SO, as a CR field (10_state R34). -/
def orderOf (a b : Int) (so : Bool) : BitVec 4 := (if a < b then 8 else if b < a then 4 else 2) ||| (if so then 1 else 0)

/-- CA and OV become what is given, or stay; SO is set with OV and never cleared; the other XER bits stay (10_state R36, R37). -/
def xerEffect (s t : State) (ca ov : Option Bool) : Prop :=
  t.ca = ca.getD s.ca ∧ t.ov = ov.getD s.ov ∧ t.so = (s.so || ov.getD false) ∧ t.xer &&& 0x1FFFFFFF = s.xer &&& 0x1FFFFFFF

/-- CR0 compares `v` with 0 when `rc`, and stays otherwise; the other CR fields stay (10_state R35). -/
def cr0Effect (s t : State) (rc : Bool) (v : Dword) : Prop :=
  t.crField 0 = (if rc then orderOf (s.signedPart v) 0 t.so else s.crField 0) ∧ crKept s t [0]

/-- The instruction completes with `v` in rD, with CA, OV and CR0 as given, and changes nothing else. -/
def integerEffect (s : State) (rd : BitVec 5) (v : Dword) (ca ov : Option Bool) (rc : Bool) (r : Result) : Prop :=
  ∃ t, r = .next t ∧ integerFrame s t ∧ t.draws = s.draws ∧ t.getGpr rd = s.norm v ∧ gprsKept s t [rd] ∧
    xerEffect s t ca ov ∧ cr0Effect s t rc v

/-- The instruction completes with the word `w` in the low half of rD, whose high half is undefined on a 64-bit implementation;
CR0[0:2] is undefined in 64-bit mode (40 R221, R226). -/
def wordEffect (s : State) (rd : BitVec 5) (w : Word) (ov : Option Bool) (rc : Bool) (r : Result) : Prop :=
  ∃ t, r = .next t ∧ integerFrame s t ∧ low (t.getGpr rd) = w ∧ (s.cfg.impl64 = false → t.getGpr rd = zext w) ∧
    gprsKept s t [rd] ∧ xerEffect s t none ov ∧ crKept s t [0] ∧ (rc = false → t.cr = s.cr) ∧
    (rc = true → (t.crField 0).getLsbD 0 = t.so) ∧
    (rc = true → s.mode64 = false → t.crField 0 = orderOf w.toInt 0 t.so)

/-- The instruction completes, with an undefined value in rD, OV (and SO) set when `oe`, and CR0[0:2] undefined when `rc`
(40 R226). -/
def undefinedEffect (s : State) (rd : BitVec 5) (oe rc : Bool) (r : Result) : Prop :=
  ∃ t, r = .next t ∧ integerFrame s t ∧ gprsKept s t [rd] ∧ xerEffect s t none (if oe then some true else none) ∧
    crKept s t [0] ∧ (rc = false → t.cr = s.cr) ∧ (rc = true → (t.crField 0).getLsbD 0 = t.so)

/-! ## Accesses -/

/-- The number that bytes make, the first the most significant (20_memory R90). -/
def bigEndian (bytes : List Byte) : Nat :=
  match bytes with
  | [] => 0
  | b :: rest => b.toNat * 256 ^ rest.length + bigEndian rest

/-- Memory holds the bytes from physical address `pa` on. -/
def State.holds (s : State) (pa : Dword) (bytes : List Byte) : Prop :=
  ∀ k (h : k < bytes.length), s.mem.read (pa + BitVec.ofNat 64 k).toNat = some bytes[k]

/-- Reading the addresses gives these bytes. -/
def State.readsAs (s : State) (pas : List Dword) (bytes : List Byte) : Prop :=
  pas.map (fun pa => s.mem.read pa.toNat) = bytes.map some

/-- The first of the addresses whose byte nothing has written. -/
def State.firstUnwritten (s : State) (pas : List Dword) : Option Nat :=
  (pas.find? (fun pa => (s.mem.read pa.toNat).isNone)).map BitVec.toNat

/-- A data access at `ea` depends on a context change that no synchronization has followed (70 R660): a change of MSR[DR]; a
change of the computation mode, unless the address is the same in both modes; or, with translation on, a change that may touch
every page, the segment or the page index of `ea` (log 14). -/
def staleAccess (s : State) (ea : Dword) : Prop :=
  s.stale.dr = true ∨ (s.stale.sf = true ∧ ¬ (s.mode64 = true ∧ high ea = 0)) ∨
    (s.dr = true ∧ (s.stale.allPages = true ∨ slice 36 ea 0 ∈ s.stale.segments ∨ slice 16 ea 36 ∈ s.stale.pages))

/-- The data address `ea` translates to `pa` with attributes `a`, and state `u` is left: in real addressing mode to itself, with
the attributes of log 13 (W, I and G are 0); with translation on, to the frame of the translation function and the 12 low-order
bits of `ea` (20_memory R96, R100, R103). -/
def translatesTo (s : State) (kind : AccessKind) (ea pa : Dword) (a : Attributes) (u : State) : Prop :=
  ¬ staleAccess s ea ∧
    ((s.dr = false ∧ pa = ea ∧ a = ⟨false, false, true, false⟩ ∧ u = s) ∨
     (s.dr = true ∧ ∃ f, (Config.translate s.mmuView s.mem kind s.pr ea).result = .frame f a ∧
        pa = f ++ ea.extractLsb' 0 12 ∧ u = s.fill (Config.translate s.mmuView s.mem kind s.pr ea)))

/-- A change of DABR is not synchronized, with the breakpoint option (70 R660). -/
def dabrStale (s : State) : Prop := s.cfg.optDabr = true ∧ s.stale.dabr = true

/-- The data address breakpoint matches: the double word of DABR[0:60], BT the translation mode, DW for a store, DR for a load
(60 R624). -/
def breaks (s : State) (kind : AccessKind) (ea : Dword) : Prop :=
  s.cfg.optDabr = true ∧ slice 61 ea 0 = slice 61 s.dabr 0 ∧ s.dr = s.dabr.getMsbD 61 ∧
    ((kind = .store ∧ s.dabr.getMsbD 62 = true) ∨ (kind = .load ∧ s.dabr.getMsbD 63 = true))

/-- An access of this kind at `ea` reaches physical address `pa` and leaves state `u`: it translates, and no breakpoint stops
it. -/
def reachesAt (s : State) (kind : AccessKind) (ea pa : Dword) (u : State) : Prop :=
  (∃ a, translatesTo s kind ea pa a u) ∧ ¬ dabrStale s ∧ ¬ breaks s kind ea

/-- Exception `e` is taken at the instruction of state `u`: the state is what `enter` makes of `u`, with the instruction's own
address to return to. `EntrySaves` and `EntryMode` say all that `enter` does. -/
def raisesIn (e : Exc) (u : State) (r : Result) : Prop := r = .next (enter e u.nia u)

/-- A word with bit `k` alone, numbered from the most significant. -/
def bitAt (k : Nat) : Word := BitVec.twoPow 32 (31 - k)

/-- The DSISR bit of a failed data translation: 1, 4 or 10 (60 R610; no-execute: log 13). -/
def dsisrBit (c : XlateCause) : Word :=
  match c with
  | .noTranslation => bitAt 1
  | .protection => bitAt 4
  | .segmentSearch => bitAt 10
  | .noExecute => bitAt 4

/-- DSISR bit 6, for a store (60 R610). -/
def storeBit (kind : AccessKind) : Word := if kind = .store then bitAt 6 else 0

/-- How the translation of a data address ends an instruction: a stale one with the fault, a failed one with DSI, its address
in DAR and its cause in DSISR, and no entry of the lookaside buffers loaded (60 R610; 70 R660; log 41). -/
def translationStops (s : State) (kind : AccessKind) (ea : Dword) (r : Result) : Prop :=
  (staleAccess s ea → r = .fault .staleTranslation) ∧
    (¬ staleAccess s ea → s.dr = true → ∀ c, (Config.translate s.mmuView s.mem kind s.pr ea).result = .fails c →
      raisesIn (.dsi ea (dsisrBit c ||| storeBit kind)) s r)

/-- How the breakpoint check ends an instruction: with the fault while a change of DABR is not synchronized, and with DSI, DSISR
bit 9, on a match (60 R610, R624; 70 R660). -/
def breakStops (s u : State) (kind : AccessKind) (ea : Dword) (r : Result) : Prop :=
  (dabrStale s → r = .fault .staleTranslation) ∧
    (¬ dabrStale s → breaks s kind ea → raisesIn (.dsi ea (bitAt 9 ||| storeBit kind)) u r)

/-- How a data access that does not go through ends the instruction: the translation first, then the breakpoint (60 R619
item 8). -/
def accessStops (s : State) (kind : AccessKind) (ea : Dword) (r : Result) : Prop :=
  translationStops s kind ea r ∧ ∀ pa a u, translatesTo s kind ea pa a u → breakStops s u kind ea r

/-- Accesses one after the other, at `sum`, `sum + stride`, ... in the mode's width, reach these physical addresses. -/
def reachesEach (s : State) (kind : AccessKind) (sum stride : Dword) (pas : List Dword) (u : State) : Prop :=
  match pas with
  | [] => u = s
  | pa :: rest => ∃ v, reachesAt s kind (s.ea32 sum) pa v ∧ reachesEach v kind (sum + stride) stride rest u

/-- The address of the `k`-th of them. -/
def addressOf (s : State) (sum stride : Dword) (k : Nat) : Dword := s.ea32 (sum + BitVec.ofNat 64 k * stride)

/-- Stores one after the other, at `sum`, `sum + stride`, ...: each is translated when the ones before it have been made. -/
def storesEach (s : State) (sum stride : Dword) (chunks : List (List Byte)) (pas : List Dword) (u : State) : Prop :=
  match chunks, pas with
  | [], [] => u = s
  | c :: cs, pa :: rest =>
    ∃ v, reachesAt s .store (s.ea32 sum) pa v ∧
      storesEach (v.storeAll (bytesFrom pa c.length) c) (sum + stride) stride cs rest u
  | [], _ :: _ => False
  | _ :: _, [] => False

/-- The blocks of the addresses stored to become stale for instruction fetch, and no other does (70 R661); an `icbi` of one of them
that came before no longer counts, and every other still does (20_memory R125; log 36). -/
def marksStored (s t : State) (stored : Nat → Prop) : Prop :=
  (∀ b, b ∈ t.staleInsn ↔ b ∈ s.staleInsn ∨ ∃ a, stored a ∧ b = s.blockOf a) ∧
    ∀ b, b ∈ t.icbiDone ↔ b ∈ s.icbiDone ∧ ¬ ∃ a, stored a ∧ b = s.blockOf a

/-- A load whose bytes lie at physical addresses `pas` completes: with the bytes there, `put` makes the next state from the
state `u` the access leaves, but for the pc; a byte that nothing has written is the fault of log 7. -/
def loadsFrom (s : State) (r : Result) (pas : List Dword) (u : State) (put : List Byte → State → State) : Prop :=
  (∀ bytes, u.readsAs pas bytes → r = .next { put bytes u with nia := s.nextPc }) ∧
    (∀ a, u.firstUnwritten pas = some a → r = .fault (.unwrittenRead a))

/-- A store of these bytes at physical addresses `pas` completes: the bytes are there, every other byte of memory reads as
before, the blocks stored to become stale, and but for memory, those marks and the pc the next state is `upd` of the state that
the access leaves. -/
def storesTo (s : State) (r : Result) (pas : List Dword) (u : State) (bytes : List Byte) (upd : State → State) : Prop :=
  ∃ t, r = .next t ∧ (pas.Nodup → t.readsAs pas bytes) ∧ (∀ a, (∀ pa ∈ pas, a ≠ pa.toNat) → t.mem.read a = s.mem.read a) ∧
    marksStored s t (fun a => ∃ pa ∈ pas, a = pa.toNat) ∧
    t = { upd u with nia := s.nextPc, mem := t.mem, staleInsn := t.staleInsn, icbiDone := t.icbiDone }

/-- A load of `n` bytes at an aligned address: it completes, or the access stops it. -/
def loadsAligned (s : State) (r : Result) (sum : Dword) (n : Nat) (put : List Byte → State → State) : Prop :=
  alignedTo (s.ea32 sum) n = true →
    accessStops s .load (s.ea32 sum) r ∧ ∀ pa u, reachesAt s .load (s.ea32 sum) pa u → loadsFrom s r (bytesFrom pa n) u put

/-- A store at an aligned address: it completes, or the access stops it, with nothing stored. -/
def storesAligned (s : State) (r : Result) (sum : Dword) (bytes : List Byte) (upd : State → State) : Prop :=
  alignedTo (s.ea32 sum) bytes.length = true →
    accessStops s .store (s.ea32 sum) r ∧
      ∀ pa u, reachesAt s .store (s.ea32 sum) pa u → storesTo s r (bytesFrom pa bytes.length) u bytes upd

/-- A misaligned access under the policy to perform: each byte is an access of its own, at EA, EA + 1, ... in the mode's width;
the first that does not go through ends the instruction, and `k` is what happens when all do (log 33). -/
def performs (s : State) (r : Result) (kind : AccessKind) (sum : Dword) (n : Nat) (k : List Dword → State → Prop) : Prop :=
  (∀ pas v, pas.length < n → reachesEach s kind sum 1 pas v → accessStops v kind (addressOf s sum 1 pas.length) r) ∧
    ∀ pas u, pas.length = n → reachesEach s kind sum 1 pas u → k pas u

/-- A load at a misaligned address traps or is performed, as the policy says (20_memory R98). -/
def loadsMisaligned (s : State) (r : Result) (sum : Dword) (n : Nat) (put : List Byte → State → State) : Prop :=
  alignedTo (s.ea32 sum) n = false →
    (s.cfg.misaligned = .trap → raisesIn (.alignment (s.ea32 sum)) s r) ∧
    (s.cfg.misaligned = .perform → performs s r .load sum n (fun pas u => loadsFrom s r pas u put))

/-- A store at a misaligned address traps or is performed: nothing is stored unless every byte goes through (60 R604). -/
def storesMisaligned (s : State) (r : Result) (sum : Dword) (bytes : List Byte) (upd : State → State) : Prop :=
  alignedTo (s.ea32 sum) bytes.length = false →
    (s.cfg.misaligned = .trap → raisesIn (.alignment (s.ea32 sum)) s r) ∧
    (s.cfg.misaligned = .perform → performs s r .store sum bytes.length (fun pas u => storesTo s r pas u bytes upd))

/-! ## Fetches and marks of context changes -/

/-- The segment of a fetch at `ea` is a direct-store segment: T of its segment register (bit 0) on a 32-bit implementation, T of a valid SLB
entry of the segment on a 64-bit one, or T of what the translation found (10_state R49, R50; 20_memory R103; log 21). -/
def directSegment (s : State) (x : Xlate) (ea : Dword) : Prop :=
  x.directStore = true ∨
    (s.cfg.impl64 = false ∧ (s.sr.get (slice 4 ea 32).toFin).getMsbD 0 = true) ∨
    (s.cfg.impl64 = true ∧ ∃ k : Fin 16, (s.slb.get k).dw0.getMsbD 56 = true ∧ (s.slb.get k).dw0.getMsbD 57 = true ∧
      slice 36 (s.slb.get k).dw0 0 = slice 36 ea 0)

/-- The fetch of the next instruction in state `u` goes to physical address `pa` and leaves `v`: nothing that it depends on is
stale, and its address translates to memory that may be executed (60 R612; 20_memory R103). -/
def fetchesFrom (u : State) (pa : Dword) (v : State) : Prop :=
  let ea := u.ea32 u.nia
  u.staleFetch ea = false ∧
    ((u.ir = false ∧ pa = ea ∧ v = u) ∨
     (u.ir = true ∧ ∃ f a, (Config.translate u.mmuView u.mem .fetch u.pr ea).result = .frame f a ∧ a.guarded = false ∧
        ¬ directSegment u (Config.translate u.mmuView u.mem .fetch u.pr ea) ea ∧
        pa = f ++ ea.extractLsb' 0 12 ∧ v = u.fill (Config.translate u.mmuView u.mem .fetch u.pr ea)))

/-- The word at `pa` has a byte in a block stored to and not synchronized since (70 R661; blocks smaller than a word: log 40). -/
def staleWord (u : State) (pa : Dword) : Prop := ∃ k < 4, u.blockOf (pa + BitVec.ofNat 64 k).toNat ∈ u.staleInsn

/-- Context synchronization as far as fetches see it: the blocks that `icbi` has invalidated may be fetched again (70 R661). -/
def blocksSynced (s t : State) : Prop := ∀ b, b ∈ t.staleInsn ↔ b ∈ s.staleInsn ∧ b ∉ s.icbiDone

/-- The marks of `t` are `m`, and what decided fetches in `s` is remembered beside what was (70 R660). -/
def marksFetch (s t : State) (m : StaleMarks) : Prop :=
  (∀ v, v ∈ t.stale.views ↔ v = s.fetchView ∨ v ∈ s.stale.views) ∧ t.stale = { m with views := t.stale.views }

/-- The marks after an MSR move: IR and PR for fetches, DR for data accesses, SF for both, each when it has changed (70 R660). -/
def marksMsr (s t : State) : Prop :=
  (∀ v, v ∈ t.stale.views ↔ v ∈ s.stale.views ∨ (v = s.fetchView ∧ (t.ir ≠ s.ir ∨ t.pr ≠ s.pr))) ∧
    t.stale = { s.stale with
      views := t.stale.views, dr := s.stale.dr || t.dr != s.dr, sf := s.stale.sf || t.mode64 != s.mode64,
      sfCut := s.stale.sfCut || (t.mode64 != s.mode64 && !t.mode64 && high s.nextPc != 0) }

/-- The exception of 60 R608 (b) is pending after `t` if it was before, or if FE0 | FE1 has gone from 0 to 1 with FEX = 1. -/
def notesFp (s t : State) : Prop := t.fpPending = (s.fpPending || (!s.fe && t.fe && s.fpscr.getMsbD 1))

/-- Only what taking an exception writes has changed (60 R602, R610, R629; 70 R660, R661; fpPending: log 37). -/
def entryFrame (s t : State) : Prop :=
  t = { s with
    srr0 := t.srr0, srr1 := t.srr1, msr := t.msr, nia := t.nia, dsisr := t.dsisr, dar := t.dar, draws := t.draws,
    staleInsn := t.staleInsn, icbiDone := [], stale := StaleMarks.none, fpPending := false, tracePending := false,
    entered := t.entered } ∧ blocksSynced s t

/-- The `n` low-order bytes of a value, the most significant first. -/
def lowBytes (n : Nat) (v : Dword) : List Byte :=
  match n with
  | 0 => []
  | n + 1 => (v >>> (8 * n)).setWidth 8 :: lowBytes n v

/-! ## Floating-point effects -/

/-- The sticky bits of the FPSCR after an instruction that may raise the exceptions in `affected`: none is cleared, none
outside `affected` is set, FX is set when one goes from 0 to 1, and FEX and VX are their summaries; the enables, NI, RN and the
reserved bit stay (43 R310 item 1, R312). -/
def fpscrEffect (before after affected : Word) : Prop :=
  before &&& fpscrExceptions &&& ~~~ after = 0 ∧ after &&& fpscrExceptions &&& ~~~ before &&& ~~~ affected = 0 ∧
    after.getMsbD 0 = (before.getMsbD 0 || after &&& fpscrExceptions &&& ~~~ before != 0) ∧
    fpscrSummary after = after ∧ after &&& 0x8FF = before &&& 0x8FF

/-- CR1 is FPSCR[0:3] when `rc`, and stays otherwise; the other CR fields stay. -/
def cr1Effect (s t : State) (rc : Bool) : Prop :=
  t.crField 1 = (if rc then slice 4 t.fpscr 0 else s.crField 1) ∧ crKept s t [1]

/-- A floating-point operation completes: only frD, the FPSCR (as `fpscrEffect` says) and CR1 change. -/
def floatEffect (s : State) (frd : BitVec 5) (rc : Bool) (affected : Word) (r : Result) : Prop :=
  ∃ t, r = .next t ∧ floatFrame s t ∧ fprsKept s t [frd] ∧ fpscrEffect s.fpscr t.fpscr affected ∧ cr1Effect s t rc

/-- A quiet NaN. -/
def quietNanBits (d : Dword) : Prop := isNan d = true ∧ isSnan d = false

/-- The rational number a magnitude stands for. -/
def Exact.toRat (v : Exact) : ℚ := (if v.neg then -1 else 1) * (v.mant : ℚ) * (2 : ℚ) ^ v.exp

/-- The rational number a finite operand stands for. -/
def FpVal.toRat (x : FpVal) : ℚ :=
  match x with
  | .nan => 0
  | .inf _ => 0
  | .zero _ => 0
  | .finite v => v.toRat

/-- The operand is a number: a zero or a finite value. -/
def FpVal.isNumber (x : FpVal) : Bool :=
  match x with
  | .nan => false
  | .inf _ => false
  | .zero _ => true
  | .finite _ => true

/-- The double is a number: its exponent is not all ones (43 R311). -/
def isNumber (d : Dword) : Bool := slice 11 d 1 != 0x7FF

/-- The rational number that a double stands for: (-1)^sign * 1.fraction * 2^(exponent - 1023), without the leading 1 where
the exponent is 0 (43 R311). -/
def numberOf (d : Dword) : ℚ :=
  (if d.msb then -1 else 1) *
    (if slice 11 d 1 = 0 then ((slice 52 d 12).toNat : ℚ) * 2 ^ (-1074 : ℤ)
     else ((2 ^ 52 + (slice 52 d 12).toNat : ℕ) : ℚ) * 2 ^ (((slice 11 d 1).toNat : ℤ) - 1075))

/-- What R313 takes of a format: significant bits, smallest and greatest exponent, and the exponent adjustment of an enabled
overflow or underflow. -/
structure Format where
  bits : ℤ
  minExp : ℤ
  maxExp : ℤ
  adjust : ℤ

/-- The double format. -/
def doubleFormat : Format := ⟨53, -1022, 1023, 1536⟩

/-- The single format. -/
def singleFormat : Format := ⟨24, -126, 127, 192⟩

/-- The largest finite number of a format, as a double of the given sign. -/
def Format.greatest (f : Format) (neg : Bool) : Dword :=
  (if neg then 0x8000000000000000 else 0) ||| (if f.bits = 53 then 0x7FEFFFFFFFFFFFFF else 0x47EFFFFFE0000000)

/-- `n` is the magnitude `a` rounded to a whole number: to nearest with ties to even, toward zero, or toward plus or minus
infinity (43 R313 step 5). -/
def roundsTo (mode : RoundMode) (neg : Bool) (a : ℝ) (n : ℕ) : Prop :=
  match mode with
  | .nearest => |a - n| ≤ 1 / 2 ∧ (|a - n| = 1 / 2 → n % 2 = 0)
  | .zero => n = ⌊a⌋₊
  | .up => n = if neg then ⌊a⌋₊ else ⌈a⌉₊
  | .down => n = if neg then ⌈a⌉₊ else ⌊a⌋₊

/-- An overflow gives infinity under this mode, and not the largest finite number. -/
def toInfinity (mode : RoundMode) (neg : Bool) : Bool :=
  match mode with
  | .nearest => true
  | .zero => false
  | .up => !neg
  | .down => neg

/-- The double is the number of magnitude `y` with this sign. -/
def valueIs (d : Dword) (neg : Bool) (y : ℝ) : Prop :=
  isNumber d = true ∧ d.msb = neg ∧ ((numberOf d : ℚ) : ℝ) = if neg then -y else y

/-- The exception bits of the FPSCR are those of before and `bits`. -/
def raisesBits (s t : State) (bits : Word) : Prop :=
  t.fpscr &&& fpscrExceptions = s.fpscr &&& fpscrExceptions ||| bits

/-- The result has magnitude `y` and sign `neg`, FR says that it is greater than the exact magnitude `a`, FI and XX that it is
another, and `bits` are raised besides. -/
def inexactly (s t : State) (d : BitVec 5) (neg : Bool) (a y : ℝ) (bits : Word) : Prop :=
  valueIs (t.getFpr d) neg y ∧ (t.fpscr.getMsbD 13 = true ↔ a < y) ∧ (t.fpscr.getMsbD 14 = true ↔ y ≠ a) ∧
    (y = a → raisesBits s t bits) ∧ (y ≠ a → raisesBits s t (bits ||| bitAt 6))

/-- The instruction completes with the exact nonzero result `x` rounded to the format under FPSCR[RN], and negated afterwards
when `negate` (43 R313 step 5). In the format's range FR and FI compare the result with the exact one. An overflow raises OX and
XX, and gives infinity or the largest finite number, or, with OE = 1, the result scaled down. Below the smallest normalized
magnitude UX is raised when the denormalized result is inexact, or, with UE = 1, in any case, and the result is scaled up. (FI and
XX of scaled results: log 19. FR of an overflow is left out here.) Only frD, the FPSCR and CR1 change. -/
def roundedEffect (fmt : Format) (s : State) (d : BitVec 5) (rc negate : Bool) (x : ℝ) (r : Result) : Prop :=
  x ≠ 0 →
    let mode := roundMode s.fpscr
    let neg := decide (x < 0)
    let sign := neg != negate
    ∃ t, r = .next t ∧ floatFrame s t ∧ fprsKept s t [d] ∧ cr1Effect s t rc ∧
      fpscrEffect s.fpscr t.fpscr (bitAt 3 ||| bitAt 4 ||| bitAt 6) ∧ slice 5 t.fpscr 15 = fprfOf (t.getFpr d) ∧
      ∀ e : ℤ, (2 : ℝ) ^ e ≤ |x| → |x| < (2 : ℝ) ^ (e + 1) →
        (fmt.minExp ≤ e → ∀ n : ℕ, roundsTo mode neg (|x| / 2 ^ (e - (fmt.bits - 1))) n →
          let y : ℝ := n * 2 ^ (e - (fmt.bits - 1))
          (y < 2 ^ (fmt.maxExp + 1) → inexactly s t d sign |x| y 0) ∧
          (2 ^ (fmt.maxExp + 1) ≤ y → t.fpscr.getMsbD 14 = true ∧ raisesBits s t (bitAt 3 ||| bitAt 6) ∧
            (s.fpscr.getMsbD 25 = false → t.getFpr d =
              if toInfinity mode neg then (if sign then 0xFFF0000000000000 else 0x7FF0000000000000) else fmt.greatest sign) ∧
            (s.fpscr.getMsbD 25 = true → y * 2 ^ (-fmt.adjust) < 2 ^ (fmt.maxExp + 1) →
              valueIs (t.getFpr d) sign (y * 2 ^ (-fmt.adjust))))) ∧
        (e < fmt.minExp → s.fpscr.getMsbD 26 = false →
          ∀ n : ℕ, roundsTo mode neg (|x| / 2 ^ (fmt.minExp - (fmt.bits - 1))) n →
            let y : ℝ := n * 2 ^ (fmt.minExp - (fmt.bits - 1))
            inexactly s t d sign |x| y (if y = |x| then 0 else bitAt 4)) ∧
        (e < fmt.minExp → s.fpscr.getMsbD 26 = true →
          ∀ n : ℕ, roundsTo mode neg (|x| / 2 ^ (e - (fmt.bits - 1))) n →
            let y : ℝ := n * 2 ^ (e - (fmt.bits - 1)) * 2 ^ fmt.adjust
            2 ^ fmt.minExp ≤ y → inexactly s t d sign (|x| * 2 ^ fmt.adjust) y (bitAt 4))

end Sys2Proof.Machine
end

