-- ==== Sys2Proof/Certificates/Slice0/Obligations.lean ====
section
/-!
DEFINITION. The statements for the provers. Each is about every state unless its premises say otherwise; OBLIGATIONS.json lists
them with the rule each formalises.
-/

open Sys2Proof Sys2Proof.Machine

/-! ## Encoding -/

/-- Decoding the word of an instruction gives the instruction back, with every operand at every value. -/
def Obligations.DecodeEncode : Prop := ∀ i : Instr, decode (encode i) = .ok i

/-- A word that decodes without a reserved bit is the word of its instruction (30 R164: the reserved bits are 0). -/
def Obligations.EncodeDecode : Prop := ∀ (w : Word) (i : Instr), decode w = .ok i → encode i = w

/-- Words written out from 30_encoding R172 and 95_test_vectors decode to the instructions they stand for. -/
def Obligations.WordsDecode : Prop :=
  decode 0x3864FFFF = .ok (.addi 3 4 0xFFFF) ∧ decode 0x78831F24 = .ok (.rldicrx 4 3 3 60 false) ∧
    decode 0x7C7A02A6 = .ok (.mfspr 3 26) ∧ decode 0x7CA0192D = .ok (.stwcxDot 5 0 3) ∧
    decode 0xFC2220FA = .ok (.fmaddx 1 2 4 3 false) ∧ decode 0x4E000420 = .ok (.bcctrx 16 0 false) ∧
    decode 0x2C430005 = .reserved (.cmpi 0 false 3 5) ∧ decode 0x7CC0192C = .illegal

/-! ## The step -/

/-- Where nothing is pending at the boundary, the step fetches from the state `u` in which the outside world leaves the machine:
where the fetch goes through, to four bytes in no stale block, it runs their word, and where the word decodes to `i` that is
exactly `exec i`, with a trace exception pending afterwards if MSR[SE] or, for a branch, MSR[BE] is set and OPT_TRACE holds, and,
while a change of the computation mode is not synchronized, a sequence over the end of the 32-bit address space marked
(30 R160; 60 R612, R615, R618; 70 R660; log 14). -/
def Obligations.StepRunsInstruction : Prop :=
  ∀ (s : State) (pa : Dword) (v : State) (w : Word),
    let u := s.environment
    s.le = false → s.pow = false → recognise u = none → fetchesFrom u pa v → ¬ staleWord u pa →
    v.holds pa (lowBytes 4 (zext w)) →
    step s = runWord w v ∧
    ∀ i, decode w = .ok i →
      step s = match exec i v with
        | .next t => .next { t with
            tracePending := t.tracePending || (t.cfg.optTrace && ((t.se && !isReturn i) || (t.be && isBranch i))),
            stale := { t.stale with
              sfCut := t.stale.sfCut || (t.stale.sf && !isBranch i && v.nia == 0xFFFFFFFC && t.nia == 0) } }
        | .fault f => .fault f
        | .refused f => .refused f

/-- A word that matches no row raises the illegal instruction exception: SRR0 has its address, SRR1 bit 44 is set and the pc is
at the program vector (30 R163; 60 R606). A word with a reserved bit set stops with a fault, unless an exception that comes
first is raised (30 R164; 60 R619). That the exception of an SPR or TBR number which no register has comes before the reserved bit
is the model's choice (log 28: 60 R606 and R619 against 30 R160 and R165). -/
def Obligations.BadWords : Prop :=
  ∀ (s : State) (w : Word),
    (decode w = .illegal →
      ∃ t, runWord w s = .next t ∧ t = enter (.program .illegal) s.nia s ∧ t.srr0 = s.ea32 s.nia &&& ~~~ 3 ∧
        t.srr1.getMsbD 44 = true ∧ t.nia = vectorBase t.msr + 0x700 ∧ t.pr = false ∧ t.gpr = s.gpr ∧ sameMemory s t) ∧
    (∀ i, decode w = .reserved i →
      (preCheck i s = none → runWord w s = .fault .reservedBitsNonZero) ∧
      (∀ e, preCheck i s = some e → runWord w s = .next (enter e s.nia s)))

/-- How a fetch in state `u` that does not go through ends the step: a stale one with the fault of log 14, a failed translation,
guarded memory or a direct-store segment with ISI (the cause of the translation where both hold: log 42; no entry of the lookaside
buffers loaded: log 41), a block stored to without the sequence of 70 R661 and a byte that nothing has
written with their faults (60 R612, R627; 70 R660, R661). -/
def fetchStops (u : State) (r : Result) : Prop :=
  let ea := u.ea32 u.nia
  let x := Config.translate u.mmuView u.mem .fetch u.pr ea
  ((u.stale.sfCut = true ∨ (u.stale.sf = true ∧ high ea ≠ 0) ∨
      ∃ v ∈ u.stale.views, fetchResult v.mmu v.user u ea ≠ fetchResult u.mmuView u.pr u ea) →
    r = .fault .staleTranslation) ∧
  (u.staleFetch ea = false → u.ir = true →
    (∀ c, x.result = .fails c → raisesIn (.isi c) u r) ∧
    (∀ f a, x.result = .frame f a → a.guarded = true ∨ directSegment u x ea → raisesIn (.isi .noExecute) u r)) ∧
  (∀ pa v, fetchesFrom u pa v →
    (staleWord u pa → r = .fault .staleInstruction) ∧
    (¬ staleWord u pa → ∀ a, v.firstUnwritten (bytesFrom pa 4) = some a → r = .fault (.unwrittenRead a)))

/-- What a boundary takes, highest priority first, in the state `u` in which the outside world leaves the machine (60 R615 to
R619): a system reset; a machine check (a stop with MSR[ME] = 0, R605); a pending enabled floating-point exception, if FEX and
FE0 | FE1 are still 1 (R608); the external interrupt and the decrementer under MSR[EE]; a trace; each with the address of the next
instruction in SRR0 and its request dropped (of reset and machine check: log 37); and else the fetch, with the faults and the ISI
of one that does not go through. With MSR[LE] = 1 or MSR[POW] = 1 the model stops by a refusal (20 R91, 60 R625; log 9, 10). -/
def Obligations.BoundaryTakes : Prop :=
  ∀ s : State,
    let u := s.environment
    let fpDue := u.fpPending && u.fpscr.getMsbD 1 && u.fe
    (s.le = true → step s = .refused .littleEndian) ∧ (s.le = false → s.pow = true → step s = .refused .powerSave) ∧
    (s.le = false → s.pow = false →
      (u.resetPending = true → raisesIn .systemReset { u with resetPending := false } (step s)) ∧
      (u.resetPending = false →
        (u.mcheckPending = true → u.me = true → raisesIn .machineCheck { u with mcheckPending := false } (step s)) ∧
        (u.mcheckPending = true → u.me = false → step s = .fault .checkstop) ∧
        (u.mcheckPending = false →
          (fpDue = true → raisesIn (.program .fpEnabled) u (step s)) ∧
          (fpDue = false →
            (u.extInt = true → u.ee = true → raisesIn .external u (step s)) ∧
            ((u.extInt && u.ee) = false →
              (u.decPending = true → u.ee = true → raisesIn .decrementer { u with decPending := false } (step s)) ∧
              ((u.decPending && u.ee) = false →
                (u.tracePending = true → raisesIn .trace u (step s)) ∧
                (u.tracePending = false → fetchStops u (step s))))))))

/-- Ticks: the time base counts up, the decrementer down, and a decrementer that passes below 0 becomes pending; nothing else
changes (60 R617, R621; log 34). -/
def tickEffect (s t : State) (n : Nat) : Prop :=
  t.tb.toNat = (s.tb.toNat + n) % 2 ^ 64 ∧ (t.dec.toNat : Int) = ((s.dec.toNat : Int) - n) % 2 ^ 32 ∧
    (t.decPending = true ↔ s.decPending = true ∨ s.dec.toNat < n) ∧
    t = { s with tb := t.tb, dec := t.dec, decPending := t.decPending }

/-- The reservation granule's size: RESERVATION_GRANULE_BYTES, at least 4, and 8 on a 64-bit implementation (00_scope R8). -/
def granuleBytes (c : Config) : Nat := max (2 ^ c.granuleLog) (if c.impl64 then 8 else 4)

/-- What the next boundary record does before the step: its ticks; other agents' stores, which end a reservation of their granule
and make their blocks stale, so that an icbi before them no longer counts; the interrupt level and the requests; other processors'
tlbie, and their icbi, which come after the stores; nothing else (20 R125; 49 R557, R591; 60 R616, R629; 70 R661; log 8, 36). -/
def recordActs : Prop :=
  ∀ (s : State) (b : Boundary) (rest : List Boundary), s.env = b :: rest →
    let t := s.environment
    let at64 := fun c : Host.Cell => c.1 % 2 ^ 64
    tickEffect s { s with tb := t.tb, dec := t.dec, decPending := t.decPending } b.ticks ∧
    (∀ a, t.mem.read a = match (b.stores.filter (fun c => at64 c == a)).getLast? with
      | some c => some c.2
      | none => s.mem.read a) ∧
    (t.reserve = true ↔ s.reserve = true ∧ b.loseReservation = false ∧
      ∀ c ∈ b.stores, at64 c / granuleBytes s.cfg ≠ s.reserveAddr.toNat / granuleBytes s.cfg) ∧
    (∀ n, n ∈ t.staleInsn ↔ n ∈ s.staleInsn ∨ ∃ c ∈ b.stores, n = s.blockOf (at64 c)) ∧
    (∀ n, n ∈ t.icbiDone ↔ (n ∈ s.icbiDone ∧ ¬ ∃ c ∈ b.stores, n = s.blockOf (at64 c)) ∨ n ∈ b.icbis) ∧
    (∀ e, e ∈ t.tlb ↔ e ∈ s.tlb ∧ e.page ∉ b.tlbies) ∧
    t = { s with
      tb := t.tb, dec := t.dec, decPending := t.decPending, mem := t.mem, staleInsn := t.staleInsn, reserve := t.reserve,
      extInt := b.extInt, resetPending := s.resetPending || b.reset, mcheckPending := s.mcheckPending || b.mcheck,
      tlb := t.tlb, icbiDone := t.icbiDone, env := rest }

/-- The outside world between instructions: ticks, and all that a boundary record does; with no record nothing happens
(60 R617, R621, R629; 49 R557; log 8, 34). -/
def Obligations.TicksCount : Prop :=
  (∀ (s : State) (n : Nat), tickEffect s (s.tick n) n) ∧ recordActs ∧ ∀ s : State, s.env = [] → s.environment = s

/-! ## Invariants -/

/-- What reset leaves: where 70 R650 names a value, SF on a 64-bit implementation, every other MSR bit but ME and IP 0, no
reservation, an empty TLB, no valid SLB entry, EAR[E] and DABR 0, nothing pending and nothing stale, no single-origin tag; and
where it lets the host choose or leaves it open, the model's choices: IP set and the pc at the system reset vector (log 2), no byte
of memory written (log 6, 7), the recorded outputs of 60 R629 empty. -/
def Obligations.ResetValues : Prop :=
  ∀ c : Config,
    let s := State.resetOf c
    (s.msr &&& ~~~ 0x1040 = (if c.impl64 then 0x8000000000000000 else 0) ∧ s.reserve = false ∧ s.tlb = [] ∧
      (∀ k : Fin 16, (s.slb.get k).dw0.getMsbD 56 = false ∧ (s.slb.get k).byMove = false) ∧
      s.earEnabled = false ∧ s.dabr = 0 ∧ (∀ r, s.isSingle r = false) ∧ s.resetPending = false ∧ s.mcheckPending = false ∧
      s.decPending = false ∧ s.fpPending = false ∧ s.tracePending = false ∧ s.stale = StaleMarks.none ∧ s.staleInsn = [] ∧
      s.icbiDone = []) ∧
    (s.nia = 0xFFF00100 ∧ s.msr.getMsbD 57 = true ∧ s.mem = [] ∧ s.entered = [] ∧ s.deviceOut = [])

/-- The state after reset meets the invariant (the values that R650 leaves unspecified are the model's: log 1 to 4). -/
def Obligations.ResetMeetsInvariant : Prop := ∀ c : Config, (State.resetOf c).Inv

/-- Every step keeps memory in its canonical form. -/
def Obligations.StepKeepsMemoryForm : Prop := ∀ s t : State, s.mem.wf = true → step s = .next t → t.mem.wf = true

/-- Every step leaves the pc a multiple of 4, and outside 64-bit mode with its high half 0 (10_state R33). -/
def Obligations.StepKeepsPcAligned : Prop := ∀ s t : State, s.PcAligned → step s = .next t → t.PcAligned

/-- Every step leaves FEX and VX the summaries of the other FPSCR bits (10_state R45). -/
def Obligations.StepKeepsFpscrSummary : Prop :=
  ∀ s t : State, s.FpscrSummarised → step s = .next t → t.FpscrSummarised

/-- Every step leaves the registers of a 32-bit implementation 32 bits wide, and none changes the implementation parameters or
the processor version register (00_scope R8, R12; 10_state R43). -/
def Obligations.StepKeepsWidth : Prop :=
  ∀ s t : State, step s = .next t → (s.Narrow → t.Narrow) ∧ t.cfg = s.cfg ∧ t.pvr = s.pvr

/-! ## Privilege and exceptions -/

/-- In user mode an instruction leaves the MSR as it is or enters an exception, which makes it the exception's MSR, with
MSR[PR] = 0; SRR0, SRR1, DSISR and DAR stay where no exception is entered; and no instruction changes SDR1, SPRG0 to SPRG3, ASR, EAR,
the BATs, DABR, DEC, the time base, PVR and the segment registers (60 R602, R620). (The SLB and the TLB, which translations load,
are left out.) -/
def Obligations.UserKeepsSupervisorState : Prop :=
  ∀ (i : Instr) (s t : State), s.pr = true → exec i s = .next t →
    (t.msr = s.msr ∨ ((∃ e, t.msr = s.norm (entryMsr s.cfg.impl64 e s.msr)) ∧ t.pr = false)) ∧
    t.sdr1 = s.sdr1 ∧ t.sprg = s.sprg ∧ t.asr = s.asr ∧ t.ear = s.ear ∧ t.ibat = s.ibat ∧ t.dbat = s.dbat ∧
      t.dabr = s.dabr ∧ t.dec = s.dec ∧ t.tb = s.tb ∧ t.pvr = s.pvr ∧ t.sr = s.sr ∧
    (t.entered = s.entered → t.srr0 = s.srr0 ∧ t.srr1 = s.srr1 ∧ t.dsisr = s.dsisr ∧ t.dar = s.dar)

/-- The exception with this program cause: SRR0 has the address of the instruction and the pc is at the program vector. -/
def trapsTo (c : ProgramCause) (s : State) (r : Result) : Prop := raisesIn (.program c) s r

/-- In user mode every supervisor-level instruction that the implementation has raises the privileged instruction exception: on a
64-bit implementation without the bridge, with it and its options, and on a 32-bit one (60 R607). -/
def Obligations.SupervisorInstructionsTrap : Prop :=
  ∀ (s : State) (ra rb rs : BitVec 5) (n : BitVec 4) (spr : BitVec 10), s.pr = true →
    trapsTo .privileged s (exec (.mfmsr rs) s) ∧ trapsTo .privileged s (exec (.dcbi ra rb) s) ∧
    (s.cfg.impl64 = true → trapsTo .privileged s (exec .rfid s) ∧ trapsTo .privileged s (exec (.mtmsrd rs) s)) ∧
    (s.cfg.impl64 = false ∨ s.cfg.bridgeMtmsrRfi = true →
      trapsTo .privileged s (exec .rfi s) ∧ trapsTo .privileged s (exec (.mtmsr rs) s)) ∧
    (s.cfg.impl64 = false ∨ s.cfg.bridge = true →
      trapsTo .privileged s (exec (.mfsr rs n) s) ∧ trapsTo .privileged s (exec (.mfsrin rs rb) s) ∧
      trapsTo .privileged s (exec (.mtsr rs n) s) ∧ trapsTo .privileged s (exec (.mtsrin rs rb) s)) ∧
    (s.cfg.impl64 = true → s.cfg.optSlbia = true → trapsTo .privileged s (exec .slbia s)) ∧
    (s.cfg.impl64 = true → s.cfg.optSlbie = true → trapsTo .privileged s (exec (.slbie rb) s)) ∧
    (s.cfg.optTlbia = true → trapsTo .privileged s (exec .tlbia s)) ∧
    (s.cfg.optTlbie = true → trapsTo .privileged s (exec (.tlbie rb) s)) ∧
    (s.cfg.optTlbsync = true → trapsTo .privileged s (exec .tlbsync s)) ∧
    (s.cfg.impl64 = true → s.cfg.bridge = true → s.cfg.bridgeMtsrd = true →
      trapsTo .privileged s (exec (.mtsrd rs n) s) ∧ trapsTo .privileged s (exec (.mtsrdin rs rb) s)) ∧
    (spr.getLsbD 4 = true → trapsTo .privileged s (exec (.mfspr rs spr) s) ∧ trapsTo .privileged s (exec (.mtspr rs spr) s))

/-- With MSR[FP] = 0 every floating-point instruction that exists raises floating-point unavailable: its address in SRR0, the pc
at the vector, no status bit in SRR1, no floating-point register, FPSCR bit, general register, CR bit or byte of memory changed
(60 R609). -/
def Obligations.FloatUnavailable : Prop :=
  ∀ (s : State) (i : Instr), isFloat i = true → (only64 i = true → s.cfg.impl64 = true) → optionHolds s.cfg i = true →
    s.fpOn = false →
    ∃ t, exec i s = .next t ∧ t.nia = vectorBase t.msr + 0x800 ∧ t.srr0 = s.ea32 s.nia &&& ~~~ 3 ∧
      t.srr1 &&& 0x783F0000 = 0 ∧ t.fpr = s.fpr ∧ t.fprSingle = s.fprSingle ∧ t.fpscr = s.fpscr ∧ t.gpr = s.gpr ∧
      t.cr = s.cr ∧ sameMemory s t

/-- The special-purpose registers an instruction can write and read back, with the width of each (10_state R43, which also gives the
BATs, 528 to 543, the width XLEN, where 00_scope R12 calls them 32-bit registers: log 39). -/
def sprWidth (c : Config) (n : Nat) : Option Nat :=
  if n = 1 ∨ n = 18 ∨ n = 22 then some 32
  else if n = 8 ∨ n = 9 ∨ n = 19 ∨ n = 25 ∨ n = 26 ∨ n = 27 ∨ (272 ≤ n ∧ n ≤ 275) ∨ (528 ≤ n ∧ n ≤ 543) ∨ n = 1013 then some 64
  else if n = 280 ∧ c.impl64 = true then some 64
  else if n = 282 ∧ c.optExtctl = true then some 32
  else none

/-- A register number that no register has raises the illegal instruction exception, unless it names a supervisor-level register
(its bit of value 16 is set) in user mode: then the privileged one (48 R527, R530; 60 R606). PVR (287) is only read, TBL and TBU
(284, 285) are only written, TBR 268 and 269 are read by `mftb`. -/
def undefinedRegister (s : State) (n : BitVec 10) (r : Result) : Prop :=
  (n.getLsbD 4 = true ∧ s.pr = true → trapsTo .privileged s r) ∧
    (¬ (n.getLsbD 4 = true ∧ s.pr = true) → trapsTo .illegal s r)

/-- A 32-bit implementation raises the illegal instruction exception for instructions defined only for 64-bit ones, every
implementation for the optional instructions it lacks, and `mfspr`, `mtspr` and `mftb` for numbers that no register has (60 R606;
48 R527, R530). -/
def Obligations.AbsentInstructionsTrap : Prop :=
  (∀ (s : State) (i : Instr), (only64 i = true ∧ s.cfg.impl64 = false) ∨ optionHolds s.cfg i = false →
    trapsTo .illegal s (exec i s)) ∧
  ∀ (s : State) (r : BitVec 5) (n : BitVec 10),
    (sprWidth s.cfg n.toNat = none → n ≠ 287 → undefinedRegister s n (exec (.mfspr r n) s)) ∧
    (sprWidth s.cfg n.toNat = none → n ≠ 284 → n ≠ 285 → undefinedRegister s n (exec (.mtspr r n) s)) ∧
    (n ≠ 268 → n ≠ 269 → undefinedRegister s n (exec (.mftb r n) s))

/-- A bit that an exception entry saves to SRR1 (60 R602). -/
def savedBit (k : Nat) : Bool := k == 0 || (48 ≤ k && k ≤ 55) || (57 ≤ k && k ≤ 59) || k == 62 || k == 63

/-- A bit that an exception entry clears in SRR1 (60 R602). -/
def clearedBit (k : Nat) : Bool := (33 ≤ k && k ≤ 36) || (42 ≤ k && k ≤ 47)

/-- A status bit that an entry sets (60 R627). -/
def statusBit (e : Exc) (k : Nat) : Bool :=
  match e with
  | .program .fpEnabled => k == 43
  | .program .illegal => k == 44
  | .program .privileged => k == 45
  | .program .trap => k == 46
  | .isi .noTranslation => k == 33
  | .isi .noExecute => k == 35
  | .isi .protection => k == 36
  | .isi .segmentSearch => k == 42
  | _ => false

/-- DSISR and DAR after an exception: DSI writes both, alignment writes DAR and leaves DSISR undefined, no other writes them
(60 R610, R611). -/
def faultRegisters (e : Exc) (s t : State) : Prop :=
  match e with
  | .dsi ea status => t.dsisr = status ∧ t.dar = s.norm ea ∧ t.draws = s.draws
  | .alignment ea => t.dar = s.norm ea
  | _ => t.dsisr = s.dsisr ∧ t.dar = s.dar ∧ t.draws = s.draws

/-- Taking an exception (60 R602, R610, R611, R627, R629): SRR0, SRR1 bit by bit (bits 32 to 63 on a 32-bit implementation),
DSISR and DAR, the trace of exceptions entered, the blocks that context synchronization makes fetchable; every other register, the
reservation and memory stay. That the SRR1 bits which no rule lists keep their old values is R602's own reading and this model's
choice (log 29); that a pending floating-point exception is dropped is log 37. -/
def Obligations.EntrySaves : Prop :=
  ∀ (e : Exc) (ret : Dword) (s : State),
    let t := enter e ret s
    t.srr0 = s.ea32 ret &&& ~~~ 3 ∧
    (∀ k, k < 64 → s.cfg.impl64 = true ∨ 32 ≤ k → t.srr1.getMsbD k =
      if savedBit k then s.msr.getMsbD k else if clearedBit k then statusBit e k else s.srr1.getMsbD k) ∧
    faultRegisters e s t ∧ t.entered = s.entered ++ [e] ∧ entryFrame s t ∧ sameMemory s t

/-- The vector offset of an exception (60 R601). -/
def vectorOf (e : Exc) : Dword :=
  match e with
  | .systemReset => 0x100
  | .machineCheck => 0x200
  | .dsi _ _ => 0x300
  | .isi _ => 0x400
  | .external => 0x500
  | .alignment _ => 0x600
  | .program _ => 0x700
  | .fpUnavailable => 0x800
  | .decrementer => 0x900
  | .systemCall => 0xC00
  | .trace => 0xD00

/-- The MSR after an exception: POW, EE, PR, FP, FE0, SE, BE, FE1, IR, DR and RI are 0, LE is the old ILE, SF is 1 on a 64-bit
implementation, ME is kept but by a machine check, ILE and IP are kept; the pc is the vector under IP (60 R601, R602). -/
def Obligations.EntryMode : Prop :=
  ∀ (e : Exc) (ret : Dword) (s : State),
    let t := enter e ret s
    t.pow = false ∧ t.ee = false ∧ t.pr = false ∧ t.fpOn = false ∧ t.fe = false ∧ t.se = false ∧ t.be = false ∧
      t.ir = false ∧ t.dr = false ∧ t.msr.getMsbD 62 = false ∧ t.le = s.msr.getMsbD 47 ∧ t.sf = s.cfg.impl64 ∧
      (e ≠ .machineCheck → t.me = s.me) ∧ (e = .machineCheck → t.me = false) ∧
      t.msr.getMsbD 47 = s.msr.getMsbD 47 ∧ t.msr.getMsbD 57 = s.msr.getMsbD 57 ∧
      t.nia = (if s.msr.getMsbD 57 then 0xFFF00000 else 0) + vectorOf e

/-- `sc`: the system call exception with SRR0 = CIA + 4, noted in the trace of exceptions, and nothing but SRR0, SRR1, the MSR, the
pc, the synchronization marks and the pending bits changed (47 R494). -/
def Obligations.SystemCall : Prop :=
  ∀ s : State, ∃ t, exec .sc s = .next t ∧ t.srr0 = s.ea32 (s.nia + 4) &&& ~~~ 3 ∧
    t.nia = (if s.msr.getMsbD 57 then 0xFFF00000 else 0) + 0xC00 ∧ t.pr = false ∧ t.ee = false ∧
    t.entered = s.entered ++ [.systemCall] ∧ t.dsisr = s.dsisr ∧ t.dar = s.dar ∧ t.draws = s.draws ∧ entryFrame s t ∧
    sameMemory s t

/-- The bits that rfi restores from SRR1. -/
def rfiBit (k : Nat) : Bool := (48 ≤ k && k ≤ 55) || (57 ≤ k && k ≤ 59) || k == 62 || k == 63

/-- A return from an exception: the pc is SRR0 under the new mode, the context is synchronized, a floating-point exception becomes
pending by the rule of 60 R608 (b), and besides only the MSR changes (47 R495, R496; 70 R660, R661). -/
def returnEffect (s t : State) : Prop :=
  t.nia = t.ea32 s.srr0 &&& ~~~ 3 ∧ notesFp s t ∧ blocksSynced s t ∧
    t = { s with msr := t.msr, nia := t.nia, staleInsn := t.staleInsn, icbiDone := [], stale := StaleMarks.none,
                 fpPending := t.fpPending } ∧ sameMemory s t

/-- `rfid` (supervisor mode, 64-bit implementation) and `rfi` (supervisor mode, where it exists): the MSR bits listed come from
SRR1, the others stay (log 29), the pc is SRR0 under the new mode; registers and memory are unchanged (47 R495, R496). -/
def Obligations.ReturnFromInterrupt : Prop :=
  ∀ s : State, s.pr = false →
    (s.cfg.impl64 = true → ∃ t, exec .rfid s = .next t ∧ returnEffect s t ∧
      ∀ k, k < 64 → t.msr.getMsbD k = if savedBit k then s.srr1.getMsbD k else s.msr.getMsbD k) ∧
    ((s.cfg.impl64 = false ∨ s.cfg.bridgeMtmsrRfi = true) → ∃ t, exec .rfi s = .next t ∧ returnEffect s t ∧
      (∀ k, 32 ≤ k → k < 64 → t.msr.getMsbD k = if rfiBit k then s.srr1.getMsbD k else s.msr.getMsbD k) ∧
      (s.cfg.impl64 = true → high t.msr = high s.msr))

/-- One of the five comparisons that TO selects holds (47 R501). -/
def trapHolds (tof : BitVec 5) (a b : Int) (ua ub : Nat) : Prop :=
  (tof.getMsbD 0 = true ∧ a < b) ∨ (tof.getMsbD 1 = true ∧ b < a) ∨ (tof.getMsbD 2 = true ∧ a = b) ∨
    (tof.getMsbD 3 = true ∧ ua < ub) ∨ (tof.getMsbD 4 = true ∧ ub < ua)

/-- A trap instruction raises the trap exception when its condition holds, and otherwise only advances the pc. -/
def trapEffect (s : State) (c : Prop) (r : Result) : Prop :=
  (c → trapsTo .trap s r) ∧ (¬c → r = .next { s with nia := s.nextPc })

/-- `tw`, `twi` on the low words, `td`, `tdi` (64-bit implementations) on the whole registers (47 R497 to R501). -/
def Obligations.Traps : Prop :=
  ∀ (s : State) (tof ra rb : BitVec 5) (simm : BitVec 16),
    trapEffect s (trapHolds tof (low (s.getGpr ra)).toInt (low (s.getGpr rb)).toInt (low (s.getGpr ra)).toNat
      (low (s.getGpr rb)).toNat) (exec (.tw tof ra rb) s) ∧
    trapEffect s (trapHolds tof (low (s.getGpr ra)).toInt simm.toInt (low (s.getGpr ra)).toNat
      (simm.signExtend 32).toNat) (exec (.twi tof ra simm) s) ∧
    (s.cfg.impl64 = true →
      trapEffect s (trapHolds tof (s.getGpr ra).toInt (s.getGpr rb).toInt (s.getGpr ra).toNat (s.getGpr rb).toNat)
        (exec (.td tof ra rb) s) ∧
      trapEffect s (trapHolds tof (s.getGpr ra).toInt simm.toInt (s.getGpr ra).toNat (simm.signExtend 64).toNat)
        (exec (.tdi tof ra simm) s))

/-- The forms that 30 R165 calls invalid stop, where the instruction exists, floating point is on where it is needed and the mode
allows the instruction (60 R619). -/
def Obligations.InvalidFormsStop : Prop :=
  ∀ (s : State) (i : Instr), preCheck i s = none → i.wellFormed s.cfg.impl64 = false → exec i s = .fault .invalidForm

/-! ## Integer arithmetic -/

/-- The sum of two registers' values and a carry, with CA (when `carries`), OV and SO (when `oe`) and CR0 (when `rc`): carry
and overflow are those of the exact unsigned and signed sums in the mode's width (40 R201, R202). -/
def addEffect (s : State) (rd : BitVec 5) (carries oe rc : Bool) (x y : Dword) (c : Bool) (r : Result) : Prop :=
  integerEffect s rd (BitVec.ofNat 64 (x.toNat + y.toNat + c.toNat))
    (if carries then some (decide (2 ^ s.width ≤ s.unsignedPart x + s.unsignedPart y + c.toNat)) else none)
    (if oe then some (outside s.width (s.signedPart x + s.signedPart y + c.toNat)) else none) rc r

/-- The adding instructions (40 R203 to R218): the sum of what the page names, flags and frame. -/
def Obligations.AddFamily : Prop :=
  ∀ (s : State) (rd ra rb : BitVec 5) (oe rc : Bool) (simm : BitVec 16),
    addEffect s rd false false false (if ra = 0 then 0 else s.getGpr ra) (simm.signExtend 64) false
      (exec (.addi rd ra simm) s) ∧
    addEffect s rd false false false (if ra = 0 then 0 else s.getGpr ra) (BitVec.ofInt 64 (simm.toInt * 65536)) false
      (exec (.addis rd ra simm) s) ∧
    addEffect s rd false oe rc (s.getGpr ra) (s.getGpr rb) false (exec (.addx rd ra rb oe rc) s) ∧
    addEffect s rd true oe rc (s.getGpr ra) (s.getGpr rb) false (exec (.addcx rd ra rb oe rc) s) ∧
    addEffect s rd true oe rc (s.getGpr ra) (s.getGpr rb) s.ca (exec (.addex rd ra rb oe rc) s) ∧
    addEffect s rd true false false (s.getGpr ra) (simm.signExtend 64) false (exec (.addic rd ra simm) s) ∧
    addEffect s rd true false true (s.getGpr ra) (simm.signExtend 64) false (exec (.addicDot rd ra simm) s) ∧
    addEffect s rd true oe rc (s.getGpr ra) (BitVec.allOnes 64) s.ca (exec (.addmex rd ra oe rc) s) ∧
    addEffect s rd true oe rc (s.getGpr ra) 0 s.ca (exec (.addzex rd ra oe rc) s) ∧
    addEffect s rd true oe rc (~~~ s.getGpr ra) (s.getGpr rb) s.ca (exec (.subfex rd ra rb oe rc) s) ∧
    addEffect s rd true oe rc (~~~ s.getGpr ra) (BitVec.allOnes 64) s.ca (exec (.subfmex rd ra oe rc) s) ∧
    addEffect s rd true oe rc (~~~ s.getGpr ra) 0 s.ca (exec (.subfzex rd ra oe rc) s)

/-- The subtracting instructions give the difference; CA is 1 when there is no borrow, OV when the exact signed difference is
out of range (40 R212, R213, R215, R218). -/
def Obligations.SubtractFamily : Prop :=
  ∀ (s : State) (rd ra rb : BitVec 5) (oe rc : Bool) (simm : BitVec 16),
    integerEffect s rd (s.getGpr rb - s.getGpr ra) none
      (if oe then some (outside s.width (s.signedPart (s.getGpr rb) - s.signedPart (s.getGpr ra))) else none) rc
      (exec (.subfx rd ra rb oe rc) s) ∧
    integerEffect s rd (s.getGpr rb - s.getGpr ra)
      (some (decide (s.unsignedPart (s.getGpr ra) ≤ s.unsignedPart (s.getGpr rb))))
      (if oe then some (outside s.width (s.signedPart (s.getGpr rb) - s.signedPart (s.getGpr ra))) else none) rc
      (exec (.subfcx rd ra rb oe rc) s) ∧
    integerEffect s rd (simm.signExtend 64 - s.getGpr ra)
      (some (decide (s.unsignedPart (s.getGpr ra) ≤ s.unsignedPart (simm.signExtend 64)))) none false
      (exec (.subfic rd ra simm) s) ∧
    integerEffect s rd (-s.getGpr ra) none
      (if oe then some (outside s.width (-s.signedPart (s.getGpr ra))) else none) rc (exec (.negx rd ra oe rc) s)

/-- The multiplications (40 R219 to R225): low and high halves of the exact products, and OV where the product does not fit. -/
def Obligations.Multiply : Prop :=
  ∀ (s : State) (rd ra rb : BitVec 5) (oe rc : Bool) (simm : BitVec 16),
    integerEffect s rd (BitVec.ofInt 64 ((s.getGpr ra).toInt * simm.toInt)) none none false (exec (.mulli rd ra simm) s) ∧
    integerEffect s rd (BitVec.ofInt 64 ((low (s.getGpr ra)).toInt * (low (s.getGpr rb)).toInt)) none
      (if oe then some (outside 32 ((low (s.getGpr ra)).toInt * (low (s.getGpr rb)).toInt)) else none) rc
      (exec (.mullwx rd ra rb oe rc) s) ∧
    wordEffect s rd (BitVec.ofInt 32 ((low (s.getGpr ra)).toInt * (low (s.getGpr rb)).toInt / 2 ^ 32)) none rc
      (exec (.mulhwx rd ra rb rc) s) ∧
    wordEffect s rd (BitVec.ofNat 32 ((low (s.getGpr ra)).toNat * (low (s.getGpr rb)).toNat / 2 ^ 32)) none rc
      (exec (.mulhwux rd ra rb rc) s) ∧
    (s.cfg.impl64 = true →
      integerEffect s rd (BitVec.ofInt 64 ((s.getGpr ra).toInt * (s.getGpr rb).toInt)) none
        (if oe then some (outside 64 ((s.getGpr ra).toInt * (s.getGpr rb).toInt)) else none) rc
        (exec (.mulldx rd ra rb oe rc) s) ∧
      integerEffect s rd (BitVec.ofInt 64 ((s.getGpr ra).toInt * (s.getGpr rb).toInt / 2 ^ 64)) none none rc
        (exec (.mulhdx rd ra rb rc) s) ∧
      integerEffect s rd (BitVec.ofNat 64 ((s.getGpr ra).toNat * (s.getGpr rb).toNat / 2 ^ 64)) none none rc
        (exec (.mulhdux rd ra rb rc) s))

/-- `q` is the quotient of `a` by `b` truncated toward zero: the remainder is smaller than the divisor and has the sign of the
dividend (40 R226). -/
def quotientOf (a b q : Int) : Prop := (a - q * b).natAbs < b.natAbs ∧ 0 ≤ (a - q * b) * a

/-- The divisions: the quotient where it is defined; where the divisor is 0 (or the most negative number is divided by -1) rD is
undefined, OV is 1 with OE, and the instruction still completes (40 R226 to R229). -/
def Obligations.Divide : Prop :=
  ∀ (s : State) (rd ra rb : BitVec 5) (oe rc : Bool),
    (∀ q : Int, -(2 : Int) ^ 31 ≤ q → q < 2 ^ 31 → quotientOf (low (s.getGpr ra)).toInt (low (s.getGpr rb)).toInt q →
      wordEffect s rd (BitVec.ofInt 32 q) (if oe then some false else none) rc (exec (.divwx rd ra rb oe rc) s)) ∧
    ((low (s.getGpr rb) = 0 ∨ (low (s.getGpr ra) = 0x80000000 ∧ low (s.getGpr rb) = 0xFFFFFFFF)) →
      undefinedEffect s rd oe rc (exec (.divwx rd ra rb oe rc) s)) ∧
    (low (s.getGpr rb) ≠ 0 →
      wordEffect s rd (low (s.getGpr ra) / low (s.getGpr rb)) (if oe then some false else none) rc
        (exec (.divwux rd ra rb oe rc) s)) ∧
    (low (s.getGpr rb) = 0 → undefinedEffect s rd oe rc (exec (.divwux rd ra rb oe rc) s)) ∧
    (s.cfg.impl64 = true →
      (∀ q : Int, -(2 : Int) ^ 63 ≤ q → q < 2 ^ 63 → quotientOf (s.getGpr ra).toInt (s.getGpr rb).toInt q →
        integerEffect s rd (BitVec.ofInt 64 q) none (if oe then some false else none) rc (exec (.divdx rd ra rb oe rc) s)) ∧
      ((s.getGpr rb = 0 ∨ (s.getGpr ra = 0x8000000000000000 ∧ s.getGpr rb = 0xFFFFFFFFFFFFFFFF)) →
        undefinedEffect s rd oe rc (exec (.divdx rd ra rb oe rc) s)) ∧
      (s.getGpr rb ≠ 0 →
        integerEffect s rd (s.getGpr ra / s.getGpr rb) none (if oe then some false else none) rc
          (exec (.divdux rd ra rb oe rc) s)) ∧
      (s.getGpr rb = 0 → undefinedEffect s rd oe rc (exec (.divdux rd ra rb oe rc) s)))

/-! ## Compare and logical -/

/-- A compare completes: one CR field receives the order and SO, nothing else changes. -/
def compareEffect (s : State) (crfd : BitVec 3) (a b : Int) (r : Result) : Prop :=
  ∃ t, r = .next t ∧ t = { s with cr := t.cr, nia := s.nextPc } ∧ sameMemory s t ∧ t.crField crfd = orderOf a b s.so ∧
    crKept s t [crfd]

/-- The compares (41 R241 to R244): on whole registers with L = 1 (64-bit implementations), on low words with L = 0. -/
def Obligations.Compare : Prop :=
  ∀ (s : State) (crfd : BitVec 3) (ra rb : BitVec 5) (imm : BitVec 16),
    compareEffect s crfd (low (s.getGpr ra)).toInt imm.toInt (exec (.cmpi crfd false ra imm) s) ∧
    compareEffect s crfd (low (s.getGpr ra)).toInt (low (s.getGpr rb)).toInt (exec (.cmp crfd false ra rb) s) ∧
    compareEffect s crfd (low (s.getGpr ra)).toNat imm.toNat (exec (.cmpli crfd false ra imm) s) ∧
    compareEffect s crfd (low (s.getGpr ra)).toNat (low (s.getGpr rb)).toNat (exec (.cmpl crfd false ra rb) s) ∧
    (s.cfg.impl64 = true →
      compareEffect s crfd (s.getGpr ra).toInt imm.toInt (exec (.cmpi crfd true ra imm) s) ∧
      compareEffect s crfd (s.getGpr ra).toInt (s.getGpr rb).toInt (exec (.cmp crfd true ra rb) s) ∧
      compareEffect s crfd (s.getGpr ra).toNat imm.toNat (exec (.cmpli crfd true ra imm) s) ∧
      compareEffect s crfd (s.getGpr ra).toNat (s.getGpr rb).toNat (exec (.cmpl crfd true ra rb) s))

/-- A logical instruction completes with the value whose bits `f` gives. -/
def logicalEffect (s : State) (ra : BitVec 5) (rc : Bool) (f : Nat → Bool) (r : Result) : Prop :=
  ∃ v : Dword, (∀ k, k < 64 → v.getMsbD k = f k) ∧ integerEffect s ra v none none rc r

/-- The logical instructions, bit by bit; the immediate stands in bits 48:63 or 32:47; `andi.` and `andis.` always record.
Sign extension repeats the sign bit; count leading zeros gives the number of zeros before the first one, 32 or 64 where there
is none (41 R245 to R263). -/
def Obligations.Logical : Prop :=
  ∀ (s : State) (rs ra rb : BitVec 5) (rc : Bool) (imm : BitVec 16),
    let a := (s.getGpr rs).getMsbD
    let b := (s.getGpr rb).getMsbD
    let i := fun k => 48 ≤ k && imm.getMsbD (k - 48)
    let j := fun k => 32 ≤ k && k < 48 && imm.getMsbD (k - 32)
    logicalEffect s ra true (fun k => a k && i k) (exec (.andiDot rs ra imm) s) ∧
    logicalEffect s ra true (fun k => a k && j k) (exec (.andisDot rs ra imm) s) ∧
    logicalEffect s ra false (fun k => a k || i k) (exec (.ori rs ra imm) s) ∧
    logicalEffect s ra false (fun k => a k || j k) (exec (.oris rs ra imm) s) ∧
    logicalEffect s ra false (fun k => a k != i k) (exec (.xori rs ra imm) s) ∧
    logicalEffect s ra false (fun k => a k != j k) (exec (.xoris rs ra imm) s) ∧
    logicalEffect s ra rc (fun k => a k && b k) (exec (.andx rs ra rb rc) s) ∧
    logicalEffect s ra rc (fun k => a k || b k) (exec (.orx rs ra rb rc) s) ∧
    logicalEffect s ra rc (fun k => a k != b k) (exec (.xorx rs ra rb rc) s) ∧
    logicalEffect s ra rc (fun k => !(a k && b k)) (exec (.nandx rs ra rb rc) s) ∧
    logicalEffect s ra rc (fun k => !(a k || b k)) (exec (.norx rs ra rb rc) s) ∧
    logicalEffect s ra rc (fun k => a k == b k) (exec (.eqvx rs ra rb rc) s) ∧
    logicalEffect s ra rc (fun k => a k && !b k) (exec (.andcx rs ra rb rc) s) ∧
    logicalEffect s ra rc (fun k => a k || !b k) (exec (.orcx rs ra rb rc) s) ∧
    logicalEffect s ra rc (fun k => if k < 56 then a 56 else a k) (exec (.extsbx rs ra rc) s) ∧
    logicalEffect s ra rc (fun k => if k < 48 then a 48 else a k) (exec (.extshx rs ra rc) s) ∧
    (s.cfg.impl64 = true → logicalEffect s ra rc (fun k => if k < 32 then a 32 else a k) (exec (.extswx rs ra rc) s)) ∧
    (∀ n, n ≤ 32 → (∀ k, k < n → a (32 + k) = false) → (n < 32 → a (32 + n) = true) →
      integerEffect s ra (BitVec.ofNat 64 n) none none rc (exec (.cntlzwx rs ra rc) s)) ∧
    (s.cfg.impl64 = true →
      ∀ n, n ≤ 64 → (∀ k, k < n → a k = false) → (n < 64 → a n = true) →
        integerEffect s ra (BitVec.ofNat 64 n) none none rc (exec (.cntlzdx rs ra rc) s))

/-! ## Rotate and shift -/

/-- A word rotate completes: the low half of rA has the bits `f`, and its high half `h`, but an undefined value where the mask
wraps on a 64-bit implementation (42 R281). -/
def wordRotateEffect (s : State) (ra : BitVec 5) (rc wraps : Bool) (h : Word) (f : Nat → Bool) (r : Result) : Prop :=
  ∃ (t : State) (v : Dword), r = .next t ∧ integerFrame s t ∧ t.getGpr ra = s.norm v ∧ (∀ k, k < 32 → (low v).getMsbD k = f k) ∧
    ((wraps && s.cfg.impl64) = false → high v = h ∧ t.draws = s.draws) ∧ gprsKept s t [ra] ∧ xerEffect s t none none ∧
    cr0Effect s t rc v

/-- Bit `k` lies in the mask from MB to ME, which wraps when MB > ME (00_scope R14). -/
def inMask (mb me k : Nat) : Bool := if mb ≤ me then mb ≤ k && k ≤ me else mb ≤ k || k ≤ me

/-- `rlwinm`, `rlwnm`, `rlwimi`: bit `k` of the low word is the rotated bit inside the mask, and 0 (the old bit, for `rlwimi`)
outside it (42 R281 to R284). -/
def wordRotates : Prop :=
  ∀ (s : State) (rs ra rb sh mb me : BitVec 5) (rc : Bool),
    let a := (low (s.getGpr rs)).getMsbD
    let n := ((s.getGpr rb).setWidth 5).toNat
    wordRotateEffect s ra rc (decide (me.toNat < mb.toNat)) 0
      (fun k => inMask mb.toNat me.toNat k && a ((k + sh.toNat) % 32)) (exec (.rlwinmx rs ra sh mb me rc) s) ∧
    wordRotateEffect s ra rc (decide (me.toNat < mb.toNat)) 0
      (fun k => inMask mb.toNat me.toNat k && a ((k + n) % 32)) (exec (.rlwnmx rs ra rb mb me rc) s) ∧
    wordRotateEffect s ra rc (decide (me.toNat < mb.toNat)) (high (s.getGpr ra))
      (fun k => if inMask mb.toNat me.toNat k then a ((k + sh.toNat) % 32) else (low (s.getGpr ra)).getMsbD k)
      (exec (.rlwimix rs ra sh mb me rc) s)

/-- The double-word rotates (42 R285 to R290). -/
def doubleRotates : Prop :=
  ∀ (s : State) (rs ra rb : BitVec 5) (sh mb : BitVec 6) (rc : Bool), s.cfg.impl64 = true →
    let a := fun n k => (s.getGpr rs).getMsbD ((k + n) % 64)
    let n := ((s.getGpr rb).setWidth 6).toNat
    logicalEffect s ra rc (fun k => mb.toNat ≤ k && a sh.toNat k) (exec (.rldiclx rs ra sh mb rc) s) ∧
    logicalEffect s ra rc (fun k => k ≤ mb.toNat && a sh.toNat k) (exec (.rldicrx rs ra sh mb rc) s) ∧
    logicalEffect s ra rc (fun k => inMask mb.toNat (63 - sh.toNat) k && a sh.toNat k) (exec (.rldicx rs ra sh mb rc) s) ∧
    logicalEffect s ra rc
      (fun k => if inMask mb.toNat (63 - sh.toNat) k then a sh.toNat k else (s.getGpr ra).getMsbD k)
      (exec (.rldimix rs ra sh mb rc) s) ∧
    logicalEffect s ra rc (fun k => mb.toNat ≤ k && a n k) (exec (.rldclx rs ra rb mb rc) s) ∧
    logicalEffect s ra rc (fun k => k ≤ mb.toNat && a n k) (exec (.rldcrx rs ra rb mb rc) s)

/-- The rotates: words, and double words on 64-bit implementations (42 R281 to R290). -/
def Obligations.Rotate : Prop := wordRotates ∧ doubleRotates

/-- An algebraic shift completes: the value divided by 2 ^ n, rounded down, and CA when it is negative and not divisible. -/
def algebraicEffect (s : State) (ra : BitVec 5) (rc : Bool) (a : Int) (n : Nat) (r : Result) : Prop :=
  integerEffect s ra (BitVec.ofInt 64 (a / 2 ^ n)) (some (decide (a < 0 ∧ a % 2 ^ n ≠ 0))) none rc r

/-- The shifts multiply and divide by a power of two; the count is six bits of rB for words and seven for double words, and a
count past the width leaves 0 or the sign (42 R291 to R298). -/
def Obligations.Shift : Prop :=
  ∀ (s : State) (rs ra rb sh : BitVec 5) (sh6 : BitVec 6) (rc : Bool),
    let a := low (s.getGpr rs)
    let n := (s.getGpr rb).toNat % 64
    let m := (s.getGpr rb).toNat % 128
    integerEffect s ra (BitVec.ofNat 64 (a.toNat * 2 ^ n % 2 ^ 32)) none none rc (exec (.slwx rs ra rb rc) s) ∧
    integerEffect s ra (BitVec.ofNat 64 (a.toNat / 2 ^ n)) none none rc (exec (.srwx rs ra rb rc) s) ∧
    algebraicEffect s ra rc a.toInt n (exec (.srawx rs ra rb rc) s) ∧
    algebraicEffect s ra rc a.toInt sh.toNat (exec (.srawix rs ra sh rc) s) ∧
    (s.cfg.impl64 = true →
      integerEffect s ra (BitVec.ofNat 64 ((s.getGpr rs).toNat * 2 ^ m)) none none rc (exec (.sldx rs ra rb rc) s) ∧
      integerEffect s ra (BitVec.ofNat 64 ((s.getGpr rs).toNat / 2 ^ m)) none none rc (exec (.srdx rs ra rb rc) s) ∧
      algebraicEffect s ra rc (s.getGpr rs).toInt m (exec (.sradx rs ra rb rc) s) ∧
      algebraicEffect s ra rc (s.getGpr rs).toInt sh6.toNat (exec (.sradix rs ra sh6 rc) s))

/-! ## Branches and the condition register -/

/-- A branch completes at `target` when `taken`, else at CIA + 4; LR is CIA + 4 when `lk`; CTR is `ctr`; nothing else changes, but
that after an unsynchronized change of the computation mode a fetch that depends on it is marked: an address has a high half that
32-bit mode cuts off, or the test of CTR comes out otherwise in the other mode (`byMode`) (70 R660; log 14). -/
def branchEffect (s : State) (ctr : Dword) (taken byMode lk : Bool) (target : Dword) (r : Result) : Prop :=
  r = .next { s with
    ctr := ctr, lr := if lk then s.norm (s.ea32 (s.nia + 4)) else s.lr,
    nia := if taken then s.ea32 target &&& ~~~ 3 else s.nextPc,
    stale := { s.stale with sfCut :=
      s.stale.sfCut || (s.stale.sf && (byMode || (!s.mode64 && high (if taken then target else s.nia + 4) != 0))) } }

/-- The counter after BO[2] = 0 has decremented it. -/
def countedDown (s : State) (bo : BitVec 5) : Dword := if bo.getMsbD 2 then s.ctr else s.norm (s.ctr - 1)

/-- The branch is taken: the counter test (BO[2], BO[3]) on the mode's width and the condition test (BO[0], BO[1]) (47 R480). -/
def branchTaken (s : State) (bo bi : BitVec 5) : Bool :=
  (bo.getMsbD 2 || ((s.unsignedPart (countedDown s bo) != 0) != bo.getMsbD 3)) &&
    (bo.getMsbD 0 || s.cr.getMsbD bi.toNat == bo.getMsbD 1)

/-- The counter has come down to 0 in its low word alone, and the condition test leaves the branch to it: 32-bit and 64-bit mode
branch differently (47 R480). -/
def countedByMode (s : State) (bo bi : BitVec 5) : Bool :=
  !bo.getMsbD 2 && (bo.getMsbD 0 || s.cr.getMsbD bi.toNat == bo.getMsbD 1) && low (countedDown s bo) == 0 &&
    high (countedDown s bo) != 0

/-- The branches (47 R480 to R484); a relative target is CIA plus the signed displacement; `bclr` goes to the old LR; `bcctr`
needs BO[2] = 1. The marks of an unsynchronized change of the computation mode have the model's shape (70 R660; log 14). -/
def Obligations.Branches : Prop :=
  ∀ (s : State) (li : BitVec 24) (bo bi : BitVec 5) (bd : BitVec 14) (aa lk : Bool),
    branchEffect s s.ctr true false lk ((if aa then 0 else s.nia) + BitVec.ofInt 64 (li.toInt * 4)) (exec (.bx li aa lk) s) ∧
    branchEffect s (countedDown s bo) (branchTaken s bo bi) (countedByMode s bo bi) lk
      ((if aa then 0 else s.nia) + BitVec.ofInt 64 (bd.toInt * 4)) (exec (.bcx bo bi bd aa lk) s) ∧
    branchEffect s (countedDown s bo) (branchTaken s bo bi) (countedByMode s bo bi) lk s.lr (exec (.bclrx bo bi lk) s) ∧
    (bo.getMsbD 2 = true → branchEffect s s.ctr (branchTaken s bo bi) false lk s.ctr (exec (.bcctrx bo bi lk) s))

/-- A CR logical instruction completes: bit crbD is `v`, every other bit of CR and every other part of the state stays. -/
def crBitEffect (s : State) (crbd : BitVec 5) (v : Bool) (r : Result) : Prop :=
  ∃ t, r = .next t ∧ t = { s with cr := t.cr, nia := s.nextPc } ∧ sameMemory s t ∧ t.crBit crbd = v ∧
    ∀ q, q ≠ crbd → t.crBit q = s.crBit q

/-- The CR logical instructions and `mcrf` (47 R485 to R493). -/
def Obligations.ConditionLogic : Prop :=
  ∀ (s : State) (d a b : BitVec 5) (crfd crfs : BitVec 3),
    crBitEffect s d (s.crBit a && s.crBit b) (exec (.crand d a b) s) ∧
    crBitEffect s d (s.crBit a || s.crBit b) (exec (.cror d a b) s) ∧
    crBitEffect s d (s.crBit a ^^ s.crBit b) (exec (.crxor d a b) s) ∧
    crBitEffect s d (!(s.crBit a && s.crBit b)) (exec (.crnand d a b) s) ∧
    crBitEffect s d (!(s.crBit a || s.crBit b)) (exec (.crnor d a b) s) ∧
    crBitEffect s d (!(s.crBit a ^^ s.crBit b)) (exec (.creqv d a b) s) ∧
    crBitEffect s d (s.crBit a && !s.crBit b) (exec (.crandc d a b) s) ∧
    crBitEffect s d (s.crBit a || !s.crBit b) (exec (.crorc d a b) s) ∧
    (∃ t, exec (.mcrf crfd crfs) s = .next t ∧ t = { s with cr := t.cr, nia := s.nextPc } ∧ sameMemory s t ∧
      t.crField crfd = s.crField crfs ∧ crKept s t [crfd])

/-! ## Processor control -/

/-- Moves between a general register and CR, and from XER to CR (48 R521 to R523). -/
def Obligations.MoveConditionRegister : Prop :=
  ∀ (s : State) (r : BitVec 5) (crm : BitVec 8) (crfd : BitVec 3),
    integerEffect s r (s.cr.setWidth 64) none none false (exec (.mfcr r) s) ∧
    (∃ t, exec (.mtcrf r crm) s = .next t ∧ t = { s with cr := t.cr, nia := s.nextPc } ∧ sameMemory s t ∧
      ∀ k, k < 32 → t.cr.getMsbD k = if crm.getMsbD (k / 4) then (s.getGpr r).getMsbD (32 + k) else s.cr.getMsbD k) ∧
    (∃ t, exec (.mcrxr crfd) s = .next t ∧ t = { s with cr := t.cr, xer := t.xer, nia := s.nextPc } ∧ sameMemory s t ∧
      t.crField crfd = slice 4 s.xer 0 ∧ crKept s t [crfd] ∧
      ∀ k, k < 32 → t.xer.getMsbD k = (decide (4 ≤ k) && s.xer.getMsbD k))

/-- An MSR move completes: the pc advances under the old mode and is seen under the new one, the marks follow the bits that have
changed, a floating-point exception becomes pending by the rule of 60 R608 (b), and besides only the MSR changes. -/
def msrMoveEffect (s t : State) : Prop :=
  marksMsr s t ∧ notesFp s t ∧
    t = { s with msr := t.msr, nia := t.ea32 s.nextPc, stale := t.stale, fpPending := t.fpPending } ∧ sameMemory s t

/-- The MSR moves in supervisor mode: `mfmsr` reads the whole MSR, `mtmsrd` writes it, `mtmsr` writes its low half; the pc
advances, and only the marks of context changes (70 R660; log 14) and the pending floating-point exception (60 R608) change
besides, as their rules say (48 R524 to R526). -/
def Obligations.MoveMachineState : Prop :=
  ∀ (s : State) (r : BitVec 5), s.pr = false →
    integerEffect s r s.msr none none false (exec (.mfmsr r) s) ∧
    (s.cfg.impl64 = true → ∃ t, exec (.mtmsrd r) s = .next t ∧ t.msr = s.getGpr r ∧ msrMoveEffect s t) ∧
    ((s.cfg.impl64 = false ∨ s.cfg.bridgeMtmsrRfi = true) →
      ∃ t, exec (.mtmsr r) s = .next t ∧ low t.msr = low (s.getGpr r) ∧ (s.cfg.impl64 = true → high t.msr = high s.msr) ∧
        (s.cfg.impl64 = false → high t.msr = 0) ∧ msrMoveEffect s t)

/-- The marks that a write of SPR `n` leaves (70 R660; their shape is the model's: log 14, DEDUCED): SDR1 and ASR may change every translation, an IBAT those of fetches, a DBAT
those of data; EAR and DABR have marks of their own; no other register has any. -/
def marksSpr (s t : State) (n : Nat) : Prop :=
  if n = 25 ∨ n = 280 then marksFetch s t { s.stale with allPages := true }
  else if 528 ≤ n ∧ n ≤ 535 then marksFetch s t s.stale
  else if 536 ≤ n ∧ n ≤ 543 then t.stale = { s.stale with allPages := true }
  else if n = 282 then t.stale = { s.stale with ear := true }
  else if n = 1013 then t.stale = { s.stale with dabr := s.stale.dabr || s.cfg.optDabr }
  else t.stale = s.stale

/-- In supervisor mode every such register reads back what was written to it, cut to its width (of the BATs XLEN, by 10_state R43 and
48 R528 against 00_scope R12: log 39). The write changes no other special-purpose register, leaves the marks of 70 R660 in the model's
shape (log 14: an all-pages mark, remembered fetch views, a DABR mark only with OPT_DABR), makes the decrementer exception pending
where it turns DEC negative, and leaves the rest of the state alone (48 R528, R529; 60 R617). -/
def Obligations.SpecialRegistersReadBack : Prop :=
  ∀ (s : State) (rs rd : BitVec 5) (n : BitVec 10) (w : Nat), s.pr = false → sprWidth s.cfg n.toNat = some w →
    ∃ t u, exec (.mtspr rs n) s = .next t ∧ exec (.mfspr rd n) t = .next u ∧
      u.getGpr rd = s.norm (BitVec.ofNat 64 ((s.getGpr rs).toNat % 2 ^ w)) ∧
      gprsKept t u [rd] ∧ u = { t with gpr := u.gpr, nia := t.nextPc } ∧
      (∀ (m : BitVec 10) (w' : Nat), sprWidth s.cfg m.toNat = some w' → m ≠ n →
        ∃ v v', exec (.mfspr rd m) s = .next v ∧ exec (.mfspr rd m) t = .next v' ∧ v'.getGpr rd = v.getGpr rd) ∧
      t.decPending = (s.decPending || (n == 22 && !s.dec.msb && t.dec.msb)) ∧ marksSpr s t n.toNat ∧
      t = { s with
        xer := t.xer, lr := t.lr, ctr := t.ctr, dsisr := t.dsisr, dar := t.dar, dec := t.dec, sdr1 := t.sdr1, srr0 := t.srr0,
        srr1 := t.srr1, sprg := t.sprg, asr := t.asr, ear := t.ear, dabr := t.dabr, ibat := t.ibat, dbat := t.dbat,
        decPending := t.decPending, stale := t.stale, nia := s.nextPc } ∧ sameMemory s t

/-- In either mode XER, LR and CTR are written and read, and `mftb` reads the time base: its 64 bits (the low half on a 32-bit
implementation), or TBU. TBL and TBU are written in supervisor mode, each leaving the other half; PVR is read there
(48 R527 to R530). -/
def Obligations.SpecialRegisters : Prop :=
  ∀ (s : State) (r : BitVec 5),
    exec (.mtspr r 1) s = .next { s with xer := low (s.getGpr r), nia := s.nextPc } ∧
    exec (.mtspr r 8) s = .next { s with lr := s.norm (s.getGpr r), nia := s.nextPc } ∧
    exec (.mtspr r 9) s = .next { s with ctr := s.norm (s.getGpr r), nia := s.nextPc } ∧
    integerEffect s r (s.xer.setWidth 64) none none false (exec (.mfspr r 1) s) ∧
    integerEffect s r s.lr none none false (exec (.mfspr r 8) s) ∧
    integerEffect s r s.ctr none none false (exec (.mfspr r 9) s) ∧
    integerEffect s r s.tb none none false (exec (.mftb r 268) s) ∧
    integerEffect s r ((high s.tb).setWidth 64) none none false (exec (.mftb r 269) s) ∧
    (s.pr = false →
      integerEffect s r (s.pvr.setWidth 64) none none false (exec (.mfspr r 287) s) ∧
      (∃ t, exec (.mtspr r 284) s = .next t ∧ low t.tb = low (s.getGpr r) ∧ high t.tb = high s.tb ∧
        t = { s with tb := t.tb, nia := s.nextPc } ∧ sameMemory s t) ∧
      (∃ t, exec (.mtspr r 285) s = .next t ∧ high t.tb = low (s.getGpr r) ∧ low t.tb = low s.tb ∧
        t = { s with tb := t.tb, nia := s.nextPc } ∧ sameMemory s t))

/-! ## Loads and stores -/

/-- What a statement about loads says of a result: the address's sum, the number of bytes, and the next state that the bytes
make of the state the access leaves. -/
abbrev LoadEffect := State → Result → Dword → Nat → (List Byte → State → State) → Prop

/-- What a statement about stores says of a result: the address's sum, the bytes, and the next state but for memory. -/
abbrev StoreEffect := State → Result → Dword → List Byte → (State → State) → Prop

/-- A load into rD at EA, of the value `f` makes of the bytes. -/
def loadEffect (E : LoadEffect) (s : State) (i : Instr) (rd : BitVec 5) (sum : Dword) (n : Nat) (f : List Byte → Dword) : Prop :=
  E s (exec i s) sum n (fun bytes u => u.setGpr rd (f bytes))

/-- A load with update: rA receives the sum (45 R380). -/
def loadUpdateEffect (E : LoadEffect) (s : State) (i : Instr) (rd ra : BitVec 5) (sum : Dword) (n : Nat)
    (f : List Byte → Dword) : Prop :=
  E s (exec i s) sum n (fun bytes u => (u.setGpr rd (f bytes)).setGpr ra sum)

/-- Bytes as a number without a sign. -/
def unsignedValue (bytes : List Byte) : Dword := BitVec.ofNat 64 (bigEndian bytes)

/-- Bytes as a signed number of their width. -/
def signedValue (bytes : List Byte) : Dword :=
  BitVec.ofInt 64 (if 2 * bigEndian bytes < 256 ^ bytes.length then (bigEndian bytes : Int)
    else (bigEndian bytes : Int) - 256 ^ bytes.length)

/-- The integer loads complete with the bytes at the address, zero-extended, sign-extended or reversed, and change only rD and the
pc (45 R381, R383, R385, R387, R389, R391, R393, R395, R397, R398, R400, R402, R420, R421). -/
def plainLoads (E : LoadEffect) : Prop :=
  ∀ (s : State) (rd ra rb : BitVec 5) (d : BitVec 16) (ds : BitVec 14),
    loadEffect E s (.lbz rd ra d) rd (sumD s ra d) 1 unsignedValue ∧
    loadEffect E s (.lbzx rd ra rb) rd (sumX s ra rb) 1 unsignedValue ∧
    loadEffect E s (.lhz rd ra d) rd (sumD s ra d) 2 unsignedValue ∧
    loadEffect E s (.lhzx rd ra rb) rd (sumX s ra rb) 2 unsignedValue ∧
    loadEffect E s (.lha rd ra d) rd (sumD s ra d) 2 signedValue ∧
    loadEffect E s (.lhax rd ra rb) rd (sumX s ra rb) 2 signedValue ∧
    loadEffect E s (.lwz rd ra d) rd (sumD s ra d) 4 unsignedValue ∧
    loadEffect E s (.lwzx rd ra rb) rd (sumX s ra rb) 4 unsignedValue ∧
    loadEffect E s (.lhbrx rd ra rb) rd (sumX s ra rb) 2 (fun l => unsignedValue l.reverse) ∧
    loadEffect E s (.lwbrx rd ra rb) rd (sumX s ra rb) 4 (fun l => unsignedValue l.reverse) ∧
    (s.cfg.impl64 = true →
      loadEffect E s (.lwa rd ra ds) rd (sumDs s ra ds) 4 signedValue ∧
      loadEffect E s (.lwax rd ra rb) rd (sumX s ra rb) 4 signedValue ∧
      loadEffect E s (.ld rd ra ds) rd (sumDs s ra ds) 8 unsignedValue ∧
      loadEffect E s (.ldx rd ra rb) rd (sumX s ra rb) 8 unsignedValue)

/-- The same with update, where rA is neither 0 nor rD: rA receives the address's sum (45 R382, R384, R386, R388, R390, R392,
R394, R396, R399, R401, R403). -/
def updateLoads (E : LoadEffect) : Prop :=
  ∀ (s : State) (rd ra rb : BitVec 5) (d : BitVec 16) (ds : BitVec 14), ra ≠ 0 → ra ≠ rd →
    loadUpdateEffect E s (.lbzu rd ra d) rd ra (sumD s ra d) 1 unsignedValue ∧
    loadUpdateEffect E s (.lbzux rd ra rb) rd ra (sumX s ra rb) 1 unsignedValue ∧
    loadUpdateEffect E s (.lhzu rd ra d) rd ra (sumD s ra d) 2 unsignedValue ∧
    loadUpdateEffect E s (.lhzux rd ra rb) rd ra (sumX s ra rb) 2 unsignedValue ∧
    loadUpdateEffect E s (.lhau rd ra d) rd ra (sumD s ra d) 2 signedValue ∧
    loadUpdateEffect E s (.lhaux rd ra rb) rd ra (sumX s ra rb) 2 signedValue ∧
    loadUpdateEffect E s (.lwzu rd ra d) rd ra (sumD s ra d) 4 unsignedValue ∧
    loadUpdateEffect E s (.lwzux rd ra rb) rd ra (sumX s ra rb) 4 unsignedValue ∧
    (s.cfg.impl64 = true →
      loadUpdateEffect E s (.lwaux rd ra rb) rd ra (sumX s ra rb) 4 signedValue ∧
      loadUpdateEffect E s (.ldu rd ra ds) rd ra (sumDs s ra ds) 8 unsignedValue ∧
      loadUpdateEffect E s (.ldux rd ra rb) rd ra (sumX s ra rb) 8 unsignedValue)

/-- The integer loads at aligned addresses, without and with update: complete, or stopped by the access with nothing changed but
what the exception writes (45 R380 to R403, R420, R421; 60 R604, R610, R624; unwritten bytes: log 7). -/
def Obligations.Loads : Prop := plainLoads loadsAligned ∧ updateLoads loadsAligned

/-- A store of bytes at EA. -/
def storeEffect (E : StoreEffect) (s : State) (i : Instr) (sum : Dword) (bytes : List Byte) : Prop :=
  E s (exec i s) sum bytes (fun u => u)

/-- A store with update: rA receives the sum (45 R405). -/
def storeUpdateEffect (E : StoreEffect) (s : State) (i : Instr) (ra : BitVec 5) (sum : Dword) (bytes : List Byte) : Prop :=
  E s (exec i s) sum bytes (fun u => u.setGpr ra sum)

/-- The integer stores complete: the low-order bytes of rS stand at the address, every other byte reads as before, and no register
changes (45 R404, R406, R408, R410, R412, R414, R416, R418, R422, R423). -/
def plainStores (E : StoreEffect) : Prop :=
  ∀ (s : State) (rs ra rb : BitVec 5) (d : BitVec 16) (ds : BitVec 14),
    storeEffect E s (.stb rs ra d) (sumD s ra d) (lowBytes 1 (s.getGpr rs)) ∧
    storeEffect E s (.stbx rs ra rb) (sumX s ra rb) (lowBytes 1 (s.getGpr rs)) ∧
    storeEffect E s (.sth rs ra d) (sumD s ra d) (lowBytes 2 (s.getGpr rs)) ∧
    storeEffect E s (.sthx rs ra rb) (sumX s ra rb) (lowBytes 2 (s.getGpr rs)) ∧
    storeEffect E s (.stw rs ra d) (sumD s ra d) (lowBytes 4 (s.getGpr rs)) ∧
    storeEffect E s (.stwx rs ra rb) (sumX s ra rb) (lowBytes 4 (s.getGpr rs)) ∧
    storeEffect E s (.sthbrx rs ra rb) (sumX s ra rb) (lowBytes 2 (s.getGpr rs)).reverse ∧
    storeEffect E s (.stwbrx rs ra rb) (sumX s ra rb) (lowBytes 4 (s.getGpr rs)).reverse ∧
    (s.cfg.impl64 = true →
      storeEffect E s (.std rs ra ds) (sumDs s ra ds) (lowBytes 8 (s.getGpr rs)) ∧
      storeEffect E s (.stdx rs ra rb) (sumX s ra rb) (lowBytes 8 (s.getGpr rs)))

/-- The same with update, where rA is not 0 (45 R405, R407, R409, R411, R413, R415, R417, R419). -/
def updateStores (E : StoreEffect) : Prop :=
  ∀ (s : State) (rs ra rb : BitVec 5) (d : BitVec 16) (ds : BitVec 14), ra ≠ 0 →
    storeUpdateEffect E s (.stbu rs ra d) ra (sumD s ra d) (lowBytes 1 (s.getGpr rs)) ∧
    storeUpdateEffect E s (.stbux rs ra rb) ra (sumX s ra rb) (lowBytes 1 (s.getGpr rs)) ∧
    storeUpdateEffect E s (.sthu rs ra d) ra (sumD s ra d) (lowBytes 2 (s.getGpr rs)) ∧
    storeUpdateEffect E s (.sthux rs ra rb) ra (sumX s ra rb) (lowBytes 2 (s.getGpr rs)) ∧
    storeUpdateEffect E s (.stwu rs ra d) ra (sumD s ra d) (lowBytes 4 (s.getGpr rs)) ∧
    storeUpdateEffect E s (.stwux rs ra rb) ra (sumX s ra rb) (lowBytes 4 (s.getGpr rs)) ∧
    (s.cfg.impl64 = true →
      storeUpdateEffect E s (.stdu rs ra ds) ra (sumDs s ra ds) (lowBytes 8 (s.getGpr rs)) ∧
      storeUpdateEffect E s (.stdux rs ra rb) ra (sumX s ra rb) (lowBytes 8 (s.getGpr rs)))

/-- The integer stores at aligned addresses, without and with update: complete, or stopped by the access with nothing stored
(45 R404 to R419, R422, R423; 60 R604, R610, R624; 70 R661). -/
def Obligations.Stores : Prop := plainStores storesAligned ∧ updateStores storesAligned

/-- A load into an FPR (46 R450): the value and the single-origin tag. -/
def loadFloatEffect (E : LoadEffect) (s : State) (i : Instr) (frd : BitVec 5) (sum : Dword) (n : Nat) (single : Bool)
    (f : List Byte → Dword) : Prop :=
  E s (exec i s) sum n (fun bytes u => u.setFpr frd (f bytes) single)

/-- The same with update. -/
def loadFloatUpdateEffect (E : LoadEffect) (s : State) (i : Instr) (frd ra : BitVec 5) (sum : Dword) (n : Nat) (single : Bool)
    (f : List Byte → Dword) : Prop :=
  E s (exec i s) sum n (fun bytes u => (u.setFpr frd (f bytes) single).setGpr ra sum)

/-- The double that a loaded single becomes. -/
def loadedSingle (bytes : List Byte) : Dword := toDouble (BitVec.ofNat 32 (bigEndian bytes))

/-- The floating-point loads with MSR[FP] = 1 (46 R453 to R460). -/
def floatLoads (E : LoadEffect) : Prop :=
  ∀ (s : State) (frd ra rb : BitVec 5) (d : BitVec 16), s.fpOn = true →
    loadFloatEffect E s (.lfs frd ra d) frd (sumD s ra d) 4 true loadedSingle ∧
    loadFloatEffect E s (.lfsx frd ra rb) frd (sumX s ra rb) 4 true loadedSingle ∧
    loadFloatEffect E s (.lfd frd ra d) frd (sumD s ra d) 8 false unsignedValue ∧
    loadFloatEffect E s (.lfdx frd ra rb) frd (sumX s ra rb) 8 false unsignedValue ∧
    (ra ≠ 0 →
      loadFloatUpdateEffect E s (.lfsu frd ra d) frd ra (sumD s ra d) 4 true loadedSingle ∧
      loadFloatUpdateEffect E s (.lfsux frd ra rb) frd ra (sumX s ra rb) 4 true loadedSingle ∧
      loadFloatUpdateEffect E s (.lfdu frd ra d) frd ra (sumD s ra d) 8 false unsignedValue ∧
      loadFloatUpdateEffect E s (.lfdux frd ra rb) frd ra (sumX s ra rb) 8 false unsignedValue)

/-- A store of a word that the spec leaves undefined where `undefined`: it is then some word, and one value has been drawn; else `w`. -/
def wordStored (E : StoreEffect) (s : State) (r : Result) (sum : Dword) (undefined : Bool) (w : Word) (upd : State → State) : Prop :=
  (undefined = false → E s r sum (lowBytes 4 (zext w)) upd) ∧
    (undefined = true → ∃ v : Word, E s.drew r sum (lowBytes 4 (zext v)) upd)

/-- The floating-point stores with MSR[FP] = 1: the single stores store an undefined word where the conversion is undefined
(46 R452), `stfiwx` where the register has a single origin (46 R461 to R469). -/
def floatStores (E : StoreEffect) : Prop :=
  ∀ (s : State) (frs ra rb : BitVec 5) (d : BitVec 16), s.fpOn = true →
    let single := fun i sum upd => wordStored E s (exec i s) sum (singleUndefined (s.getFpr frs)) (toSingle 0 (s.getFpr frs)) upd
    single (.stfs frs ra d) (sumD s ra d) (fun u => u) ∧ single (.stfsx frs ra rb) (sumX s ra rb) (fun u => u) ∧
    (ra ≠ 0 → single (.stfsu frs ra d) (sumD s ra d) (fun u => u.setGpr ra (sumD s ra d)) ∧
      single (.stfsux frs ra rb) (sumX s ra rb) (fun u => u.setGpr ra (sumX s ra rb))) ∧
    storeEffect E s (.stfd frs ra d) (sumD s ra d) (lowBytes 8 (s.getFpr frs)) ∧
    storeEffect E s (.stfdx frs ra rb) (sumX s ra rb) (lowBytes 8 (s.getFpr frs)) ∧
    (ra ≠ 0 → storeUpdateEffect E s (.stfdu frs ra d) ra (sumD s ra d) (lowBytes 8 (s.getFpr frs)) ∧
      storeUpdateEffect E s (.stfdux frs ra rb) ra (sumX s ra rb) (lowBytes 8 (s.getFpr frs))) ∧
    (s.cfg.optStfiwx = true →
      wordStored E s (exec (.stfiwx frs ra rb) s) (sumX s ra rb) (s.isSingle frs) (low (s.getFpr frs)) (fun u => u))

/-- Every scalar load and store, integer and floating-point, at a misaligned address: with the policy to trap it takes the
alignment exception; with the policy to perform it is done byte by byte at EA, EA + 1, ... in the mode's width, each byte
translated on its own, and stores nothing unless every byte goes through (20_memory R92, R98; 60 R604, R611; log 33). -/
def Obligations.MisalignedAccess : Prop :=
  (plainLoads loadsMisaligned ∧ updateLoads loadsMisaligned ∧ floatLoads loadsMisaligned) ∧
    (plainStores storesMisaligned ∧ updateStores storesMisaligned ∧ floatStores storesMisaligned)

/-- `lmw` at an aligned address, after the first words have been loaded: register rD + k holds the word at EA + 4k; when all have
been loaded it completes, and else the next access may stop it, with the loaded registers kept (45 R424; 60 R626; the address wraps
in the mode's width: log 33). -/
def wordsLoaded (s : State) (r : BitVec 5) (sum : Dword) (res : Result) : Prop :=
  ∀ (pas : List Dword) (u : State) (w : Nat → Word), pas.length ≤ 32 - r.toNat → reachesEach s .load sum 4 pas u →
    (∀ k (h : k < pas.length), u.holds pas[k] (lowBytes 4 (zext (w k)))) →
    ∃ x : State, x = { u with gpr := x.gpr } ∧ (∀ k, k < pas.length → x.getGpr (r + BitVec.ofNat 5 k) = zext (w k)) ∧
      (∀ q, (∀ k, k < pas.length → q ≠ r + BitVec.ofNat 5 k) → x.getGpr q = s.getGpr q) ∧
      (pas.length = 32 - r.toNat → res = .next { x with nia := s.nextPc }) ∧
      (pas.length < 32 - r.toNat →
        accessStops x .load (addressOf s sum 4 pas.length) res ∧
        ∀ pa v a, reachesAt x .load (addressOf s sum 4 pas.length) pa v → v.firstUnwritten (bytesFrom pa 4) = some a →
          res = .fault (.unwrittenRead a))

/-- Stores of chunks of `n` bytes at the addresses `pas` have led from `s` to `u`: the chunks stand there where they do not overlap,
every other byte of memory reads as before, the blocks stored to are stale, and nothing else has changed but the entries that
translations load. -/
def chunksStored (s u : State) (n : Nat) (pas : List Dword) (chunk : Nat → List Byte) : Prop :=
  ((pas.flatMap (fun pa => bytesFrom pa n)).Nodup → ∀ k (h : k < pas.length), u.holds pas[k] (chunk k)) ∧
    (∀ a, (∀ pa ∈ pas, ∀ j, j < n → a ≠ (pa + BitVec.ofNat 64 j).toNat) → u.mem.read a = s.mem.read a) ∧
    marksStored s u (fun a => ∃ pa ∈ pas, ∃ j, j < n ∧ a = (pa + BitVec.ofNat 64 j).toNat) ∧
    u = { s with mem := u.mem, staleInsn := u.staleInsn, icbiDone := u.icbiDone, tlb := u.tlb, slb := u.slb }

/-- `count` stores of chunks of `n` bytes, `n` apart, after the first of them: when all have been made the instruction completes,
and else the next access may stop it, with what has been stored kept (60 R626). -/
def chunksEffect (s : State) (sum : Dword) (n count : Nat) (chunk : Nat → List Byte) (res : Result) : Prop :=
  ∀ (pas : List Dword) (u : State), pas.length ≤ count →
    storesEach s sum (BitVec.ofNat 64 n) ((List.range pas.length).map chunk) pas u →
    chunksStored s u n pas chunk ∧
    (pas.length = count → res = .next { u with nia := s.nextPc }) ∧
    (pas.length < count → accessStops u .store (addressOf s sum (BitVec.ofNat 64 n) pas.length) res)

/-- `lmw` and `stmw`: at an aligned address the words at EA, EA + 4, ... come into registers rD to 31, and those registers' low
words go out, access by access, in real addressing mode or translated; a misaligned address takes the alignment exception
(45 R424, R425; 60 R611, R626). -/
def Obligations.Multiples : Prop :=
  ∀ (s : State) (r ra : BitVec 5) (d : BitVec 16),
    (alignedTo (eaD s ra d) 4 = false →
      raisesIn (.alignment (eaD s ra d)) s (exec (.stmw r ra d) s) ∧
      ((Instr.lmw r ra d).wellFormed s.cfg.impl64 = true → raisesIn (.alignment (eaD s ra d)) s (exec (.lmw r ra d) s))) ∧
    (alignedTo (eaD s ra d) 4 = true →
      ((Instr.lmw r ra d).wellFormed s.cfg.impl64 = true → wordsLoaded s r (sumD s ra d) (exec (.lmw r ra d) s)) ∧
      chunksEffect s (sumD s ra d) 4 (32 - r.toNat) (fun k => lowBytes 4 (s.getGpr (r + BitVec.ofNat 5 k)))
        (exec (.stmw r ra d) s))

/-- Byte `k` of a string of registers: four to a register's low word, the most significant first, from 31 on to 0. -/
def stringByte (t : State) (r : BitVec 5) (k : Nat) : Byte :=
  ((t.getGpr (r + BitVec.ofNat 5 (k / 4))) >>> (8 * (3 - k % 4))).setWidth 8

/-- `n` bytes of a string have come into `regs` registers: the bytes in their low words, 0 after the last byte and in every high
half, and no other register changed (45 R430). -/
def stringIn (s u x : State) (rd : BitVec 5) (b : Nat → Byte) (n regs : Nat) : Prop :=
  x = { u with gpr := x.gpr } ∧ (∀ k, k < 4 * regs → stringByte x rd k = if k < n then b k else 0) ∧
    (∀ j, j < regs → high (x.getGpr (rd + BitVec.ofNat 5 j)) = 0) ∧
    (∀ q, inWrappedRange q rd regs = false → x.getGpr q = s.getGpr q)

/-- A string load of `n` bytes, after the first of them: when all have been loaded it completes, and else the next access may stop
it, with the loaded registers kept, the one of the next byte among them (45 R430; 60 R626; log 27, 33). -/
def stringLoads (s : State) (rd : BitVec 5) (base : Dword) (n : Nat) (res : Result) : Prop :=
  ∀ (pas : List Dword) (u : State) (b : Nat → Byte), pas.length ≤ n → reachesEach s .load base 1 pas u →
    u.readsAs pas ((List.range pas.length).map b) →
    (pas.length = n → ∃ x, stringIn s u x rd b n ((n + 3) / 4) ∧ res = .next { x with nia := s.nextPc }) ∧
    (pas.length < n → ∃ x, stringIn s u x rd b pas.length (pas.length / 4 + 1) ∧
      accessStops x .load (addressOf s base 1 pas.length) res ∧
      ∀ pa v, reachesAt x .load (addressOf s base 1 pas.length) pa v → v.mem.read pa.toNat = none →
        res = .fault (.unwrittenRead pa.toNat))

/-- The string instructions, in real addressing mode or translated (45 R426 to R430); a count of 0 in XER leaves rD undefined and
stores nothing; `lswx` with rA or rB in the range loaded stops (log 31). -/
def Obligations.Strings : Prop :=
  ∀ (s : State) (r ra rb nb : BitVec 5),
    ((Instr.lswi r ra nb).wellFormed s.cfg.impl64 = true →
      stringLoads s r (s.gprOrZero ra) (stringCount nb) (exec (.lswi r ra nb) s)) ∧
    ((Instr.lswx r ra rb).wellFormed s.cfg.impl64 = true → s.xerCount ≠ 0 →
      inWrappedRange ra r ((s.xerCount + 3) / 4) = false → inWrappedRange rb r ((s.xerCount + 3) / 4) = false →
      stringLoads s r (sumX s ra rb) s.xerCount (exec (.lswx r ra rb) s)) ∧
    ((Instr.lswx r ra rb).wellFormed s.cfg.impl64 = true → s.xerCount ≠ 0 →
      inWrappedRange ra r ((s.xerCount + 3) / 4) = true ∨ inWrappedRange rb r ((s.xerCount + 3) / 4) = true →
      exec (.lswx r ra rb) s = .fault .boundedlyUndefined) ∧
    ((Instr.lswx r ra rb).wellFormed s.cfg.impl64 = true → s.xerCount = 0 →
      ∃ t, exec (.lswx r ra rb) s = .next t ∧ t = { s with gpr := t.gpr, nia := s.nextPc, draws := t.draws } ∧
        gprsKept s t [r] ∧ sameMemory s t) ∧
    chunksEffect s (s.gprOrZero ra) 1 (stringCount nb) (fun k => [stringByte s r k]) (exec (.stswi r ra nb) s) ∧
    chunksEffect s (sumX s ra rb) 1 s.xerCount (fun k => [stringByte s r k]) (exec (.stswx r ra rb) s)

/-! ## Reservations -/

/-- A load and reserve of `n` bytes at `ea`: at an aligned address it loads and makes the reservation for the physical address,
or the access stops it; a misaligned address takes the alignment exception (49 R553, R554; 60 R611). -/
def reserveEffect (s : State) (rd : BitVec 5) (ea : Dword) (n : Nat) (r : Result) : Prop :=
  (alignedTo ea n = false → raisesIn (.alignment ea) s r) ∧
    (alignedTo ea n = true → accessStops s .load ea r ∧
      ∀ pa u, reachesAt s .load ea pa u →
        loadsFrom s r (bytesFrom pa n) u
          (fun bytes u => { u.setGpr rd (unsignedValue bytes) with reserve := true, reserveAddr := pa }))

/-- `lwarx` and `ldarx` (49 R553, R554; 60 R610, R611). -/
def Obligations.LoadAndReserve : Prop :=
  ∀ (s : State) (rd ra rb : BitVec 5),
    reserveEffect s rd (eaX s ra rb) 4 (exec (.lwarx rd ra rb) s) ∧
    (s.cfg.impl64 = true → reserveEffect s rd (eaX s ra rb) 8 (exec (.ldarx rd ra rb) s))

/-- A store conditional: at an aligned address it gives up the reservation, and with one for the same address it stores and CR0[EQ]
is 1, with none it stores nothing and CR0[EQ] is 0, with one for another address either may happen; CR0[SO] is XER[SO]; or the
access stops it, with the reservation kept; a misaligned address takes the alignment exception (49 R555, R556; 70 R661). -/
def conditionalEffect (s : State) (r : Result) (ea : Dword) (bytes : List Byte) : Prop :=
  (alignedTo ea bytes.length = false → raisesIn (.alignment ea) s r) ∧
  (alignedTo ea bytes.length = true → accessStops s .store ea r ∧
    ∀ pa u, reachesAt s .store ea pa u →
      ∃ (t : State) (stored : Bool), r = .next t ∧ t.reserve = false ∧ crKept s t [0] ∧
        t.crField 0 = (if stored then 2 else 0) ||| (if s.so then 1 else 0) ∧
        (s.reserve = true → s.reserveAddr = pa → stored = true) ∧ (s.reserve = false → stored = false) ∧
        (stored = true → t.holds pa bytes) ∧
        (∀ a, (stored = true → ∀ k, k < bytes.length → a ≠ (pa + BitVec.ofNat 64 k).toNat) → t.mem.read a = s.mem.read a) ∧
        marksStored s t (fun a => stored = true ∧ ∃ k, k < bytes.length ∧ a = (pa + BitVec.ofNat 64 k).toNat) ∧
        t = { u with
          reserve := false, cr := t.cr, mem := t.mem, staleInsn := t.staleInsn, icbiDone := t.icbiDone, nia := s.nextPc,
          draws := t.draws })

/-- `stwcx.` and `stdcx.` (49 R555, R556). -/
def Obligations.StoreConditional : Prop :=
  ∀ (s : State) (rs ra rb : BitVec 5),
    conditionalEffect s (exec (.stwcxDot rs ra rb) s) (eaX s ra rb) (lowBytes 4 (s.getGpr rs)) ∧
    (s.cfg.impl64 = true → conditionalEffect s (exec (.stdcxDot rs ra rb) s) (eaX s ra rb) (lowBytes 8 (s.getGpr rs)))

/-! ## Barriers, caches, external control, segments and lookaside buffers -/

/-- `eieio`, `dcbt`, `dcbtst` and, in supervisor mode, `tlbsync` only advance the pc; `sync` also lets a change of DABR be relied
on, and `isync` every context change and the blocks that `icbi` has invalidated (49 R550 to R552, R561, R562, R592; 70 R660,
R661). -/
def Obligations.Barriers : Prop :=
  ∀ (s : State) (ra rb : BitVec 5),
    exec .sync s = .next { s with nia := s.nextPc, stale := { s.stale with dabr := false } } ∧
    exec .eieio s = .next { s with nia := s.nextPc } ∧
    exec (.dcbt ra rb) s = .next { s with nia := s.nextPc } ∧ exec (.dcbtst ra rb) s = .next { s with nia := s.nextPc } ∧
    (s.pr = false → s.cfg.optTlbsync = true → exec .tlbsync s = .next { s with nia := s.nextPc }) ∧
    (∃ t, exec .isync s = .next t ∧ blocksSynced s t ∧
      t = { s with nia := s.nextPc, staleInsn := t.staleInsn, icbiDone := [], stale := StaleMarks.none })

/-- The byte at physical address `a` lies in the cache block of `pa`: the aligned physical block, larger than a page or not (log 40). -/
def inBlock (s : State) (pa : Dword) (a : Nat) : Prop := s.blockOf a = s.blockOf pa.toNat

/-- The bytes of the block are stored, with the values that `p` allows; every other byte reads as before, the block becomes stale
for fetches, and nothing else but the pc and the draws changes. -/
def blockEffect (s u : State) (pa : Dword) (p : Byte → Prop) (r : Result) : Prop :=
  ∃ t, r = .next t ∧ (∀ a, a < 2 ^ 64 → inBlock s pa a → ∃ b, t.mem.read a = some b ∧ p b) ∧
    (∀ a, ¬ inBlock s pa a → t.mem.read a = s.mem.read a) ∧ marksStored s t (fun a => a = pa.toNat) ∧
    t = { u with mem := t.mem, staleInsn := t.staleInsn, icbiDone := t.icbiDone, nia := s.nextPc, draws := t.draws }

/-- A cache operation is stopped by its access, or `k` is what happens. -/
def blockAccess (s : State) (kind : AccessKind) (ea : Dword) (r : Result) (k : Dword → State → Prop) : Prop :=
  accessStops s kind ea r ∧ ∀ pa u, reachesAt s kind ea pa u → k pa u

/-- `dcbz`: the translation; the alignment exception on caching-inhibited or write-through memory under the policy to trap (log 24);
the breakpoint; and then the block is cleared (49 R567; 60 R619). -/
def dcbzEffect (s : State) (ea : Dword) (r : Result) : Prop :=
  translationStops s .store ea r ∧
    ∀ pa a u, translatesTo s .store ea pa a u →
      let traps := (a.inhibited || a.writeThrough) = true ∧ s.cfg.dcbzUncached = .trap
      (traps → raisesIn (.alignment ea) u r) ∧
      (¬ traps → breakStops s u .store ea r ∧
        (¬ dabrStale s → ¬ breaks s .store ea → blockEffect s u pa (fun b => b = 0) r))

/-- `dcba`: a failed translation or caching-inhibited memory makes it a no-op; else the bytes of the block become undefined
(49 R566; log 23); it never raises DSI, so DABR is not looked at (60 R610; log 25). -/
def dcbaEffect (s : State) (ea : Dword) (r : Result) : Prop :=
  (staleAccess s ea → r = .fault .staleTranslation) ∧
    (¬ staleAccess s ea → s.dr = true → ∀ c, (Config.translate s.mmuView s.mem .store s.pr ea).result = .fails c →
      r = .next { s with nia := s.nextPc }) ∧
    ∀ pa a u, translatesTo s .store ea pa a u →
      (a.inhibited = true → r = .next { u with nia := s.nextPc }) ∧
      (a.inhibited = false → blockEffect s u pa (fun _ => True) r)

/-- The cache operations, in real addressing mode (with the attributes of log 13) or translated (49 R563 to R568; 60 R610, R619;
70 R661): `dcbst` and `dcbf` only advance the pc; `dcbz` clears the block; `dcbi` (supervisor mode) and `dcba` leave its bytes
undefined, as draws (log 23); `icbi` marks the block as invalidated. The block is the aligned physical block of the translated byte,
which for a block larger than a page is the model's choice (log 40). -/
def Obligations.CacheBlocks : Prop :=
  ∀ (s : State) (ra rb : BitVec 5), s.cfg.cacheBlockLog ≤ 63 →
    let ea := eaX s ra rb
    (∀ i, i = .dcbst ra rb ∨ i = .dcbf ra rb →
      blockAccess s .load ea (exec i s) (fun _ u => exec i s = .next { u with nia := s.nextPc })) ∧
    dcbzEffect s ea (exec (.dcbz ra rb) s) ∧
    (s.pr = false → blockAccess s .store ea (exec (.dcbi ra rb) s)
      (fun pa u => blockEffect s u pa (fun _ => True) (exec (.dcbi ra rb) s))) ∧
    (s.cfg.optDcba = true → dcbaEffect s ea (exec (.dcba ra rb) s)) ∧
    blockAccess s .load ea (exec (.icbi ra rb) s) (fun pa u => ∃ t, exec (.icbi ra rb) s = .next t ∧
      (∀ b, b ∈ t.icbiDone ↔ b = s.blockOf pa.toNat ∨ b ∈ s.icbiDone) ∧ t = { u with nia := s.nextPc, icbiDone := t.icbiDone })

/-- The checks of `eciwx` and `ecowx` in the order of 49 R569 and 60 R619: an unsynchronized MSR[DR] is stale (log 14); MSR[DR] = 0
stops; an unsynchronized EAR is stale; EAR[E] = 0 raises DSI with bit 11; a misaligned address raises alignment; then the
translation; T = 1 in its answer raises DSI with bit 5; then the breakpoint; and `k` is what happens when all pass. -/
def externalEffect (s : State) (kind : AccessKind) (ea : Dword) (r : Result) (k : Dword → State → Prop) : Prop :=
  let enabled := s.stale.dr = false ∧ s.dr = true ∧ s.stale.ear = false
  (s.stale.dr = true → r = .fault .staleTranslation) ∧
  (s.stale.dr = false → s.dr = false → r = .fault .boundedlyUndefined) ∧
  (s.stale.dr = false → s.dr = true → s.stale.ear = true → r = .fault .staleTranslation) ∧
  (enabled → s.ear.getMsbD 0 = false → raisesIn (.dsi ea (bitAt 11 ||| storeBit kind)) s r) ∧
  (enabled → s.ear.getMsbD 0 = true → alignedTo ea 4 = false → raisesIn (.alignment ea) s r) ∧
  (enabled → s.ear.getMsbD 0 = true → alignedTo ea 4 = true →
    translationStops s kind ea r ∧
    ∀ pa a u, translatesTo s kind ea pa a u →
      let direct := (Config.translate s.mmuView s.mem kind s.pr ea).directStore = true
      (direct → raisesIn (.dsi ea (bitAt 5 ||| storeBit kind)) u r) ∧
      (¬ direct → breakStops s u kind ea r ∧ (¬ dabrStale s → ¬ breaks s kind ea → k pa u)))

/-- `eciwx` and `ecowx` (49 R569, R570): where every check passes the device's word comes into rD (a free value, log 22), or the low
word of rS goes out as one event; memory is untouched. -/
def Obligations.ExternalControl : Prop :=
  ∀ (s : State) (r ra rb : BitVec 5), s.cfg.optExtctl = true →
    externalEffect s .load (eaX s ra rb) (exec (.eciwx r ra rb) s) (fun pa u => ∃ t, exec (.eciwx r ra rb) s = .next t ∧
      t.getGpr r = zext (Config.deviceIn s.draws (slice 6 s.ear 26) pa) ∧ gprsKept s t [r] ∧ sameMemory s t ∧
      t = { u with gpr := t.gpr, nia := s.nextPc, draws := s.draws + 1 }) ∧
    externalEffect s .store (eaX s ra rb) (exec (.ecowx r ra rb) s) (fun pa u => exec (.ecowx r ra rb) s =
      .next { u with deviceOut := s.deviceOut ++ [⟨slice 6 s.ear 26, pa, low (s.getGpr r)⟩], nia := s.nextPc })

/-- The marks after the translation of segments has changed: those of `p` are added (70 R660; log 14). -/
def marksSegments (s t : State) (p : BitVec 36 → Prop) : Prop :=
  (∀ g, g ∈ t.stale.segments ↔ g ∈ s.stale.segments ∨ p g) ∧
    marksFetch s t { s.stale with segments := t.stale.segments }

/-- The segment register moves in supervisor mode (49 R581 to R587): the registers themselves on a 32-bit implementation; with
the bridge the SLB entry of that number, made valid for segment n with T, Ks, Kp, N and the VSID of rS, and read back where a
move has written it, an undefined value where none has; no other entry changes, and the segments old and new are marked. -/
def segmentMoves : Prop :=
  ∀ (s : State) (rs rd rb : BitVec 5) (n : BitVec 4), s.pr = false →
    (s.cfg.impl64 = false →
      (∀ i, (i = .mtsr rs n ∨ (i = .mtsrin rs rb ∧ n = slice 4 (s.getGpr rb) 32)) →
        ∃ t, exec i s = .next t ∧ t.sr.get n.toFin = low (s.getGpr rs) ∧
          (∀ m, m ≠ n → t.sr.get m.toFin = s.sr.get m.toFin) ∧ marksSegments s t (fun g => g = n.setWidth 36) ∧
          t = { s with sr := t.sr, stale := t.stale, nia := s.nextPc } ∧ sameMemory s t) ∧
      integerEffect s rd (zext (s.sr.get n.toFin)) none none false (exec (.mfsr rd n) s) ∧
      integerEffect s rd (zext (s.sr.get (slice 4 (s.getGpr rb) 32).toFin)) none none false (exec (.mfsrin rd rb) s)) ∧
    (s.cfg.impl64 = true → s.cfg.bridge = true →
      (∀ i, (i = .mtsr rs n ∨ (i = .mtsrin rs rb ∧ n = slice 4 (s.getGpr rb) 32) ∨
          (s.cfg.bridgeMtsrd = true ∧ (i = .mtsrd rs n ∨ (i = .mtsrdin rs rb ∧ n = slice 4 (s.getGpr rb) 32)))) →
        ∃ t, exec i s = .next t ∧ (t.slb.get n.toFin).byMove = true ∧ (t.slb.get n.toFin).dw0.getMsbD 56 = true ∧
          slice 36 (t.slb.get n.toFin).dw0 0 = n.setWidth 36 ∧
          slice 5 (t.slb.get n.toFin).dw0 57 = slice 5 (s.getGpr rs) 32 ∧
          slice 27 (t.slb.get n.toFin).dw1 25 = slice 27 (s.getGpr rs) 37 ∧
          slice 25 (t.slb.get n.toFin).dw1 0 =
            (match i with
             | .mtsrd _ _ => slice 25 (s.getGpr rs) 7
             | .mtsrdin _ _ => slice 25 (s.getGpr rs) 7
             | _ => 0) ∧
          (∀ m, m ≠ n → t.slb.get m.toFin = s.slb.get m.toFin) ∧
          marksSegments s t (fun g => g = n.setWidth 36 ∨ g = slice 36 (s.slb.get n.toFin).dw0 0) ∧
          t = { s with slb := t.slb, stale := t.stale, nia := s.nextPc } ∧ sameMemory s t) ∧
      (∀ i, (i = .mfsr rd n ∨ (i = .mfsrin rd rb ∧ n = slice 4 (s.getGpr rb) 32)) →
        ∃ t, exec i s = .next t ∧ integerFrame s t ∧ gprsKept s t [rd] ∧ t.cr = s.cr ∧ t.xer = s.xer ∧
          ((s.slb.get n.toFin).byMove = true → t.draws = s.draws ∧
            slice 7 (t.getGpr rd) 0 = 0 ∧
            slice 25 (t.getGpr rd) 7 = slice 25 (s.slb.get n.toFin).dw1 0 ∧
            slice 5 (t.getGpr rd) 32 = slice 5 (s.slb.get n.toFin).dw0 57 ∧
            slice 27 (t.getGpr rd) 37 = slice 27 (s.slb.get n.toFin).dw1 25)))

/-- An SLB entry made invalid: V is 0, the mark of a move is gone, every other bit stays (49 R588, R589). -/
def madeInvalid (before after : SlbEntry) : Prop :=
  after.byMove = false ∧ after.dw1 = before.dw1 ∧ ∀ k, k < 64 → after.dw0.getMsbD k = (before.dw0.getMsbD k && k != 56)

/-- The lookaside buffers in supervisor mode (49 R588 to R591): `slbia` makes every SLB entry invalid, `slbie` the valid ones of the
segment in rB, `tlbia` empties the TLB, `tlbie` removes the entries of the page index in rB; nothing else changes but the marks of
what they touch (70 R660) and the pc. -/
def bufferInvalidations : Prop :=
  ∀ (s : State) (rb : BitVec 5), s.pr = false →
    (s.cfg.impl64 = true → s.cfg.optSlbia = true → ∃ t, exec .slbia s = .next t ∧
      (∀ k : Fin 16, madeInvalid (s.slb.get k) (t.slb.get k)) ∧ marksFetch s t { s.stale with allPages := true } ∧
      t = { s with slb := t.slb, stale := t.stale, nia := s.nextPc } ∧ sameMemory s t) ∧
    (s.cfg.impl64 = true → s.cfg.optSlbie = true → ∃ t, exec (.slbie rb) s = .next t ∧
      (∀ k : Fin 16,
        let e := s.slb.get k
        let hit := e.dw0.getMsbD 56 = true ∧ slice 36 e.dw0 0 = slice 36 (s.getGpr rb) 0
        (hit → madeInvalid e (t.slb.get k)) ∧ (¬ hit → t.slb.get k = e)) ∧
      marksSegments s t (fun g => g = slice 36 (s.getGpr rb) 0) ∧
      t = { s with slb := t.slb, stale := t.stale, nia := s.nextPc } ∧ sameMemory s t) ∧
    (s.cfg.optTlbia = true → ∃ t, exec .tlbia s = .next t ∧ t.tlb = [] ∧ marksFetch s t { s.stale with allPages := true } ∧
      t = { s with tlb := t.tlb, stale := t.stale, nia := s.nextPc } ∧ sameMemory s t) ∧
    (s.cfg.optTlbie = true → ∃ t, exec (.tlbie rb) s = .next t ∧
      (∀ e, e ∈ t.tlb ↔ e ∈ s.tlb ∧ e.page ≠ slice 16 (s.getGpr rb) 36) ∧
      (∀ p, p ∈ t.stale.pages ↔ p ∈ s.stale.pages ∨ p = slice 16 (s.getGpr rb) 36) ∧
      marksFetch s t { s.stale with pages := t.stale.pages } ∧
      t = { s with tlb := t.tlb, stale := t.stale, nia := s.nextPc } ∧ sameMemory s t)

/-- The segment register moves and the invalidations of the lookaside buffers (49 R581 to R591). -/
def Obligations.SegmentsAndBuffers : Prop := segmentMoves ∧ bufferInvalidations

/-! ## Floating point -/

/-- The floating-point loads and stores at aligned addresses with MSR[FP] = 1: complete, or stopped by the access (46 R453 to R469;
60 R610, R624). -/
def Obligations.FloatStorage : Prop := floatLoads loadsAligned ∧ floatStores storesAligned

/-- The rational number that a single stands for (43 R311, 46 R451). -/
def singleNumber (w : Word) : ℚ :=
  (if w.msb then -1 else 1) *
    (if slice 8 w 1 = 0 then ((slice 23 w 9).toNat : ℚ) * 2 ^ (-149 : ℤ)
     else ((2 ^ 23 + (slice 23 w 9).toNat : ℕ) : ℚ) * 2 ^ (((slice 8 w 1).toNat : ℤ) - 150))

/-- A single loaded and stored again is the same word, for every word; loading keeps the number, the sign, an infinity and a NaN
with its fraction; and storing a double that has a single format keeps it, unless it is a NaN (46 R451, R452). -/
def Obligations.SingleRoundTrip : Prop :=
  (∀ w u : Word, singleUndefined (toDouble w) = false ∧ toSingle u (toDouble w) = w) ∧
  (∀ w : Word, (toDouble w).msb = w.msb ∧
    (slice 8 w 1 ≠ 0xFF → isNumber (toDouble w) = true ∧ numberOf (toDouble w) = singleNumber w) ∧
    (slice 8 w 1 = 0xFF → slice 11 (toDouble w) 1 = 0x7FF ∧ slice 52 (toDouble w) 12 = slice 23 w 9 ++ (0 : BitVec 29))) ∧
  (∀ (d : Dword) (u : Word), singleRepresentable d = true → isNan d = false → toDouble (toSingle u d) = d)

/-- An arithmetic or conversion instruction with MSR[FP] = 1. With floating-point exceptions not taken it completes, changes only
frD, the FPSCR and CR1, and raises only what its page lists. With FE0 | FE1 = 1 it does the same where no enabled exception is left
in the FPSCR; where FEX goes from 0 to 1 the enabled exception is taken, with frD, the FPSCR and CR1 written and its own address in
SRR0 (43 R312; 60 R608). -/
def arithmeticEffect (s : State) (d : BitVec 5) (rc : Bool) (affected : Word) (i : Instr) : Prop :=
  let quiet := { s with msr := s.msr &&& ~~~ 0x900 }
  floatEffect quiet d rc affected (exec i quiet) ∧
  ∀ t, exec i quiet = .next t →
    (s.fe = false ∨ t.fpscr.getMsbD 1 = false → exec i s = .next { t with msr := s.msr }) ∧
    (s.fe = true → (fpscrSummary s.fpscr).getMsbD 1 = false → t.fpscr.getMsbD 1 = true →
      raisesIn (.program .fpEnabled) { t with msr := s.msr, nia := s.nia } (exec i s))

/-- A rounding or conversion instruction does the same, and takes the enabled exception wherever it leaves FEX = 1 with
FE0 | FE1 = 1, also when it raises nothing enabled itself (44 R350 over 43 R312; log 38). -/
def convertingEffect (s : State) (d : BitVec 5) (rc : Bool) (affected : Word) (i : Instr) : Prop :=
  arithmeticEffect s d rc affected i ∧
  ∀ t, exec i { s with msr := s.msr &&& ~~~ 0x900 } = .next t → s.fe = true → t.fpscr.getMsbD 1 = true →
    raisesIn (.program .fpEnabled) { t with msr := s.msr, nia := s.nia } (exec i s)

/-- The relative error bounds of the estimates: one part in 256 for `fres` of a nonzero single, wherever a single number lies that
near to the reciprocal, and the result is a single; one part in 32 for `frsqrte` of any positive number, the result any
double within it, a single or not (43 R324, R325; log 20). -/
def estimates : Prop :=
  ∀ (s : State) (d b : BitVec 5) (rc : Bool), s.fpOn = true → isNumber (s.getFpr b) = true →
    let x := numberOf (s.getFpr b)
    (s.cfg.optFres = true → singleRepresentable (s.getFpr b) = true → x ≠ 0 →
      (∃ y, isNumber y = true ∧ singleRepresentable y = true ∧ |numberOf y * x - 1| ≤ 1 / 256) →
      ∃ t, exec (.fresx d b rc) s = .next t ∧ isNumber (t.getFpr d) = true ∧ singleRepresentable (t.getFpr d) = true ∧
        |numberOf (t.getFpr d) * x - 1| ≤ 1 / 256) ∧
    (s.cfg.optFrsqrte = true → 0 < x →
      ∃ t, exec (.frsqrtex d b rc) s = .next t ∧ isNumber (t.getFpr d) = true ∧ 0 < numberOf (t.getFpr d) ∧
        (31 / 32 : ℚ) ^ 2 ≤ numberOf (t.getFpr d) ^ 2 * x ∧ numberOf (t.getFpr d) ^ 2 * x ≤ (33 / 32 : ℚ) ^ 2)

/-- The arithmetic instructions with MSR[FP] = 1: they complete, change only frD, the FPSCR and CR1, raise only what their pages
list, and take the enabled exception; and the estimates lie within their bounds (43 R310, R312 to R325, R327 to R334; 60 R608). -/
def Obligations.FloatArithmetic : Prop :=
  (∀ (s : State) (d a b c : BitVec 5) (rc : Bool), s.fpOn = true →
    arithmeticEffect s d rc affectedAdd (.faddx d a b rc) ∧ arithmeticEffect s d rc affectedAdd (.faddsx d a b rc) ∧
    arithmeticEffect s d rc affectedAdd (.fsubx d a b rc) ∧ arithmeticEffect s d rc affectedAdd (.fsubsx d a b rc) ∧
    arithmeticEffect s d rc affectedMul (.fmulx d a c rc) ∧ arithmeticEffect s d rc affectedMul (.fmulsx d a c rc) ∧
    arithmeticEffect s d rc affectedDiv (.fdivx d a b rc) ∧ arithmeticEffect s d rc affectedDiv (.fdivsx d a b rc) ∧
    (s.cfg.optFsqrt = true → arithmeticEffect s d rc affectedSqrt (.fsqrtx d b rc) ∧
      arithmeticEffect s d rc affectedSqrt (.fsqrtsx d b rc)) ∧
    (s.cfg.optFres = true → arithmeticEffect s d rc affectedRes (.fresx d b rc)) ∧
    (s.cfg.optFrsqrte = true → arithmeticEffect s d rc affectedRsqrte (.frsqrtex d b rc)) ∧
    arithmeticEffect s d rc affectedMadd (.fmaddx d a b c rc) ∧ arithmeticEffect s d rc affectedMadd (.fmaddsx d a b c rc) ∧
    arithmeticEffect s d rc affectedMadd (.fmsubx d a b c rc) ∧ arithmeticEffect s d rc affectedMadd (.fmsubsx d a b c rc) ∧
    arithmeticEffect s d rc affectedMadd (.fnmaddx d a b c rc) ∧ arithmeticEffect s d rc affectedMadd (.fnmaddsx d a b c rc) ∧
    arithmeticEffect s d rc affectedMadd (.fnmsubx d a b c rc) ∧ arithmeticEffect s d rc affectedMadd (.fnmsubsx d a b c rc)) ∧
  estimates

/-- A plus or minus infinity (43 R311). -/
def infinite (d : Dword) : Bool := slice 63 d 1 == 0x7FF0000000000000

/-- A plus or minus zero (43 R311). -/
def zero (d : Dword) : Bool := slice 63 d 1 == 0

/-- The infinity of this sign. -/
def infinityWith (neg : Bool) : Dword := if neg then 0xFFF0000000000000 else 0x7FF0000000000000

/-- The zero of this sign. -/
def zeroWith (neg : Bool) : Dword := if neg then 0x8000000000000000 else 0

/-- The NaN result: the first operand that is a NaN, with bit 12 set and, in single precision, bits 35 to 63 cleared; the generated
quiet NaN where no operand is a NaN (43 R311). -/
def nanOf (single : Bool) (used : List Dword) : Dword :=
  match used.find? isNan with
  | none => 0x7FF8000000000000
  | some d => (d ||| 0x0008000000000000) &&& (if single then 0xFFFFFFFFE0000000 else BitVec.allOnes 64)

/-- An operation whose result is not rounded: `bits` are raised, FR and FI are 0 (free where `loose`: 43 R310 item 6), frD receives
`v` and FPRF its class, or, where `v` is none, both stay; CR1 follows with `rc`. It completes and changes nothing else, but that an
operation without a result, whose exception is enabled, takes that exception with FE0 | FE1 = 1, its own address in SRR0 (43 R310,
R312; 60 R608). -/
def unroundedEffect (s : State) (d : BitVec 5) (rc loose : Bool) (bits : Word) (v : Option Dword) (r : Result) : Prop :=
  ∃ t, r = .next t ∧ fpscrEffect s.fpscr t.fpscr bits ∧ raisesBits s t bits ∧
    (loose = false → t.fpscr.getMsbD 13 = false ∧ t.fpscr.getMsbD 14 = false) ∧ cr1Effect s t rc ∧ fprsKept s t [d] ∧
    (v = none → t.getFpr d = s.getFpr d ∧ t.isSingle d = s.isSingle d ∧ slice 5 t.fpscr 15 = slice 5 s.fpscr 15 ∧
      t.fpscr.getMsbD 1 = true) ∧
    (∀ w, v = some w → t.getFpr d = w ∧ slice 5 t.fpscr 15 = fprfOf w) ∧
    (s.fe = false ∨ v ≠ none → floatFrame s t) ∧
    (s.fe = true → v = none →
      raisesIn (.program .fpEnabled) { s with fpscr := t.fpscr, cr := t.cr, draws := t.draws } r)

/-- NaN operands and invalid operations (43 R310 item 2, R311, R313 steps 1 to 3): a signalling NaN raises VXSNAN, beside the bits
`op` of the operation; with VE = 1 there is then no result; else the result is the NaN of R311, as it is for a quiet NaN alone,
which raises nothing. -/
def nanEffect (s : State) (d : BitVec 5) (rc loose single : Bool) (used : List Dword) (op : Word) (r : Result) : Prop :=
  let bits := (if used.any isSnan then bitAt 7 else 0) ||| op
  bits ≠ 0 ∨ used.any isNan = true →
    unroundedEffect s d rc loose bits (if bits ≠ 0 ∧ s.fpscr.getMsbD 24 = true then none else some (nanOf single used)) r

/-- The operation on `used`, with the invalid-operation bits `op` of these operands, and its infinite or exact zero result `v`, if it
has one: that result raises nothing. -/
def specialEffect (s : State) (d : BitVec 5) (rc single : Bool) (used : List Dword) (op : Word) (v : Option Dword) (r : Result) :
    Prop :=
  nanEffect s d rc false single used op r ∧
    (used.any isNan = false → op = 0 → v ≠ none → unroundedEffect s d rc false 0 v r)

/-- The double-precision instruction, and the single-precision one on operands that are singles. -/
def specialBoth (s : State) (d : BitVec 5) (rc : Bool) (used : List Dword) (op : Word) (v : Option Dword) (i j : Instr) : Prop :=
  specialEffect s d rc false used op v (exec i s) ∧
    (used.all singleRepresentable = true → specialEffect s d rc true used op v (exec j s))

/-- VXISI: the sum of two infinities of opposite signs (43 R313 step 1). -/
def sumBits (xInf xNeg yInf yNeg : Bool) : Word := if xInf && yInf && xNeg != yNeg then bitAt 8 else 0

/-- The sum where it is infinite or an exact zero, the summands being infinities with these signs or the numbers `x` and `y`: a zero
sum of opposite signs is +0, but -0 under round toward minus infinity (43 R313 step 5). -/
def sumSpecial (rn : BitVec 2) (xInf xNeg : Bool) (x : ℚ) (yInf yNeg : Bool) (y : ℚ) : Option Dword :=
  if xInf then some (infinityWith xNeg)
  else if yInf then some (infinityWith yNeg)
  else if x + y = 0 then some (zeroWith (if xNeg = yNeg then xNeg else rn == 3))
  else none

/-- The product is infinite. -/
def productInfinite (a c : Dword) : Bool := (infinite a && !isNan c && !zero c) || (infinite c && !isNan a && !zero a)

/-- VXIMZ: an infinity times a zero (43 R313 step 1). -/
def productBits (a c : Dword) : Word := if (infinite a && zero c) || (zero a && infinite c) then bitAt 11 else 0

/-- The product where it is infinite or has a zero factor. -/
def productSpecial (a c : Dword) : Option Dword :=
  if productInfinite a c then some (infinityWith (a.msb ^^ c.msb))
  else if zero a || zero c then some (zeroWith (a.msb ^^ c.msb))
  else none

/-- VXIDI and VXZDZ: an infinity by an infinity, a zero by a zero (43 R313 step 1). -/
def quotientBits (a b : Dword) : Word := if infinite a && infinite b then bitAt 9 else if zero a && zero b then bitAt 10 else 0

/-- The quotient where it is infinite or zero, a finite number by a zero apart. -/
def quotientSpecial (a b : Dword) : Option Dword :=
  if infinite a then some (infinityWith (a.msb ^^ b.msb))
  else if infinite b || (zero a && !zero b) then some (zeroWith (a.msb ^^ b.msb))
  else none

/-- VXSQRT: the operand is negative, and neither -0 nor a NaN (43 R313 step 1, R322, R325). -/
def rootBits (b : Dword) : Word := if b.msb && !isNan b && !zero b then bitAt 22 else 0

/-- The square root of plus infinity or of a zero: the operand itself (43 R322). -/
def rootSpecial (b : Dword) : Option Dword := if infinite b || zero b then some b else none

/-- A multiply-add: the sum of the product of `a` and `c` and of `b` (its sign inverted when `minus`), its infinite or zero result
negated when `negate` (43 R327 to R334). -/
def specialMadd (s : State) (d a b c : BitVec 5) (rc minus negate : Bool) (i j : Instr) : Prop :=
  let x := s.getFpr a
  let y := s.getFpr b
  let z := s.getFpr c
  let inf := productInfinite x z
  let v := sumSpecial (slice 2 s.fpscr 30) inf (x.msb ^^ z.msb) (numberOf x * numberOf z) (infinite y) (y.msb ^^ minus)
    (if minus then -numberOf y else numberOf y)
  specialBoth s d rc [x, y, z] (productBits x z ||| sumBits inf (x.msb ^^ z.msb) (infinite y) (y.msb ^^ minus))
    (if negate then v.map (fun w => w ^^^ 0x8000000000000000) else v) i j

/-- The arithmetic instructions on NaNs and infinities, with exact zero results and invalid operations, under the reference
arithmetic. -/
def specialResults : Prop :=
  ∀ (s : State) (d a b c : BitVec 5) (rc : Bool), s.fpOn = true → s.cfg.fpResult = .reference →
    let x := s.getFpr a
    let y := s.getFpr b
    let z := s.getFpr c
    let rn := slice 2 s.fpscr 30
    specialBoth s d rc [x, y] (sumBits (infinite x) x.msb (infinite y) y.msb)
      (sumSpecial rn (infinite x) x.msb (numberOf x) (infinite y) y.msb (numberOf y)) (.faddx d a b rc) (.faddsx d a b rc) ∧
    specialBoth s d rc [x, y] (sumBits (infinite x) x.msb (infinite y) !y.msb)
      (sumSpecial rn (infinite x) x.msb (numberOf x) (infinite y) (!y.msb) (-numberOf y)) (.fsubx d a b rc) (.fsubsx d a b rc) ∧
    specialBoth s d rc [x, z] (productBits x z) (productSpecial x z) (.fmulx d a c rc) (.fmulsx d a c rc) ∧
    specialBoth s d rc [x, y] (quotientBits x y) (quotientSpecial x y) (.fdivx d a b rc) (.fdivsx d a b rc) ∧
    (s.cfg.optFsqrt = true → specialBoth s d rc [y] (rootBits y) (rootSpecial y) (.fsqrtx d b rc) (.fsqrtsx d b rc)) ∧
    specialMadd s d a b c rc false false (.fmaddx d a b c rc) (.fmaddsx d a b c rc) ∧
    specialMadd s d a b c rc true false (.fmsubx d a b c rc) (.fmsubsx d a b c rc) ∧
    specialMadd s d a b c rc false true (.fnmaddx d a b c rc) (.fnmaddsx d a b c rc) ∧
    specialMadd s d a b c rc true true (.fnmsubx d a b c rc) (.fnmsubsx d a b c rc)

/-- A zero divide (43 R313 step 4): ZX is raised; with ZE = 1 there is no result, else it is the infinity of sign `neg`. -/
def zeroDivideEffect (s : State) (d : BitVec 5) (rc loose neg : Bool) (r : Result) : Prop :=
  unroundedEffect s d rc loose (bitAt 5) (if s.fpscr.getMsbD 27 then none else some (infinityWith neg)) r

/-- `fdiv` and, with single operands, `fdivs` of a finite nonzero number by a zero, under the reference arithmetic (43 R313 step 4,
R320, R321; log 18): the sign of the infinity is the XOR of the operands'. -/
def zeroDivides : Prop :=
  ∀ (s : State) (d a b : BitVec 5) (rc : Bool), s.fpOn = true → s.cfg.fpResult = .reference →
    isNumber (s.getFpr a) = true → numberOf (s.getFpr a) ≠ 0 → zero (s.getFpr b) = true →
    let neg := (s.getFpr a).msb ^^ (s.getFpr b).msb
    zeroDivideEffect s d rc false neg (exec (.fdivx d a b rc) s) ∧
    (singleRepresentable (s.getFpr a) = true → zeroDivideEffect s d rc false neg (exec (.fdivsx d a b rc) s))

/-- The tables of special operands of the estimates, FR and FI free (43 R324, R325; log 20). They bind every arithmetic. -/
def estimateTables : Prop :=
  ∀ (s : State) (d b : BitVec 5) (rc : Bool), s.fpOn = true →
    let y := s.getFpr b
    (s.cfg.optFres = true → singleRepresentable y = true →
      let r := exec (.fresx d b rc) s
      nanEffect s d rc true true [y] 0 r ∧ (zero y = true → zeroDivideEffect s d rc true y.msb r) ∧
      (infinite y = true → unroundedEffect s d rc true 0 (some (zeroWith y.msb)) r)) ∧
    (s.cfg.optFrsqrte = true →
      let r := exec (.frsqrtex d b rc) s
      nanEffect s d rc true false [y] (rootBits y) r ∧ (zero y = true → zeroDivideEffect s d rc true y.msb r) ∧
      (infinite y = true → y.msb = false → unroundedEffect s d rc true 0 (some 0) r))

/-- Invalid operations, NaNs, infinities, exact zeros and division by zero, double and single (43 R310 to R334; under the reference
arithmetic but for the tables of the estimates: log 18). -/
def Obligations.FloatInvalid : Prop := specialResults ∧ zeroDivides ∧ estimateTables

/-- The operation completes with the nonzero number `v` in frD, its class in FPRF, FR and FI 0, and no exception bit set; only frD,
the FPSCR and CR1 change. -/
def exactEffect (s : State) (d : BitVec 5) (rc : Bool) (v : Dword) (r : Result) : Prop :=
  ∃ t, r = .next t ∧ t.getFpr d = v ∧ slice 5 t.fpscr 15 = fprfOf v ∧ t.fpscr.getMsbD 13 = false ∧
    t.fpscr.getMsbD 14 = false ∧ raisesBits s t 0 ∧ floatFrame s t ∧ fprsKept s t [d] ∧ cr1Effect s t rc

/-- Where the exact result is a nonzero number that the format holds, and underflow is not enabled, it is the result in every
rounding mode, nothing is raised, and no exception is taken. -/
def exactResults : Prop :=
  ∀ (s : State) (d a b c : BitVec 5) (rc : Bool) (v : Dword), s.fpOn = true → s.cfg.fpResult = .reference →
    s.fpscr.getMsbD 26 = false → isNumber v = true → numberOf v ≠ 0 → isNumber (s.getFpr a) = true →
    isNumber (s.getFpr b) = true →
    let x := numberOf (s.getFpr a)
    let y := numberOf (s.getFpr b)
    let z := numberOf (s.getFpr c)
    let single := singleRepresentable (s.getFpr a) && singleRepresentable (s.getFpr b) && singleRepresentable v
    let single3 := single && singleRepresentable (s.getFpr c)
    let exactly := fun q i => numberOf v = q → exactEffect s d rc v (exec i s)
    exactly (x + y) (.faddx d a b rc) ∧ (single = true → exactly (x + y) (.faddsx d a b rc)) ∧
    exactly (x - y) (.fsubx d a b rc) ∧ (single = true → exactly (x - y) (.fsubsx d a b rc)) ∧
    exactly (x * y) (.fmulx d a b rc) ∧ (single = true → exactly (x * y) (.fmulsx d a b rc)) ∧
    (y ≠ 0 → exactly (x / y) (.fdivx d a b rc) ∧ (single = true → exactly (x / y) (.fdivsx d a b rc))) ∧
    (isNumber (s.getFpr c) = true →
      exactly (x * z + y) (.fmaddx d a b c rc) ∧ (single3 = true → exactly (x * z + y) (.fmaddsx d a b c rc)) ∧
      exactly (x * z - y) (.fmsubx d a b c rc) ∧ (single3 = true → exactly (x * z - y) (.fmsubsx d a b c rc)) ∧
      exactly (-(x * z + y)) (.fnmaddx d a b c rc) ∧ (single3 = true → exactly (-(x * z + y)) (.fnmaddsx d a b c rc)) ∧
      exactly (-(x * z - y)) (.fnmsubx d a b c rc) ∧ (single3 = true → exactly (-(x * z - y)) (.fnmsubsx d a b c rc))) ∧
    (s.cfg.optFsqrt = true → v.msb = false → numberOf v * numberOf v = y →
      exactEffect s d rc v (exec (.fsqrtx d b rc) s) ∧
      ((singleRepresentable (s.getFpr b) && singleRepresentable v) = true → exactEffect s d rc v (exec (.fsqrtsx d b rc) s)))

/-- A double-precision instruction rounds the exact result to double, and the single-precision one, where every operand is a
single, to single. -/
def roundsBoth (s : State) (d : BitVec 5) (rc negate singles : Bool) (x : ℝ) (i j : Instr) : Prop :=
  roundedEffect doubleFormat s d rc negate x (exec i s) ∧
    (singles = true → roundedEffect singleFormat s d rc negate x (exec j s))

/-- Where the exact result is a nonzero number, it is correctly rounded, with its inexactness, overflow and underflow reported, and
no exception taken. -/
def roundedResults : Prop :=
  ∀ (s : State) (d a b c : BitVec 5) (rc : Bool), s.fpOn = true → s.fe = false → s.cfg.fpResult = .reference →
    isNumber (s.getFpr a) = true → isNumber (s.getFpr b) = true →
    let x : ℝ := (numberOf (s.getFpr a) : ℝ)
    let y : ℝ := (numberOf (s.getFpr b) : ℝ)
    let z : ℝ := (numberOf (s.getFpr c) : ℝ)
    let singles := singleRepresentable (s.getFpr a) && singleRepresentable (s.getFpr b)
    let singles3 := singles && singleRepresentable (s.getFpr c)
    roundsBoth s d rc false singles (x + y) (.faddx d a b rc) (.faddsx d a b rc) ∧
    roundsBoth s d rc false singles (x - y) (.fsubx d a b rc) (.fsubsx d a b rc) ∧
    roundsBoth s d rc false singles (x * y) (.fmulx d a b rc) (.fmulsx d a b rc) ∧
    (y ≠ 0 → roundsBoth s d rc false singles (x / y) (.fdivx d a b rc) (.fdivsx d a b rc)) ∧
    (s.cfg.optFsqrt = true → 0 ≤ y →
      roundsBoth s d rc false (singleRepresentable (s.getFpr b)) (Real.sqrt y) (.fsqrtx d b rc) (.fsqrtsx d b rc)) ∧
    (isNumber (s.getFpr c) = true →
      roundsBoth s d rc false singles3 (x * z + y) (.fmaddx d a b c rc) (.fmaddsx d a b c rc) ∧
      roundsBoth s d rc false singles3 (x * z - y) (.fmsubx d a b c rc) (.fmsubsx d a b c rc) ∧
      roundsBoth s d rc true singles3 (x * z + y) (.fnmaddx d a b c rc) (.fnmaddsx d a b c rc) ∧
      roundsBoth s d rc true singles3 (x * z - y) (.fnmsubx d a b c rc) (.fnmsubsx d a b c rc))

/-- Under the reference arithmetic (log 18) the exact sum, difference, product, quotient, square root and multiply-add of the
operands is the result where the format holds it, and is correctly rounded where it does not (43 R313 to R323, R327 to R334; scaled
results: log 19). -/
def Obligations.FloatExactResults : Prop := exactResults ∧ roundedResults

/-- Two results whose next states have the same FPSCR, CR1 and pc, but for what `p` says of frD and `mask` leaves out of the
FPSCR. -/
def sameOutcome (d : BitVec 5) (mask : Word) (p : Dword → Dword → Prop) (r r' : Result) : Prop :=
  ∃ t t', r = .next t ∧ r' = .next t' ∧ p (t.getFpr d) (t'.getFpr d) ∧ t.fpscr &&& mask = t'.fpscr &&& mask ∧
    t.crField 1 = t'.crField 1 ∧ t.nia = t'.nia

/-- The negation of a result that is no NaN. -/
def negated (v w : Dword) : Prop := (isNan w = true → v = w) ∧ (isNan w = false → v = w ^^^ 0x8000000000000000)

/-- `fsub` is `fadd` with the sign bit of frB inverted, where frB is no NaN: shown with a register `e` that holds the inverted frB
(43 R316, R317). The negative multiply-adds give the negation of the positive ones, FPRF apart, which is the class of the result,
unless the result is a NaN; with invalid operation, overflow and underflow not enabled (43 R331 to R334). All under the reference
arithmetic (log 18). -/
def Obligations.FloatSignRules : Prop :=
  ∀ (s : State) (d a b c e : BitVec 5) (rc tag : Bool), s.fpOn = true → s.cfg.fpResult = .reference →
    (isNan (s.getFpr b) = false → e ≠ a → e ≠ d →
      let s' := s.setFpr e (s.getFpr b ^^^ 0x8000000000000000) tag
      let same := sameOutcome d (BitVec.allOnes 32) (fun v w => v = w)
      same (exec (.fsubx d a b rc) s) (exec (.faddx d a e rc) s') ∧
      same (exec (.fsubsx d a b rc) s) (exec (.faddsx d a e rc) s')) ∧
    (s.fpscr &&& 0xE0 = 0 →
      let negates := sameOutcome d (~~~ 0x1F000) negated
      negates (exec (.fnmaddx d a b c rc) s) (exec (.fmaddx d a b c rc) s) ∧
      negates (exec (.fnmsubx d a b c rc) s) (exec (.fmsubx d a b c rc) s) ∧
      ((singleRepresentable (s.getFpr a) && singleRepresentable (s.getFpr b) && singleRepresentable (s.getFpr c)) = true →
        negates (exec (.fnmaddsx d a b c rc) s) (exec (.fmaddsx d a b c rc) s) ∧
        negates (exec (.fnmsubsx d a b c rc) s) (exec (.fmsubsx d a b c rc) s)) ∧
      ∀ t, exec (.fnmaddx d a b c rc) s = .next t → slice 5 t.fpscr 15 = fprfOf (t.getFpr d))

/-- Rounding to a whole number of units: the result is within one unit of the value, exact unless FI says otherwise, within half
a unit to nearest and even on a tie, never beyond the value toward zero, and FR says that the magnitude was raised (43 R313
step 5). -/
def Obligations.RoundingIsFaithful : Prop :=
  ∀ (mode : RoundMode) (v : Exact) (q : Int),
    let r := quantize mode v q
    let x : ℚ := (v.mant : ℚ) * 2 ^ v.exp
    let y : ℚ := (r.n : ℚ) * 2 ^ q
    |y - x| < 2 ^ q ∧ (r.inexact = false ↔ y = x) ∧ (r.up = true ↔ x < y) ∧
      (mode = .nearest → |y - x| ≤ 2 ^ q / 2 ∧ (|y - x| = 2 ^ q / 2 → r.n % 2 = 0)) ∧ (mode = .zero → y ≤ x) ∧
      (mode = .up → if v.neg then y ≤ x else x ≤ y) ∧ (mode = .down → if v.neg then x ≤ y else y ≤ x)

/-- The exact sum and product of R313 are the sum and product of the numbers the operands stand for. -/
def Obligations.ExactArithmetic : Prop :=
  ∀ (z : Bool) (x y : FpVal), x.isNumber = true → y.isNumber = true →
    (x.add z y).toRat = x.toRat + y.toRat ∧ (x.mul y).toRat = x.toRat * y.toRat ∧
      (x.add z y).isNumber = true ∧ (x.mul y).isNumber = true

/-- A floating-point move completes with `v` in frD and the tag of frB, changes CR1 when `rc`, and leaves the FPSCR alone. -/
def moveEffect (s : State) (d : BitVec 5) (rc : Bool) (v : Dword) (single : Bool) (r : Result) : Prop :=
  ∃ t, r = .next t ∧ floatFrame s t ∧ t.fpscr = s.fpscr ∧ t.draws = s.draws ∧ t.getFpr d = v ∧ t.isSingle d = single ∧
    fprsKept s t [d] ∧ cr1Effect s t rc

/-- The moves and `fsel`, with MSR[FP] = 1; NaNs are moved like any bits (43 R326; 44 R350 to R354). -/
def Obligations.FloatMoves : Prop :=
  ∀ (s : State) (d a b c : BitVec 5) (rc : Bool), s.fpOn = true →
    moveEffect s d rc (s.getFpr b) (s.isSingle b) (exec (.fmrx d b rc) s) ∧
    moveEffect s d rc (s.getFpr b ^^^ 0x8000000000000000) (s.isSingle b) (exec (.fnegx d b rc) s) ∧
    moveEffect s d rc (0#1 ++ (s.getFpr b).setWidth 63) (s.isSingle b) (exec (.fabsx d b rc) s) ∧
    moveEffect s d rc (1#1 ++ (s.getFpr b).setWidth 63) (s.isSingle b) (exec (.fnabsx d b rc) s) ∧
    (s.cfg.optFsel = true →
      ((∃ n, classify (s.getFpr a) = .zero n) ∨ classify (s.getFpr a) = .inf false ∨
          (∃ v, classify (s.getFpr a) = .finite v ∧ v.neg = false) →
        moveEffect s d rc (s.getFpr c) false (exec (.fselx d a b c rc) s)) ∧
      (classify (s.getFpr a) = .nan ∨ classify (s.getFpr a) = .inf true ∨
          (∃ v, classify (s.getFpr a) = .finite v ∧ v.neg = true) →
        moveEffect s d rc (s.getFpr b) false (exec (.fselx d a b c rc) s)))

/-- The integer `i` is the operand rounded to a `w`-bit signed integer under this mode, with the saturation values; a NaN gives the
least one (44 R356 to R359). -/
def roundedInteger (mode : RoundMode) (w : Nat) (b : Dword) (i : Int) : Prop :=
  let least := -(2 : Int) ^ (w - 1)
  let greatest := (2 : Int) ^ (w - 1) - 1
  (isNan b = true → i = least) ∧
  (isNan b = false → isNumber b = false → i = if b.msb then least else greatest) ∧
  (isNumber b = true → ∀ n : ℕ, roundsTo mode b.msb |((numberOf b : ℚ) : ℝ)| n →
    i = max least (min greatest (if b.msb then -(n : Int) else n)))

/-- The FPSCR after a conversion to a `w`-bit integer: a NaN and a number out of range raise VXCVI (a signalling NaN also VXSNAN),
with FR and FI 0; an inexact conversion in range sets FI and XX, and FR if the magnitude was raised (44 R356). -/
def convertReports (mode : RoundMode) (w : Nat) (s t : State) (b : Dword) : Prop :=
  let a : ℝ := |((numberOf b : ℚ) : ℝ)|
  (isNumber b = false → t.fpscr.getMsbD 13 = false ∧ t.fpscr.getMsbD 14 = false ∧
    raisesBits s t (bitAt 23 ||| (if isSnan b then bitAt 7 else 0))) ∧
  (isNumber b = true → ∀ n : ℕ, roundsTo mode b.msb a n →
    let out := outside w (if b.msb then -(n : Int) else n)
    (out = true → t.fpscr.getMsbD 13 = false ∧ t.fpscr.getMsbD 14 = false ∧ raisesBits s t (bitAt 23)) ∧
    (out = false → (t.fpscr.getMsbD 13 = true ↔ a < n) ∧ (t.fpscr.getMsbD 14 = true ↔ a ≠ n) ∧
      raisesBits s t (if a = n then 0 else bitAt 6)))

/-- A conversion to a `w`-bit integer, which stands in the low `w` bits of frD; an invalid one with VE = 1 leaves frD as it is. -/
def convertEffect (s : State) (d b : BitVec 5) (w : Nat) (mode : RoundMode) (r : Result) : Prop :=
  let v := s.getFpr b
  let invalid := isNumber v = false ∨
    ∃ n : ℕ, roundsTo mode v.msb |((numberOf v : ℚ) : ℝ)| n ∧ outside w (if v.msb then -(n : Int) else n) = true
  ∃ t, r = .next t ∧ convertReports mode w s t v ∧
    (¬ (invalid ∧ s.fpscr.getMsbD 24 = true) → roundedInteger mode w v ((t.getFpr d).setWidth w).toInt) ∧
    (invalid ∧ s.fpscr.getMsbD 24 = true → t.getFpr d = s.getFpr d)

/-- Rounding and conversion instructions with MSR[FP] = 1 complete, change only frD, the FPSCR and CR1, raise only what their pages
list, and take the enabled exception by R350 (log 38). Under the reference arithmetic (log 18) and with floating-point exceptions not
taken, `frsp` rounds to single, copies zeros and infinities and makes NaNs quiet singles, `fcfid` rounds the integer to double, 0 to
+0, and the others round to an integer, those toward zero truncating (44 R355 to R360). -/
def Obligations.FloatConvert : Prop :=
  ∀ (s : State) (d b : BitVec 5) (rc : Bool), s.fpOn = true →
    (convertingEffect s d rc affectedRsp (.frspx d b rc) ∧ convertingEffect s d rc affectedConvert (.fctiwx d b rc) ∧
      convertingEffect s d rc affectedConvert (.fctiwzx d b rc) ∧
      (s.cfg.impl64 = true → convertingEffect s d rc affectedConvert (.fctidx d b rc) ∧
        convertingEffect s d rc affectedConvert (.fctidzx d b rc) ∧ convertingEffect s d rc affectedCfid (.fcfidx d b rc))) ∧
    (s.fe = false → s.cfg.fpResult = .reference →
      (isNumber (s.getFpr b) = true →
        roundedEffect singleFormat s d rc false ((numberOf (s.getFpr b) : ℚ) : ℝ) (exec (.frspx d b rc) s)) ∧
      specialEffect s d rc true [s.getFpr b] 0 (if infinite (s.getFpr b) || zero (s.getFpr b) then some (s.getFpr b) else none)
        (exec (.frspx d b rc) s) ∧
      convertEffect s d b 32 (roundMode s.fpscr) (exec (.fctiwx d b rc) s) ∧
      convertEffect s d b 32 .zero (exec (.fctiwzx d b rc) s) ∧
      (s.cfg.impl64 = true →
        convertEffect s d b 64 (roundMode s.fpscr) (exec (.fctidx d b rc) s) ∧
        convertEffect s d b 64 .zero (exec (.fctidzx d b rc) s) ∧
        roundedEffect doubleFormat s d rc false ((s.getFpr b).toInt : ℝ) (exec (.fcfidx d b rc) s) ∧
        (s.getFpr b = 0 → unroundedEffect s d rc false 0 (some 0) (exec (.fcfidx d b rc) s))))

/-- The code of a comparison by value: LT, GT, EQ, or UN where an operand is a NaN (44 R361). -/
def floatCode (x y : FpVal) : BitVec 4 :=
  match x, y with
  | .nan, _ => 1
  | _, .nan => 1
  | .inf a, .inf b => if a = b then 2 else if a then 8 else 4
  | .inf a, _ => if a then 8 else 4
  | _, .inf b => if b then 4 else 8
  | x, y => if x.toRat < y.toRat then 8 else if y.toRat < x.toRat then 4 else 2

/-- A floating-point compare: the CR field and FPCC are the code, VXSNAN is raised by a signalling NaN and by nothing else, VXVC (where
the page lists it) by its rule; it completes and changes nothing else, or, where it leaves FEX = 1 with FE0 | FE1 = 1, takes the
enabled exception, with the FPSCR and CR written and its own address in SRR0 (44 R350 over 43 R312: log 38). -/
def floatCompareEffect (s : State) (crfd : BitVec 3) (a b : Dword) (affected : Word) (r : Result) : Prop :=
  ∃ t, r = .next t ∧ sameMemory s t ∧
    ((s.fe && t.fpscr.getMsbD 1) = false → t = { s with fpscr := t.fpscr, cr := t.cr, nia := s.nextPc }) ∧
    ((s.fe && t.fpscr.getMsbD 1) = true → raisesIn (.program .fpEnabled) { s with fpscr := t.fpscr, cr := t.cr } r) ∧
    t.crField crfd = floatCode (classify a) (classify b) ∧ crKept s t [crfd] ∧
    slice 4 t.fpscr 16 = floatCode (classify a) (classify b) ∧ slice 3 t.fpscr 13 = slice 3 s.fpscr 13 ∧
    fpscrEffect s.fpscr t.fpscr affected ∧
    t.fpscr.getMsbD 7 = (s.fpscr.getMsbD 7 || isSnan a || isSnan b) ∧
    (t.fpscr.getMsbD 12 = (s.fpscr.getMsbD 12 || (affected.getMsbD 12 &&
      (if isSnan a || isSnan b then !s.fpscr.getMsbD 24 else isNan a || isNan b))))

/-- `fcmpu` and `fcmpo` with MSR[FP] = 1: they order by numeric value; a signalling NaN, and nothing else, sets VXSNAN; `fcmpo` sets
VXVC by its rule; the enabled exception is taken by R350 (44 R350, R361, R362; log 38). -/
def Obligations.FloatCompare : Prop :=
  ∀ (s : State) (crfd : BitVec 3) (a b : BitVec 5), s.fpOn = true →
    floatCompareEffect s crfd (s.getFpr a) (s.getFpr b) bitVxsnan (exec (.fcmpu crfd a b) s) ∧
    floatCompareEffect s crfd (s.getFpr a) (s.getFpr b) (bitVxsnan ||| bitVxvc) (exec (.fcmpo crfd a b) s)

/-- A bit of the FPSCR that software writes directly: not FEX and not VX. -/
def plainBit (k : Nat) : Bool := k < 32 && k != 1 && k != 2

/-- An exception bit that FX summarises: 3 to 12 and 21 to 23. -/
def exceptionBit (k : Nat) : Bool := (3 ≤ k && k ≤ 12) || (21 ≤ k && k ≤ 23)

/-- The FPSCR after an instruction that writes it: bit by bit but for FEX and VX, which summarise. -/
def fpscrWritten (t : State) (f : Nat → Bool) : Prop :=
  (∀ k, plainBit k = true → t.fpscr.getMsbD k = f k) ∧ t.FpscrSummarised

/-- An instruction that writes the FPSCR as `f` says, and CR fields, completes; where it leaves FEX = 1 and FE0 | FE1 = 1, it then
takes the enabled exception, with the FPSCR and CR written and its own address in SRR0; nothing else changes (44 R350; 60 R608). -/
def fpscrWriteEffect (s : State) (f : Nat → Bool) (crs : State → Prop) (r : Result) : Prop :=
  ∃ t, r = .next t ∧ fpscrWritten t f ∧ crs t ∧ sameMemory s t ∧
    ((s.fe && t.fpscr.getMsbD 1) = false → t = { s with fpscr := t.fpscr, cr := t.cr, nia := s.nextPc }) ∧
    ((s.fe && t.fpscr.getMsbD 1) = true → raisesIn (.program .fpEnabled) { s with fpscr := t.fpscr, cr := t.cr } r)

/-- The FPSCR instructions with MSR[FP] = 1 (44 R363 to R368). -/
def Obligations.FloatStatus : Prop :=
  ∀ (s : State) (d b i : BitVec 5) (rc : Bool) (fm : BitVec 8) (crfd crfs : BitVec 3) (imm : BitVec 4), s.fpOn = true →
    (∃ t, exec (.mffsx d rc) s = .next t ∧ floatFrame s t ∧ t.fpscr = s.fpscr ∧ low (t.getFpr d) = s.fpscr ∧
      t.isSingle d = false ∧ fprsKept s t [d] ∧ cr1Effect s t rc) ∧
    fpscrWriteEffect s (fun k => if fm.getMsbD (k / 4) then (s.getFpr b).getMsbD (32 + k) else s.fpscr.getMsbD k)
      (cr1Effect s · rc) (exec (.mtfsfx fm b rc) s) ∧
    fpscrWriteEffect s (fun k => if k / 4 = crfd.toNat then imm.getMsbD (k % 4) else s.fpscr.getMsbD k)
      (cr1Effect s · rc) (exec (.mtfsfix crfd imm rc) s) ∧
    fpscrWriteEffect s (fun k => s.fpscr.getMsbD k && k != i.toNat) (cr1Effect s · rc) (exec (.mtfsb0x i rc) s) ∧
    fpscrWriteEffect s
      (fun k => s.fpscr.getMsbD k || k == i.toNat || (k == 0 && exceptionBit i.toNat && !s.fpscr.getMsbD i.toNat))
      (cr1Effect s · rc) (exec (.mtfsb1x i rc) s) ∧
    fpscrWriteEffect s (fun k => s.fpscr.getMsbD k && !(k / 4 == crfs.toNat && (k == 0 || exceptionBit k)))
      (fun t => t.crField crfd = slice 4 s.fpscr (4 * crfs.toNat) ∧ crKept s t [crfd]) (exec (.mcrfs crfd crfs) s)
end

