-- ==== Sys2Proof/Laws/State.lean ====
section
/-!
SUPPORT. What every update of the state leaves as it was, field by field and through the accessors: one lemma per field per
update, so that no later proof unfolds a record update.
-/

namespace Sys2Proof.Machine

set_option Elab.async false

/-! ## setGpr -/

@[simp] theorem State.setGpr_cfg (s : State) (r : BitVec 5) (v : Dword) : (s.setGpr r v).cfg = s.cfg := rfl
@[simp] theorem State.setGpr_fpr (s : State) (r : BitVec 5) (v : Dword) : (s.setGpr r v).fpr = s.fpr := rfl
@[simp] theorem State.setGpr_fprSingle (s : State) (r : BitVec 5) (v : Dword) : (s.setGpr r v).fprSingle = s.fprSingle := rfl
@[simp] theorem State.setGpr_nia (s : State) (r : BitVec 5) (v : Dword) : (s.setGpr r v).nia = s.nia := rfl
@[simp] theorem State.setGpr_cr (s : State) (r : BitVec 5) (v : Dword) : (s.setGpr r v).cr = s.cr := rfl
@[simp] theorem State.setGpr_xer (s : State) (r : BitVec 5) (v : Dword) : (s.setGpr r v).xer = s.xer := rfl
@[simp] theorem State.setGpr_lr (s : State) (r : BitVec 5) (v : Dword) : (s.setGpr r v).lr = s.lr := rfl
@[simp] theorem State.setGpr_ctr (s : State) (r : BitVec 5) (v : Dword) : (s.setGpr r v).ctr = s.ctr := rfl
@[simp] theorem State.setGpr_msr (s : State) (r : BitVec 5) (v : Dword) : (s.setGpr r v).msr = s.msr := rfl
@[simp] theorem State.setGpr_srr0 (s : State) (r : BitVec 5) (v : Dword) : (s.setGpr r v).srr0 = s.srr0 := rfl
@[simp] theorem State.setGpr_srr1 (s : State) (r : BitVec 5) (v : Dword) : (s.setGpr r v).srr1 = s.srr1 := rfl
@[simp] theorem State.setGpr_dsisr (s : State) (r : BitVec 5) (v : Dword) : (s.setGpr r v).dsisr = s.dsisr := rfl
@[simp] theorem State.setGpr_dar (s : State) (r : BitVec 5) (v : Dword) : (s.setGpr r v).dar = s.dar := rfl
@[simp] theorem State.setGpr_dec (s : State) (r : BitVec 5) (v : Dword) : (s.setGpr r v).dec = s.dec := rfl
@[simp] theorem State.setGpr_tb (s : State) (r : BitVec 5) (v : Dword) : (s.setGpr r v).tb = s.tb := rfl
@[simp] theorem State.setGpr_sdr1 (s : State) (r : BitVec 5) (v : Dword) : (s.setGpr r v).sdr1 = s.sdr1 := rfl
@[simp] theorem State.setGpr_sprg (s : State) (r : BitVec 5) (v : Dword) : (s.setGpr r v).sprg = s.sprg := rfl
@[simp] theorem State.setGpr_asr (s : State) (r : BitVec 5) (v : Dword) : (s.setGpr r v).asr = s.asr := rfl
@[simp] theorem State.setGpr_ear (s : State) (r : BitVec 5) (v : Dword) : (s.setGpr r v).ear = s.ear := rfl
@[simp] theorem State.setGpr_pvr (s : State) (r : BitVec 5) (v : Dword) : (s.setGpr r v).pvr = s.pvr := rfl
@[simp] theorem State.setGpr_ibat (s : State) (r : BitVec 5) (v : Dword) : (s.setGpr r v).ibat = s.ibat := rfl
@[simp] theorem State.setGpr_dbat (s : State) (r : BitVec 5) (v : Dword) : (s.setGpr r v).dbat = s.dbat := rfl
@[simp] theorem State.setGpr_dabr (s : State) (r : BitVec 5) (v : Dword) : (s.setGpr r v).dabr = s.dabr := rfl
@[simp] theorem State.setGpr_fpscr (s : State) (r : BitVec 5) (v : Dword) : (s.setGpr r v).fpscr = s.fpscr := rfl
@[simp] theorem State.setGpr_sr (s : State) (r : BitVec 5) (v : Dword) : (s.setGpr r v).sr = s.sr := rfl
@[simp] theorem State.setGpr_slb (s : State) (r : BitVec 5) (v : Dword) : (s.setGpr r v).slb = s.slb := rfl
@[simp] theorem State.setGpr_tlb (s : State) (r : BitVec 5) (v : Dword) : (s.setGpr r v).tlb = s.tlb := rfl
@[simp] theorem State.setGpr_reserve (s : State) (r : BitVec 5) (v : Dword) : (s.setGpr r v).reserve = s.reserve := rfl
@[simp] theorem State.setGpr_reserveAddr (s : State) (r : BitVec 5) (v : Dword) : (s.setGpr r v).reserveAddr = s.reserveAddr := rfl
@[simp] theorem State.setGpr_extInt (s : State) (r : BitVec 5) (v : Dword) : (s.setGpr r v).extInt = s.extInt := rfl
@[simp] theorem State.setGpr_resetPending (s : State) (r : BitVec 5) (v : Dword) : (s.setGpr r v).resetPending = s.resetPending := rfl
@[simp] theorem State.setGpr_mcheckPending (s : State) (r : BitVec 5) (v : Dword) : (s.setGpr r v).mcheckPending = s.mcheckPending := rfl
@[simp] theorem State.setGpr_decPending (s : State) (r : BitVec 5) (v : Dword) : (s.setGpr r v).decPending = s.decPending := rfl
@[simp] theorem State.setGpr_fpPending (s : State) (r : BitVec 5) (v : Dword) : (s.setGpr r v).fpPending = s.fpPending := rfl
@[simp] theorem State.setGpr_tracePending (s : State) (r : BitVec 5) (v : Dword) : (s.setGpr r v).tracePending = s.tracePending := rfl
@[simp] theorem State.setGpr_mem (s : State) (r : BitVec 5) (v : Dword) : (s.setGpr r v).mem = s.mem := rfl
@[simp] theorem State.setGpr_staleInsn (s : State) (r : BitVec 5) (v : Dword) : (s.setGpr r v).staleInsn = s.staleInsn := rfl
@[simp] theorem State.setGpr_icbiDone (s : State) (r : BitVec 5) (v : Dword) : (s.setGpr r v).icbiDone = s.icbiDone := rfl
@[simp] theorem State.setGpr_stale (s : State) (r : BitVec 5) (v : Dword) : (s.setGpr r v).stale = s.stale := rfl
@[simp] theorem State.setGpr_deviceOut (s : State) (r : BitVec 5) (v : Dword) : (s.setGpr r v).deviceOut = s.deviceOut := rfl
@[simp] theorem State.setGpr_entered (s : State) (r : BitVec 5) (v : Dword) : (s.setGpr r v).entered = s.entered := rfl
@[simp] theorem State.setGpr_env (s : State) (r : BitVec 5) (v : Dword) : (s.setGpr r v).env = s.env := rfl
@[simp] theorem State.setGpr_draws (s : State) (r : BitVec 5) (v : Dword) : (s.setGpr r v).draws = s.draws := rfl
@[simp] theorem State.setGpr_getFpr (s : State) (r : BitVec 5) (v : Dword) (q : BitVec 5) : (s.setGpr r v).getFpr q = s.getFpr q := rfl
@[simp] theorem State.setGpr_isSingle (s : State) (r : BitVec 5) (v : Dword) (q : BitVec 5) : (s.setGpr r v).isSingle q = s.isSingle q := rfl
@[simp] theorem State.setGpr_norm (s : State) (r : BitVec 5) (v : Dword) (w : Dword) : (s.setGpr r v).norm w = s.norm w := rfl
@[simp] theorem State.setGpr_ea32 (s : State) (r : BitVec 5) (v : Dword) (w : Dword) : (s.setGpr r v).ea32 w = s.ea32 w := rfl
@[simp] theorem State.setGpr_mode64 (s : State) (r : BitVec 5) (v : Dword) : (s.setGpr r v).mode64 = s.mode64 := rfl
@[simp] theorem State.setGpr_so (s : State) (r : BitVec 5) (v : Dword) : (s.setGpr r v).so = s.so := rfl
@[simp] theorem State.setGpr_ov (s : State) (r : BitVec 5) (v : Dword) : (s.setGpr r v).ov = s.ov := rfl
@[simp] theorem State.setGpr_ca (s : State) (r : BitVec 5) (v : Dword) : (s.setGpr r v).ca = s.ca := rfl
@[simp] theorem State.setGpr_fe (s : State) (r : BitVec 5) (v : Dword) : (s.setGpr r v).fe = s.fe := rfl
@[simp] theorem State.setGpr_fpOn (s : State) (r : BitVec 5) (v : Dword) : (s.setGpr r v).fpOn = s.fpOn := rfl
@[simp] theorem State.setGpr_pr (s : State) (r : BitVec 5) (v : Dword) : (s.setGpr r v).pr = s.pr := rfl
@[simp] theorem State.setGpr_dr (s : State) (r : BitVec 5) (v : Dword) : (s.setGpr r v).dr = s.dr := rfl
@[simp] theorem State.setGpr_crField (s : State) (r : BitVec 5) (v : Dword) (k : BitVec 3) : (s.setGpr r v).crField k = s.crField k := rfl
@[simp] theorem State.setGpr_crBit (s : State) (r : BitVec 5) (v : Dword) (k : BitVec 5) : (s.setGpr r v).crBit k = s.crBit k := rfl
@[simp] theorem State.setGpr_blockOf (s : State) (r : BitVec 5) (v : Dword) (a : Nat) : (s.setGpr r v).blockOf a = s.blockOf a := rfl

/-! ## setFpr -/

@[simp] theorem State.setFpr_cfg (s : State) (r : BitVec 5) (v : Dword) (b : Bool) : (s.setFpr r v b).cfg = s.cfg := rfl
@[simp] theorem State.setFpr_gpr (s : State) (r : BitVec 5) (v : Dword) (b : Bool) : (s.setFpr r v b).gpr = s.gpr := rfl
@[simp] theorem State.setFpr_nia (s : State) (r : BitVec 5) (v : Dword) (b : Bool) : (s.setFpr r v b).nia = s.nia := rfl
@[simp] theorem State.setFpr_cr (s : State) (r : BitVec 5) (v : Dword) (b : Bool) : (s.setFpr r v b).cr = s.cr := rfl
@[simp] theorem State.setFpr_xer (s : State) (r : BitVec 5) (v : Dword) (b : Bool) : (s.setFpr r v b).xer = s.xer := rfl
@[simp] theorem State.setFpr_lr (s : State) (r : BitVec 5) (v : Dword) (b : Bool) : (s.setFpr r v b).lr = s.lr := rfl
@[simp] theorem State.setFpr_ctr (s : State) (r : BitVec 5) (v : Dword) (b : Bool) : (s.setFpr r v b).ctr = s.ctr := rfl
@[simp] theorem State.setFpr_msr (s : State) (r : BitVec 5) (v : Dword) (b : Bool) : (s.setFpr r v b).msr = s.msr := rfl
@[simp] theorem State.setFpr_srr0 (s : State) (r : BitVec 5) (v : Dword) (b : Bool) : (s.setFpr r v b).srr0 = s.srr0 := rfl
@[simp] theorem State.setFpr_srr1 (s : State) (r : BitVec 5) (v : Dword) (b : Bool) : (s.setFpr r v b).srr1 = s.srr1 := rfl
@[simp] theorem State.setFpr_dsisr (s : State) (r : BitVec 5) (v : Dword) (b : Bool) : (s.setFpr r v b).dsisr = s.dsisr := rfl
@[simp] theorem State.setFpr_dar (s : State) (r : BitVec 5) (v : Dword) (b : Bool) : (s.setFpr r v b).dar = s.dar := rfl
@[simp] theorem State.setFpr_dec (s : State) (r : BitVec 5) (v : Dword) (b : Bool) : (s.setFpr r v b).dec = s.dec := rfl
@[simp] theorem State.setFpr_tb (s : State) (r : BitVec 5) (v : Dword) (b : Bool) : (s.setFpr r v b).tb = s.tb := rfl
@[simp] theorem State.setFpr_sdr1 (s : State) (r : BitVec 5) (v : Dword) (b : Bool) : (s.setFpr r v b).sdr1 = s.sdr1 := rfl
@[simp] theorem State.setFpr_sprg (s : State) (r : BitVec 5) (v : Dword) (b : Bool) : (s.setFpr r v b).sprg = s.sprg := rfl
@[simp] theorem State.setFpr_asr (s : State) (r : BitVec 5) (v : Dword) (b : Bool) : (s.setFpr r v b).asr = s.asr := rfl
@[simp] theorem State.setFpr_ear (s : State) (r : BitVec 5) (v : Dword) (b : Bool) : (s.setFpr r v b).ear = s.ear := rfl
@[simp] theorem State.setFpr_pvr (s : State) (r : BitVec 5) (v : Dword) (b : Bool) : (s.setFpr r v b).pvr = s.pvr := rfl
@[simp] theorem State.setFpr_ibat (s : State) (r : BitVec 5) (v : Dword) (b : Bool) : (s.setFpr r v b).ibat = s.ibat := rfl
@[simp] theorem State.setFpr_dbat (s : State) (r : BitVec 5) (v : Dword) (b : Bool) : (s.setFpr r v b).dbat = s.dbat := rfl
@[simp] theorem State.setFpr_dabr (s : State) (r : BitVec 5) (v : Dword) (b : Bool) : (s.setFpr r v b).dabr = s.dabr := rfl
@[simp] theorem State.setFpr_fpscr (s : State) (r : BitVec 5) (v : Dword) (b : Bool) : (s.setFpr r v b).fpscr = s.fpscr := rfl
@[simp] theorem State.setFpr_sr (s : State) (r : BitVec 5) (v : Dword) (b : Bool) : (s.setFpr r v b).sr = s.sr := rfl
@[simp] theorem State.setFpr_slb (s : State) (r : BitVec 5) (v : Dword) (b : Bool) : (s.setFpr r v b).slb = s.slb := rfl
@[simp] theorem State.setFpr_tlb (s : State) (r : BitVec 5) (v : Dword) (b : Bool) : (s.setFpr r v b).tlb = s.tlb := rfl
@[simp] theorem State.setFpr_reserve (s : State) (r : BitVec 5) (v : Dword) (b : Bool) : (s.setFpr r v b).reserve = s.reserve := rfl
@[simp] theorem State.setFpr_reserveAddr (s : State) (r : BitVec 5) (v : Dword) (b : Bool) : (s.setFpr r v b).reserveAddr = s.reserveAddr := rfl
@[simp] theorem State.setFpr_extInt (s : State) (r : BitVec 5) (v : Dword) (b : Bool) : (s.setFpr r v b).extInt = s.extInt := rfl
@[simp] theorem State.setFpr_resetPending (s : State) (r : BitVec 5) (v : Dword) (b : Bool) : (s.setFpr r v b).resetPending = s.resetPending := rfl
@[simp] theorem State.setFpr_mcheckPending (s : State) (r : BitVec 5) (v : Dword) (b : Bool) : (s.setFpr r v b).mcheckPending = s.mcheckPending := rfl
@[simp] theorem State.setFpr_decPending (s : State) (r : BitVec 5) (v : Dword) (b : Bool) : (s.setFpr r v b).decPending = s.decPending := rfl
@[simp] theorem State.setFpr_fpPending (s : State) (r : BitVec 5) (v : Dword) (b : Bool) : (s.setFpr r v b).fpPending = s.fpPending := rfl
@[simp] theorem State.setFpr_tracePending (s : State) (r : BitVec 5) (v : Dword) (b : Bool) : (s.setFpr r v b).tracePending = s.tracePending := rfl
@[simp] theorem State.setFpr_mem (s : State) (r : BitVec 5) (v : Dword) (b : Bool) : (s.setFpr r v b).mem = s.mem := rfl
@[simp] theorem State.setFpr_staleInsn (s : State) (r : BitVec 5) (v : Dword) (b : Bool) : (s.setFpr r v b).staleInsn = s.staleInsn := rfl
@[simp] theorem State.setFpr_icbiDone (s : State) (r : BitVec 5) (v : Dword) (b : Bool) : (s.setFpr r v b).icbiDone = s.icbiDone := rfl
@[simp] theorem State.setFpr_stale (s : State) (r : BitVec 5) (v : Dword) (b : Bool) : (s.setFpr r v b).stale = s.stale := rfl
@[simp] theorem State.setFpr_deviceOut (s : State) (r : BitVec 5) (v : Dword) (b : Bool) : (s.setFpr r v b).deviceOut = s.deviceOut := rfl
@[simp] theorem State.setFpr_entered (s : State) (r : BitVec 5) (v : Dword) (b : Bool) : (s.setFpr r v b).entered = s.entered := rfl
@[simp] theorem State.setFpr_env (s : State) (r : BitVec 5) (v : Dword) (b : Bool) : (s.setFpr r v b).env = s.env := rfl
@[simp] theorem State.setFpr_draws (s : State) (r : BitVec 5) (v : Dword) (b : Bool) : (s.setFpr r v b).draws = s.draws := rfl
@[simp] theorem State.setFpr_getGpr (s : State) (r : BitVec 5) (v : Dword) (b : Bool) (q : BitVec 5) : (s.setFpr r v b).getGpr q = s.getGpr q := rfl
@[simp] theorem State.setFpr_norm (s : State) (r : BitVec 5) (v : Dword) (b : Bool) (w : Dword) : (s.setFpr r v b).norm w = s.norm w := rfl
@[simp] theorem State.setFpr_ea32 (s : State) (r : BitVec 5) (v : Dword) (b : Bool) (w : Dword) : (s.setFpr r v b).ea32 w = s.ea32 w := rfl
@[simp] theorem State.setFpr_mode64 (s : State) (r : BitVec 5) (v : Dword) (b : Bool) : (s.setFpr r v b).mode64 = s.mode64 := rfl
@[simp] theorem State.setFpr_so (s : State) (r : BitVec 5) (v : Dword) (b : Bool) : (s.setFpr r v b).so = s.so := rfl
@[simp] theorem State.setFpr_ov (s : State) (r : BitVec 5) (v : Dword) (b : Bool) : (s.setFpr r v b).ov = s.ov := rfl
@[simp] theorem State.setFpr_ca (s : State) (r : BitVec 5) (v : Dword) (b : Bool) : (s.setFpr r v b).ca = s.ca := rfl
@[simp] theorem State.setFpr_fe (s : State) (r : BitVec 5) (v : Dword) (b : Bool) : (s.setFpr r v b).fe = s.fe := rfl
@[simp] theorem State.setFpr_fpOn (s : State) (r : BitVec 5) (v : Dword) (b : Bool) : (s.setFpr r v b).fpOn = s.fpOn := rfl
@[simp] theorem State.setFpr_pr (s : State) (r : BitVec 5) (v : Dword) (b : Bool) : (s.setFpr r v b).pr = s.pr := rfl
@[simp] theorem State.setFpr_dr (s : State) (r : BitVec 5) (v : Dword) (b : Bool) : (s.setFpr r v b).dr = s.dr := rfl
@[simp] theorem State.setFpr_crField (s : State) (r : BitVec 5) (v : Dword) (b : Bool) (k : BitVec 3) : (s.setFpr r v b).crField k = s.crField k := rfl
@[simp] theorem State.setFpr_crBit (s : State) (r : BitVec 5) (v : Dword) (b : Bool) (k : BitVec 5) : (s.setFpr r v b).crBit k = s.crBit k := rfl
@[simp] theorem State.setFpr_blockOf (s : State) (r : BitVec 5) (v : Dword) (b : Bool) (a : Nat) : (s.setFpr r v b).blockOf a = s.blockOf a := rfl

/-! ## setLr -/

@[simp] theorem State.setLr_cfg (s : State) (v : Dword) : (s.setLr v).cfg = s.cfg := rfl
@[simp] theorem State.setLr_gpr (s : State) (v : Dword) : (s.setLr v).gpr = s.gpr := rfl
@[simp] theorem State.setLr_fpr (s : State) (v : Dword) : (s.setLr v).fpr = s.fpr := rfl
@[simp] theorem State.setLr_fprSingle (s : State) (v : Dword) : (s.setLr v).fprSingle = s.fprSingle := rfl
@[simp] theorem State.setLr_nia (s : State) (v : Dword) : (s.setLr v).nia = s.nia := rfl
@[simp] theorem State.setLr_cr (s : State) (v : Dword) : (s.setLr v).cr = s.cr := rfl
@[simp] theorem State.setLr_xer (s : State) (v : Dword) : (s.setLr v).xer = s.xer := rfl
@[simp] theorem State.setLr_ctr (s : State) (v : Dword) : (s.setLr v).ctr = s.ctr := rfl
@[simp] theorem State.setLr_msr (s : State) (v : Dword) : (s.setLr v).msr = s.msr := rfl
@[simp] theorem State.setLr_srr0 (s : State) (v : Dword) : (s.setLr v).srr0 = s.srr0 := rfl
@[simp] theorem State.setLr_srr1 (s : State) (v : Dword) : (s.setLr v).srr1 = s.srr1 := rfl
@[simp] theorem State.setLr_dsisr (s : State) (v : Dword) : (s.setLr v).dsisr = s.dsisr := rfl
@[simp] theorem State.setLr_dar (s : State) (v : Dword) : (s.setLr v).dar = s.dar := rfl
@[simp] theorem State.setLr_dec (s : State) (v : Dword) : (s.setLr v).dec = s.dec := rfl
@[simp] theorem State.setLr_tb (s : State) (v : Dword) : (s.setLr v).tb = s.tb := rfl
@[simp] theorem State.setLr_sdr1 (s : State) (v : Dword) : (s.setLr v).sdr1 = s.sdr1 := rfl
@[simp] theorem State.setLr_sprg (s : State) (v : Dword) : (s.setLr v).sprg = s.sprg := rfl
@[simp] theorem State.setLr_asr (s : State) (v : Dword) : (s.setLr v).asr = s.asr := rfl
@[simp] theorem State.setLr_ear (s : State) (v : Dword) : (s.setLr v).ear = s.ear := rfl
@[simp] theorem State.setLr_pvr (s : State) (v : Dword) : (s.setLr v).pvr = s.pvr := rfl
@[simp] theorem State.setLr_ibat (s : State) (v : Dword) : (s.setLr v).ibat = s.ibat := rfl
@[simp] theorem State.setLr_dbat (s : State) (v : Dword) : (s.setLr v).dbat = s.dbat := rfl
@[simp] theorem State.setLr_dabr (s : State) (v : Dword) : (s.setLr v).dabr = s.dabr := rfl
@[simp] theorem State.setLr_fpscr (s : State) (v : Dword) : (s.setLr v).fpscr = s.fpscr := rfl
@[simp] theorem State.setLr_sr (s : State) (v : Dword) : (s.setLr v).sr = s.sr := rfl
@[simp] theorem State.setLr_slb (s : State) (v : Dword) : (s.setLr v).slb = s.slb := rfl
@[simp] theorem State.setLr_tlb (s : State) (v : Dword) : (s.setLr v).tlb = s.tlb := rfl
@[simp] theorem State.setLr_reserve (s : State) (v : Dword) : (s.setLr v).reserve = s.reserve := rfl
@[simp] theorem State.setLr_reserveAddr (s : State) (v : Dword) : (s.setLr v).reserveAddr = s.reserveAddr := rfl
@[simp] theorem State.setLr_extInt (s : State) (v : Dword) : (s.setLr v).extInt = s.extInt := rfl
@[simp] theorem State.setLr_resetPending (s : State) (v : Dword) : (s.setLr v).resetPending = s.resetPending := rfl
@[simp] theorem State.setLr_mcheckPending (s : State) (v : Dword) : (s.setLr v).mcheckPending = s.mcheckPending := rfl
@[simp] theorem State.setLr_decPending (s : State) (v : Dword) : (s.setLr v).decPending = s.decPending := rfl
@[simp] theorem State.setLr_fpPending (s : State) (v : Dword) : (s.setLr v).fpPending = s.fpPending := rfl
@[simp] theorem State.setLr_tracePending (s : State) (v : Dword) : (s.setLr v).tracePending = s.tracePending := rfl
@[simp] theorem State.setLr_mem (s : State) (v : Dword) : (s.setLr v).mem = s.mem := rfl
@[simp] theorem State.setLr_staleInsn (s : State) (v : Dword) : (s.setLr v).staleInsn = s.staleInsn := rfl
@[simp] theorem State.setLr_icbiDone (s : State) (v : Dword) : (s.setLr v).icbiDone = s.icbiDone := rfl
@[simp] theorem State.setLr_stale (s : State) (v : Dword) : (s.setLr v).stale = s.stale := rfl
@[simp] theorem State.setLr_deviceOut (s : State) (v : Dword) : (s.setLr v).deviceOut = s.deviceOut := rfl
@[simp] theorem State.setLr_entered (s : State) (v : Dword) : (s.setLr v).entered = s.entered := rfl
@[simp] theorem State.setLr_env (s : State) (v : Dword) : (s.setLr v).env = s.env := rfl
@[simp] theorem State.setLr_draws (s : State) (v : Dword) : (s.setLr v).draws = s.draws := rfl
@[simp] theorem State.setLr_getGpr (s : State) (v : Dword) (q : BitVec 5) : (s.setLr v).getGpr q = s.getGpr q := rfl
@[simp] theorem State.setLr_getFpr (s : State) (v : Dword) (q : BitVec 5) : (s.setLr v).getFpr q = s.getFpr q := rfl
@[simp] theorem State.setLr_isSingle (s : State) (v : Dword) (q : BitVec 5) : (s.setLr v).isSingle q = s.isSingle q := rfl
@[simp] theorem State.setLr_norm (s : State) (v : Dword) (w : Dword) : (s.setLr v).norm w = s.norm w := rfl
@[simp] theorem State.setLr_ea32 (s : State) (v : Dword) (w : Dword) : (s.setLr v).ea32 w = s.ea32 w := rfl
@[simp] theorem State.setLr_mode64 (s : State) (v : Dword) : (s.setLr v).mode64 = s.mode64 := rfl
@[simp] theorem State.setLr_so (s : State) (v : Dword) : (s.setLr v).so = s.so := rfl
@[simp] theorem State.setLr_ov (s : State) (v : Dword) : (s.setLr v).ov = s.ov := rfl
@[simp] theorem State.setLr_ca (s : State) (v : Dword) : (s.setLr v).ca = s.ca := rfl
@[simp] theorem State.setLr_fe (s : State) (v : Dword) : (s.setLr v).fe = s.fe := rfl
@[simp] theorem State.setLr_fpOn (s : State) (v : Dword) : (s.setLr v).fpOn = s.fpOn := rfl
@[simp] theorem State.setLr_pr (s : State) (v : Dword) : (s.setLr v).pr = s.pr := rfl
@[simp] theorem State.setLr_dr (s : State) (v : Dword) : (s.setLr v).dr = s.dr := rfl
@[simp] theorem State.setLr_crField (s : State) (v : Dword) (k : BitVec 3) : (s.setLr v).crField k = s.crField k := rfl
@[simp] theorem State.setLr_crBit (s : State) (v : Dword) (k : BitVec 5) : (s.setLr v).crBit k = s.crBit k := rfl
@[simp] theorem State.setLr_blockOf (s : State) (v : Dword) (a : Nat) : (s.setLr v).blockOf a = s.blockOf a := rfl

/-! ## setCtr -/

@[simp] theorem State.setCtr_cfg (s : State) (v : Dword) : (s.setCtr v).cfg = s.cfg := rfl
@[simp] theorem State.setCtr_gpr (s : State) (v : Dword) : (s.setCtr v).gpr = s.gpr := rfl
@[simp] theorem State.setCtr_fpr (s : State) (v : Dword) : (s.setCtr v).fpr = s.fpr := rfl
@[simp] theorem State.setCtr_fprSingle (s : State) (v : Dword) : (s.setCtr v).fprSingle = s.fprSingle := rfl
@[simp] theorem State.setCtr_nia (s : State) (v : Dword) : (s.setCtr v).nia = s.nia := rfl
@[simp] theorem State.setCtr_cr (s : State) (v : Dword) : (s.setCtr v).cr = s.cr := rfl
@[simp] theorem State.setCtr_xer (s : State) (v : Dword) : (s.setCtr v).xer = s.xer := rfl
@[simp] theorem State.setCtr_lr (s : State) (v : Dword) : (s.setCtr v).lr = s.lr := rfl
@[simp] theorem State.setCtr_msr (s : State) (v : Dword) : (s.setCtr v).msr = s.msr := rfl
@[simp] theorem State.setCtr_srr0 (s : State) (v : Dword) : (s.setCtr v).srr0 = s.srr0 := rfl
@[simp] theorem State.setCtr_srr1 (s : State) (v : Dword) : (s.setCtr v).srr1 = s.srr1 := rfl
@[simp] theorem State.setCtr_dsisr (s : State) (v : Dword) : (s.setCtr v).dsisr = s.dsisr := rfl
@[simp] theorem State.setCtr_dar (s : State) (v : Dword) : (s.setCtr v).dar = s.dar := rfl
@[simp] theorem State.setCtr_dec (s : State) (v : Dword) : (s.setCtr v).dec = s.dec := rfl
@[simp] theorem State.setCtr_tb (s : State) (v : Dword) : (s.setCtr v).tb = s.tb := rfl
@[simp] theorem State.setCtr_sdr1 (s : State) (v : Dword) : (s.setCtr v).sdr1 = s.sdr1 := rfl
@[simp] theorem State.setCtr_sprg (s : State) (v : Dword) : (s.setCtr v).sprg = s.sprg := rfl
@[simp] theorem State.setCtr_asr (s : State) (v : Dword) : (s.setCtr v).asr = s.asr := rfl
@[simp] theorem State.setCtr_ear (s : State) (v : Dword) : (s.setCtr v).ear = s.ear := rfl
@[simp] theorem State.setCtr_pvr (s : State) (v : Dword) : (s.setCtr v).pvr = s.pvr := rfl
@[simp] theorem State.setCtr_ibat (s : State) (v : Dword) : (s.setCtr v).ibat = s.ibat := rfl
@[simp] theorem State.setCtr_dbat (s : State) (v : Dword) : (s.setCtr v).dbat = s.dbat := rfl
@[simp] theorem State.setCtr_dabr (s : State) (v : Dword) : (s.setCtr v).dabr = s.dabr := rfl
@[simp] theorem State.setCtr_fpscr (s : State) (v : Dword) : (s.setCtr v).fpscr = s.fpscr := rfl
@[simp] theorem State.setCtr_sr (s : State) (v : Dword) : (s.setCtr v).sr = s.sr := rfl
@[simp] theorem State.setCtr_slb (s : State) (v : Dword) : (s.setCtr v).slb = s.slb := rfl
@[simp] theorem State.setCtr_tlb (s : State) (v : Dword) : (s.setCtr v).tlb = s.tlb := rfl
@[simp] theorem State.setCtr_reserve (s : State) (v : Dword) : (s.setCtr v).reserve = s.reserve := rfl
@[simp] theorem State.setCtr_reserveAddr (s : State) (v : Dword) : (s.setCtr v).reserveAddr = s.reserveAddr := rfl
@[simp] theorem State.setCtr_extInt (s : State) (v : Dword) : (s.setCtr v).extInt = s.extInt := rfl
@[simp] theorem State.setCtr_resetPending (s : State) (v : Dword) : (s.setCtr v).resetPending = s.resetPending := rfl
@[simp] theorem State.setCtr_mcheckPending (s : State) (v : Dword) : (s.setCtr v).mcheckPending = s.mcheckPending := rfl
@[simp] theorem State.setCtr_decPending (s : State) (v : Dword) : (s.setCtr v).decPending = s.decPending := rfl
@[simp] theorem State.setCtr_fpPending (s : State) (v : Dword) : (s.setCtr v).fpPending = s.fpPending := rfl
@[simp] theorem State.setCtr_tracePending (s : State) (v : Dword) : (s.setCtr v).tracePending = s.tracePending := rfl
@[simp] theorem State.setCtr_mem (s : State) (v : Dword) : (s.setCtr v).mem = s.mem := rfl
@[simp] theorem State.setCtr_staleInsn (s : State) (v : Dword) : (s.setCtr v).staleInsn = s.staleInsn := rfl
@[simp] theorem State.setCtr_icbiDone (s : State) (v : Dword) : (s.setCtr v).icbiDone = s.icbiDone := rfl
@[simp] theorem State.setCtr_stale (s : State) (v : Dword) : (s.setCtr v).stale = s.stale := rfl
@[simp] theorem State.setCtr_deviceOut (s : State) (v : Dword) : (s.setCtr v).deviceOut = s.deviceOut := rfl
@[simp] theorem State.setCtr_entered (s : State) (v : Dword) : (s.setCtr v).entered = s.entered := rfl
@[simp] theorem State.setCtr_env (s : State) (v : Dword) : (s.setCtr v).env = s.env := rfl
@[simp] theorem State.setCtr_draws (s : State) (v : Dword) : (s.setCtr v).draws = s.draws := rfl
@[simp] theorem State.setCtr_getGpr (s : State) (v : Dword) (q : BitVec 5) : (s.setCtr v).getGpr q = s.getGpr q := rfl
@[simp] theorem State.setCtr_getFpr (s : State) (v : Dword) (q : BitVec 5) : (s.setCtr v).getFpr q = s.getFpr q := rfl
@[simp] theorem State.setCtr_isSingle (s : State) (v : Dword) (q : BitVec 5) : (s.setCtr v).isSingle q = s.isSingle q := rfl
@[simp] theorem State.setCtr_norm (s : State) (v : Dword) (w : Dword) : (s.setCtr v).norm w = s.norm w := rfl
@[simp] theorem State.setCtr_ea32 (s : State) (v : Dword) (w : Dword) : (s.setCtr v).ea32 w = s.ea32 w := rfl
@[simp] theorem State.setCtr_mode64 (s : State) (v : Dword) : (s.setCtr v).mode64 = s.mode64 := rfl
@[simp] theorem State.setCtr_so (s : State) (v : Dword) : (s.setCtr v).so = s.so := rfl
@[simp] theorem State.setCtr_ov (s : State) (v : Dword) : (s.setCtr v).ov = s.ov := rfl
@[simp] theorem State.setCtr_ca (s : State) (v : Dword) : (s.setCtr v).ca = s.ca := rfl
@[simp] theorem State.setCtr_fe (s : State) (v : Dword) : (s.setCtr v).fe = s.fe := rfl
@[simp] theorem State.setCtr_fpOn (s : State) (v : Dword) : (s.setCtr v).fpOn = s.fpOn := rfl
@[simp] theorem State.setCtr_pr (s : State) (v : Dword) : (s.setCtr v).pr = s.pr := rfl
@[simp] theorem State.setCtr_dr (s : State) (v : Dword) : (s.setCtr v).dr = s.dr := rfl
@[simp] theorem State.setCtr_crField (s : State) (v : Dword) (k : BitVec 3) : (s.setCtr v).crField k = s.crField k := rfl
@[simp] theorem State.setCtr_crBit (s : State) (v : Dword) (k : BitVec 5) : (s.setCtr v).crBit k = s.crBit k := rfl
@[simp] theorem State.setCtr_blockOf (s : State) (v : Dword) (a : Nat) : (s.setCtr v).blockOf a = s.blockOf a := rfl

/-! ## setNia -/

@[simp] theorem State.setNia_cfg (s : State) (v : Dword) : (s.setNia v).cfg = s.cfg := rfl
@[simp] theorem State.setNia_gpr (s : State) (v : Dword) : (s.setNia v).gpr = s.gpr := rfl
@[simp] theorem State.setNia_fpr (s : State) (v : Dword) : (s.setNia v).fpr = s.fpr := rfl
@[simp] theorem State.setNia_fprSingle (s : State) (v : Dword) : (s.setNia v).fprSingle = s.fprSingle := rfl
@[simp] theorem State.setNia_cr (s : State) (v : Dword) : (s.setNia v).cr = s.cr := rfl
@[simp] theorem State.setNia_xer (s : State) (v : Dword) : (s.setNia v).xer = s.xer := rfl
@[simp] theorem State.setNia_lr (s : State) (v : Dword) : (s.setNia v).lr = s.lr := rfl
@[simp] theorem State.setNia_ctr (s : State) (v : Dword) : (s.setNia v).ctr = s.ctr := rfl
@[simp] theorem State.setNia_msr (s : State) (v : Dword) : (s.setNia v).msr = s.msr := rfl
@[simp] theorem State.setNia_srr0 (s : State) (v : Dword) : (s.setNia v).srr0 = s.srr0 := rfl
@[simp] theorem State.setNia_srr1 (s : State) (v : Dword) : (s.setNia v).srr1 = s.srr1 := rfl
@[simp] theorem State.setNia_dsisr (s : State) (v : Dword) : (s.setNia v).dsisr = s.dsisr := rfl
@[simp] theorem State.setNia_dar (s : State) (v : Dword) : (s.setNia v).dar = s.dar := rfl
@[simp] theorem State.setNia_dec (s : State) (v : Dword) : (s.setNia v).dec = s.dec := rfl
@[simp] theorem State.setNia_tb (s : State) (v : Dword) : (s.setNia v).tb = s.tb := rfl
@[simp] theorem State.setNia_sdr1 (s : State) (v : Dword) : (s.setNia v).sdr1 = s.sdr1 := rfl
@[simp] theorem State.setNia_sprg (s : State) (v : Dword) : (s.setNia v).sprg = s.sprg := rfl
@[simp] theorem State.setNia_asr (s : State) (v : Dword) : (s.setNia v).asr = s.asr := rfl
@[simp] theorem State.setNia_ear (s : State) (v : Dword) : (s.setNia v).ear = s.ear := rfl
@[simp] theorem State.setNia_pvr (s : State) (v : Dword) : (s.setNia v).pvr = s.pvr := rfl
@[simp] theorem State.setNia_ibat (s : State) (v : Dword) : (s.setNia v).ibat = s.ibat := rfl
@[simp] theorem State.setNia_dbat (s : State) (v : Dword) : (s.setNia v).dbat = s.dbat := rfl
@[simp] theorem State.setNia_dabr (s : State) (v : Dword) : (s.setNia v).dabr = s.dabr := rfl
@[simp] theorem State.setNia_fpscr (s : State) (v : Dword) : (s.setNia v).fpscr = s.fpscr := rfl
@[simp] theorem State.setNia_sr (s : State) (v : Dword) : (s.setNia v).sr = s.sr := rfl
@[simp] theorem State.setNia_slb (s : State) (v : Dword) : (s.setNia v).slb = s.slb := rfl
@[simp] theorem State.setNia_tlb (s : State) (v : Dword) : (s.setNia v).tlb = s.tlb := rfl
@[simp] theorem State.setNia_reserve (s : State) (v : Dword) : (s.setNia v).reserve = s.reserve := rfl
@[simp] theorem State.setNia_reserveAddr (s : State) (v : Dword) : (s.setNia v).reserveAddr = s.reserveAddr := rfl
@[simp] theorem State.setNia_extInt (s : State) (v : Dword) : (s.setNia v).extInt = s.extInt := rfl
@[simp] theorem State.setNia_resetPending (s : State) (v : Dword) : (s.setNia v).resetPending = s.resetPending := rfl
@[simp] theorem State.setNia_mcheckPending (s : State) (v : Dword) : (s.setNia v).mcheckPending = s.mcheckPending := rfl
@[simp] theorem State.setNia_decPending (s : State) (v : Dword) : (s.setNia v).decPending = s.decPending := rfl
@[simp] theorem State.setNia_fpPending (s : State) (v : Dword) : (s.setNia v).fpPending = s.fpPending := rfl
@[simp] theorem State.setNia_tracePending (s : State) (v : Dword) : (s.setNia v).tracePending = s.tracePending := rfl
@[simp] theorem State.setNia_mem (s : State) (v : Dword) : (s.setNia v).mem = s.mem := rfl
@[simp] theorem State.setNia_staleInsn (s : State) (v : Dword) : (s.setNia v).staleInsn = s.staleInsn := rfl
@[simp] theorem State.setNia_icbiDone (s : State) (v : Dword) : (s.setNia v).icbiDone = s.icbiDone := rfl
@[simp] theorem State.setNia_stale (s : State) (v : Dword) : (s.setNia v).stale = s.stale := rfl
@[simp] theorem State.setNia_deviceOut (s : State) (v : Dword) : (s.setNia v).deviceOut = s.deviceOut := rfl
@[simp] theorem State.setNia_entered (s : State) (v : Dword) : (s.setNia v).entered = s.entered := rfl
@[simp] theorem State.setNia_env (s : State) (v : Dword) : (s.setNia v).env = s.env := rfl
@[simp] theorem State.setNia_draws (s : State) (v : Dword) : (s.setNia v).draws = s.draws := rfl
@[simp] theorem State.setNia_getGpr (s : State) (v : Dword) (q : BitVec 5) : (s.setNia v).getGpr q = s.getGpr q := rfl
@[simp] theorem State.setNia_getFpr (s : State) (v : Dword) (q : BitVec 5) : (s.setNia v).getFpr q = s.getFpr q := rfl
@[simp] theorem State.setNia_isSingle (s : State) (v : Dword) (q : BitVec 5) : (s.setNia v).isSingle q = s.isSingle q := rfl
@[simp] theorem State.setNia_norm (s : State) (v : Dword) (w : Dword) : (s.setNia v).norm w = s.norm w := rfl
@[simp] theorem State.setNia_ea32 (s : State) (v : Dword) (w : Dword) : (s.setNia v).ea32 w = s.ea32 w := rfl
@[simp] theorem State.setNia_mode64 (s : State) (v : Dword) : (s.setNia v).mode64 = s.mode64 := rfl
@[simp] theorem State.setNia_so (s : State) (v : Dword) : (s.setNia v).so = s.so := rfl
@[simp] theorem State.setNia_ov (s : State) (v : Dword) : (s.setNia v).ov = s.ov := rfl
@[simp] theorem State.setNia_ca (s : State) (v : Dword) : (s.setNia v).ca = s.ca := rfl
@[simp] theorem State.setNia_fe (s : State) (v : Dword) : (s.setNia v).fe = s.fe := rfl
@[simp] theorem State.setNia_fpOn (s : State) (v : Dword) : (s.setNia v).fpOn = s.fpOn := rfl
@[simp] theorem State.setNia_pr (s : State) (v : Dword) : (s.setNia v).pr = s.pr := rfl
@[simp] theorem State.setNia_dr (s : State) (v : Dword) : (s.setNia v).dr = s.dr := rfl
@[simp] theorem State.setNia_crField (s : State) (v : Dword) (k : BitVec 3) : (s.setNia v).crField k = s.crField k := rfl
@[simp] theorem State.setNia_crBit (s : State) (v : Dword) (k : BitVec 5) : (s.setNia v).crBit k = s.crBit k := rfl
@[simp] theorem State.setNia_blockOf (s : State) (v : Dword) (a : Nat) : (s.setNia v).blockOf a = s.blockOf a := rfl

/-! ## advance -/

@[simp] theorem State.advance_cfg (s : State) : (s.advance).cfg = s.cfg := rfl
@[simp] theorem State.advance_gpr (s : State) : (s.advance).gpr = s.gpr := rfl
@[simp] theorem State.advance_fpr (s : State) : (s.advance).fpr = s.fpr := rfl
@[simp] theorem State.advance_fprSingle (s : State) : (s.advance).fprSingle = s.fprSingle := rfl
@[simp] theorem State.advance_cr (s : State) : (s.advance).cr = s.cr := rfl
@[simp] theorem State.advance_xer (s : State) : (s.advance).xer = s.xer := rfl
@[simp] theorem State.advance_lr (s : State) : (s.advance).lr = s.lr := rfl
@[simp] theorem State.advance_ctr (s : State) : (s.advance).ctr = s.ctr := rfl
@[simp] theorem State.advance_msr (s : State) : (s.advance).msr = s.msr := rfl
@[simp] theorem State.advance_srr0 (s : State) : (s.advance).srr0 = s.srr0 := rfl
@[simp] theorem State.advance_srr1 (s : State) : (s.advance).srr1 = s.srr1 := rfl
@[simp] theorem State.advance_dsisr (s : State) : (s.advance).dsisr = s.dsisr := rfl
@[simp] theorem State.advance_dar (s : State) : (s.advance).dar = s.dar := rfl
@[simp] theorem State.advance_dec (s : State) : (s.advance).dec = s.dec := rfl
@[simp] theorem State.advance_tb (s : State) : (s.advance).tb = s.tb := rfl
@[simp] theorem State.advance_sdr1 (s : State) : (s.advance).sdr1 = s.sdr1 := rfl
@[simp] theorem State.advance_sprg (s : State) : (s.advance).sprg = s.sprg := rfl
@[simp] theorem State.advance_asr (s : State) : (s.advance).asr = s.asr := rfl
@[simp] theorem State.advance_ear (s : State) : (s.advance).ear = s.ear := rfl
@[simp] theorem State.advance_pvr (s : State) : (s.advance).pvr = s.pvr := rfl
@[simp] theorem State.advance_ibat (s : State) : (s.advance).ibat = s.ibat := rfl
@[simp] theorem State.advance_dbat (s : State) : (s.advance).dbat = s.dbat := rfl
@[simp] theorem State.advance_dabr (s : State) : (s.advance).dabr = s.dabr := rfl
@[simp] theorem State.advance_fpscr (s : State) : (s.advance).fpscr = s.fpscr := rfl
@[simp] theorem State.advance_sr (s : State) : (s.advance).sr = s.sr := rfl
@[simp] theorem State.advance_slb (s : State) : (s.advance).slb = s.slb := rfl
@[simp] theorem State.advance_tlb (s : State) : (s.advance).tlb = s.tlb := rfl
@[simp] theorem State.advance_reserve (s : State) : (s.advance).reserve = s.reserve := rfl
@[simp] theorem State.advance_reserveAddr (s : State) : (s.advance).reserveAddr = s.reserveAddr := rfl
@[simp] theorem State.advance_extInt (s : State) : (s.advance).extInt = s.extInt := rfl
@[simp] theorem State.advance_resetPending (s : State) : (s.advance).resetPending = s.resetPending := rfl
@[simp] theorem State.advance_mcheckPending (s : State) : (s.advance).mcheckPending = s.mcheckPending := rfl
@[simp] theorem State.advance_decPending (s : State) : (s.advance).decPending = s.decPending := rfl
@[simp] theorem State.advance_fpPending (s : State) : (s.advance).fpPending = s.fpPending := rfl
@[simp] theorem State.advance_tracePending (s : State) : (s.advance).tracePending = s.tracePending := rfl
@[simp] theorem State.advance_mem (s : State) : (s.advance).mem = s.mem := rfl
@[simp] theorem State.advance_staleInsn (s : State) : (s.advance).staleInsn = s.staleInsn := rfl
@[simp] theorem State.advance_icbiDone (s : State) : (s.advance).icbiDone = s.icbiDone := rfl
@[simp] theorem State.advance_stale (s : State) : (s.advance).stale = s.stale := rfl
@[simp] theorem State.advance_deviceOut (s : State) : (s.advance).deviceOut = s.deviceOut := rfl
@[simp] theorem State.advance_entered (s : State) : (s.advance).entered = s.entered := rfl
@[simp] theorem State.advance_env (s : State) : (s.advance).env = s.env := rfl
@[simp] theorem State.advance_draws (s : State) : (s.advance).draws = s.draws := rfl
@[simp] theorem State.advance_getGpr (s : State) (q : BitVec 5) : (s.advance).getGpr q = s.getGpr q := rfl
@[simp] theorem State.advance_getFpr (s : State) (q : BitVec 5) : (s.advance).getFpr q = s.getFpr q := rfl
@[simp] theorem State.advance_isSingle (s : State) (q : BitVec 5) : (s.advance).isSingle q = s.isSingle q := rfl
@[simp] theorem State.advance_norm (s : State) (w : Dword) : (s.advance).norm w = s.norm w := rfl
@[simp] theorem State.advance_ea32 (s : State) (w : Dword) : (s.advance).ea32 w = s.ea32 w := rfl
@[simp] theorem State.advance_mode64 (s : State) : (s.advance).mode64 = s.mode64 := rfl
@[simp] theorem State.advance_so (s : State) : (s.advance).so = s.so := rfl
@[simp] theorem State.advance_ov (s : State) : (s.advance).ov = s.ov := rfl
@[simp] theorem State.advance_ca (s : State) : (s.advance).ca = s.ca := rfl
@[simp] theorem State.advance_fe (s : State) : (s.advance).fe = s.fe := rfl
@[simp] theorem State.advance_fpOn (s : State) : (s.advance).fpOn = s.fpOn := rfl
@[simp] theorem State.advance_pr (s : State) : (s.advance).pr = s.pr := rfl
@[simp] theorem State.advance_dr (s : State) : (s.advance).dr = s.dr := rfl
@[simp] theorem State.advance_crField (s : State) (k : BitVec 3) : (s.advance).crField k = s.crField k := rfl
@[simp] theorem State.advance_crBit (s : State) (k : BitVec 5) : (s.advance).crBit k = s.crBit k := rfl
@[simp] theorem State.advance_blockOf (s : State) (a : Nat) : (s.advance).blockOf a = s.blockOf a := rfl

/-! ## setMsr -/

@[simp] theorem State.setMsr_cfg (s : State) (v : Dword) : (s.setMsr v).cfg = s.cfg := rfl
@[simp] theorem State.setMsr_gpr (s : State) (v : Dword) : (s.setMsr v).gpr = s.gpr := rfl
@[simp] theorem State.setMsr_fpr (s : State) (v : Dword) : (s.setMsr v).fpr = s.fpr := rfl
@[simp] theorem State.setMsr_fprSingle (s : State) (v : Dword) : (s.setMsr v).fprSingle = s.fprSingle := rfl
@[simp] theorem State.setMsr_nia (s : State) (v : Dword) : (s.setMsr v).nia = s.nia := rfl
@[simp] theorem State.setMsr_cr (s : State) (v : Dword) : (s.setMsr v).cr = s.cr := rfl
@[simp] theorem State.setMsr_xer (s : State) (v : Dword) : (s.setMsr v).xer = s.xer := rfl
@[simp] theorem State.setMsr_lr (s : State) (v : Dword) : (s.setMsr v).lr = s.lr := rfl
@[simp] theorem State.setMsr_ctr (s : State) (v : Dword) : (s.setMsr v).ctr = s.ctr := rfl
@[simp] theorem State.setMsr_srr0 (s : State) (v : Dword) : (s.setMsr v).srr0 = s.srr0 := rfl
@[simp] theorem State.setMsr_srr1 (s : State) (v : Dword) : (s.setMsr v).srr1 = s.srr1 := rfl
@[simp] theorem State.setMsr_dsisr (s : State) (v : Dword) : (s.setMsr v).dsisr = s.dsisr := rfl
@[simp] theorem State.setMsr_dar (s : State) (v : Dword) : (s.setMsr v).dar = s.dar := rfl
@[simp] theorem State.setMsr_dec (s : State) (v : Dword) : (s.setMsr v).dec = s.dec := rfl
@[simp] theorem State.setMsr_tb (s : State) (v : Dword) : (s.setMsr v).tb = s.tb := rfl
@[simp] theorem State.setMsr_sdr1 (s : State) (v : Dword) : (s.setMsr v).sdr1 = s.sdr1 := rfl
@[simp] theorem State.setMsr_sprg (s : State) (v : Dword) : (s.setMsr v).sprg = s.sprg := rfl
@[simp] theorem State.setMsr_asr (s : State) (v : Dword) : (s.setMsr v).asr = s.asr := rfl
@[simp] theorem State.setMsr_ear (s : State) (v : Dword) : (s.setMsr v).ear = s.ear := rfl
@[simp] theorem State.setMsr_pvr (s : State) (v : Dword) : (s.setMsr v).pvr = s.pvr := rfl
@[simp] theorem State.setMsr_ibat (s : State) (v : Dword) : (s.setMsr v).ibat = s.ibat := rfl
@[simp] theorem State.setMsr_dbat (s : State) (v : Dword) : (s.setMsr v).dbat = s.dbat := rfl
@[simp] theorem State.setMsr_dabr (s : State) (v : Dword) : (s.setMsr v).dabr = s.dabr := rfl
@[simp] theorem State.setMsr_fpscr (s : State) (v : Dword) : (s.setMsr v).fpscr = s.fpscr := rfl
@[simp] theorem State.setMsr_sr (s : State) (v : Dword) : (s.setMsr v).sr = s.sr := rfl
@[simp] theorem State.setMsr_slb (s : State) (v : Dword) : (s.setMsr v).slb = s.slb := rfl
@[simp] theorem State.setMsr_tlb (s : State) (v : Dword) : (s.setMsr v).tlb = s.tlb := rfl
@[simp] theorem State.setMsr_reserve (s : State) (v : Dword) : (s.setMsr v).reserve = s.reserve := rfl
@[simp] theorem State.setMsr_reserveAddr (s : State) (v : Dword) : (s.setMsr v).reserveAddr = s.reserveAddr := rfl
@[simp] theorem State.setMsr_extInt (s : State) (v : Dword) : (s.setMsr v).extInt = s.extInt := rfl
@[simp] theorem State.setMsr_resetPending (s : State) (v : Dword) : (s.setMsr v).resetPending = s.resetPending := rfl
@[simp] theorem State.setMsr_mcheckPending (s : State) (v : Dword) : (s.setMsr v).mcheckPending = s.mcheckPending := rfl
@[simp] theorem State.setMsr_decPending (s : State) (v : Dword) : (s.setMsr v).decPending = s.decPending := rfl
@[simp] theorem State.setMsr_fpPending (s : State) (v : Dword) : (s.setMsr v).fpPending = s.fpPending := rfl
@[simp] theorem State.setMsr_tracePending (s : State) (v : Dword) : (s.setMsr v).tracePending = s.tracePending := rfl
@[simp] theorem State.setMsr_mem (s : State) (v : Dword) : (s.setMsr v).mem = s.mem := rfl
@[simp] theorem State.setMsr_staleInsn (s : State) (v : Dword) : (s.setMsr v).staleInsn = s.staleInsn := rfl
@[simp] theorem State.setMsr_icbiDone (s : State) (v : Dword) : (s.setMsr v).icbiDone = s.icbiDone := rfl
@[simp] theorem State.setMsr_stale (s : State) (v : Dword) : (s.setMsr v).stale = s.stale := rfl
@[simp] theorem State.setMsr_deviceOut (s : State) (v : Dword) : (s.setMsr v).deviceOut = s.deviceOut := rfl
@[simp] theorem State.setMsr_entered (s : State) (v : Dword) : (s.setMsr v).entered = s.entered := rfl
@[simp] theorem State.setMsr_env (s : State) (v : Dword) : (s.setMsr v).env = s.env := rfl
@[simp] theorem State.setMsr_draws (s : State) (v : Dword) : (s.setMsr v).draws = s.draws := rfl
@[simp] theorem State.setMsr_getGpr (s : State) (v : Dword) (q : BitVec 5) : (s.setMsr v).getGpr q = s.getGpr q := rfl
@[simp] theorem State.setMsr_getFpr (s : State) (v : Dword) (q : BitVec 5) : (s.setMsr v).getFpr q = s.getFpr q := rfl
@[simp] theorem State.setMsr_isSingle (s : State) (v : Dword) (q : BitVec 5) : (s.setMsr v).isSingle q = s.isSingle q := rfl
@[simp] theorem State.setMsr_norm (s : State) (v : Dword) (w : Dword) : (s.setMsr v).norm w = s.norm w := rfl
@[simp] theorem State.setMsr_so (s : State) (v : Dword) : (s.setMsr v).so = s.so := rfl
@[simp] theorem State.setMsr_ov (s : State) (v : Dword) : (s.setMsr v).ov = s.ov := rfl
@[simp] theorem State.setMsr_ca (s : State) (v : Dword) : (s.setMsr v).ca = s.ca := rfl
@[simp] theorem State.setMsr_crField (s : State) (v : Dword) (k : BitVec 3) : (s.setMsr v).crField k = s.crField k := rfl
@[simp] theorem State.setMsr_crBit (s : State) (v : Dword) (k : BitVec 5) : (s.setMsr v).crBit k = s.crBit k := rfl
@[simp] theorem State.setMsr_blockOf (s : State) (v : Dword) (a : Nat) : (s.setMsr v).blockOf a = s.blockOf a := rfl

/-! ## drew -/

@[simp] theorem State.drew_cfg (s : State) : (s.drew).cfg = s.cfg := rfl
@[simp] theorem State.drew_gpr (s : State) : (s.drew).gpr = s.gpr := rfl
@[simp] theorem State.drew_fpr (s : State) : (s.drew).fpr = s.fpr := rfl
@[simp] theorem State.drew_fprSingle (s : State) : (s.drew).fprSingle = s.fprSingle := rfl
@[simp] theorem State.drew_nia (s : State) : (s.drew).nia = s.nia := rfl
@[simp] theorem State.drew_cr (s : State) : (s.drew).cr = s.cr := rfl
@[simp] theorem State.drew_xer (s : State) : (s.drew).xer = s.xer := rfl
@[simp] theorem State.drew_lr (s : State) : (s.drew).lr = s.lr := rfl
@[simp] theorem State.drew_ctr (s : State) : (s.drew).ctr = s.ctr := rfl
@[simp] theorem State.drew_msr (s : State) : (s.drew).msr = s.msr := rfl
@[simp] theorem State.drew_srr0 (s : State) : (s.drew).srr0 = s.srr0 := rfl
@[simp] theorem State.drew_srr1 (s : State) : (s.drew).srr1 = s.srr1 := rfl
@[simp] theorem State.drew_dsisr (s : State) : (s.drew).dsisr = s.dsisr := rfl
@[simp] theorem State.drew_dar (s : State) : (s.drew).dar = s.dar := rfl
@[simp] theorem State.drew_dec (s : State) : (s.drew).dec = s.dec := rfl
@[simp] theorem State.drew_tb (s : State) : (s.drew).tb = s.tb := rfl
@[simp] theorem State.drew_sdr1 (s : State) : (s.drew).sdr1 = s.sdr1 := rfl
@[simp] theorem State.drew_sprg (s : State) : (s.drew).sprg = s.sprg := rfl
@[simp] theorem State.drew_asr (s : State) : (s.drew).asr = s.asr := rfl
@[simp] theorem State.drew_ear (s : State) : (s.drew).ear = s.ear := rfl
@[simp] theorem State.drew_pvr (s : State) : (s.drew).pvr = s.pvr := rfl
@[simp] theorem State.drew_ibat (s : State) : (s.drew).ibat = s.ibat := rfl
@[simp] theorem State.drew_dbat (s : State) : (s.drew).dbat = s.dbat := rfl
@[simp] theorem State.drew_dabr (s : State) : (s.drew).dabr = s.dabr := rfl
@[simp] theorem State.drew_fpscr (s : State) : (s.drew).fpscr = s.fpscr := rfl
@[simp] theorem State.drew_sr (s : State) : (s.drew).sr = s.sr := rfl
@[simp] theorem State.drew_slb (s : State) : (s.drew).slb = s.slb := rfl
@[simp] theorem State.drew_tlb (s : State) : (s.drew).tlb = s.tlb := rfl
@[simp] theorem State.drew_reserve (s : State) : (s.drew).reserve = s.reserve := rfl
@[simp] theorem State.drew_reserveAddr (s : State) : (s.drew).reserveAddr = s.reserveAddr := rfl
@[simp] theorem State.drew_extInt (s : State) : (s.drew).extInt = s.extInt := rfl
@[simp] theorem State.drew_resetPending (s : State) : (s.drew).resetPending = s.resetPending := rfl
@[simp] theorem State.drew_mcheckPending (s : State) : (s.drew).mcheckPending = s.mcheckPending := rfl
@[simp] theorem State.drew_decPending (s : State) : (s.drew).decPending = s.decPending := rfl
@[simp] theorem State.drew_fpPending (s : State) : (s.drew).fpPending = s.fpPending := rfl
@[simp] theorem State.drew_tracePending (s : State) : (s.drew).tracePending = s.tracePending := rfl
@[simp] theorem State.drew_mem (s : State) : (s.drew).mem = s.mem := rfl
@[simp] theorem State.drew_staleInsn (s : State) : (s.drew).staleInsn = s.staleInsn := rfl
@[simp] theorem State.drew_icbiDone (s : State) : (s.drew).icbiDone = s.icbiDone := rfl
@[simp] theorem State.drew_stale (s : State) : (s.drew).stale = s.stale := rfl
@[simp] theorem State.drew_deviceOut (s : State) : (s.drew).deviceOut = s.deviceOut := rfl
@[simp] theorem State.drew_entered (s : State) : (s.drew).entered = s.entered := rfl
@[simp] theorem State.drew_env (s : State) : (s.drew).env = s.env := rfl
@[simp] theorem State.drew_getGpr (s : State) (q : BitVec 5) : (s.drew).getGpr q = s.getGpr q := rfl
@[simp] theorem State.drew_getFpr (s : State) (q : BitVec 5) : (s.drew).getFpr q = s.getFpr q := rfl
@[simp] theorem State.drew_isSingle (s : State) (q : BitVec 5) : (s.drew).isSingle q = s.isSingle q := rfl
@[simp] theorem State.drew_norm (s : State) (w : Dword) : (s.drew).norm w = s.norm w := rfl
@[simp] theorem State.drew_ea32 (s : State) (w : Dword) : (s.drew).ea32 w = s.ea32 w := rfl
@[simp] theorem State.drew_mode64 (s : State) : (s.drew).mode64 = s.mode64 := rfl
@[simp] theorem State.drew_so (s : State) : (s.drew).so = s.so := rfl
@[simp] theorem State.drew_ov (s : State) : (s.drew).ov = s.ov := rfl
@[simp] theorem State.drew_ca (s : State) : (s.drew).ca = s.ca := rfl
@[simp] theorem State.drew_fe (s : State) : (s.drew).fe = s.fe := rfl
@[simp] theorem State.drew_fpOn (s : State) : (s.drew).fpOn = s.fpOn := rfl
@[simp] theorem State.drew_pr (s : State) : (s.drew).pr = s.pr := rfl
@[simp] theorem State.drew_dr (s : State) : (s.drew).dr = s.dr := rfl
@[simp] theorem State.drew_crField (s : State) (k : BitVec 3) : (s.drew).crField k = s.crField k := rfl
@[simp] theorem State.drew_crBit (s : State) (k : BitVec 5) : (s.drew).crBit k = s.crBit k := rfl
@[simp] theorem State.drew_blockOf (s : State) (a : Nat) : (s.drew).blockOf a = s.blockOf a := rfl

/-! ## setCa -/

@[simp] theorem State.setCa_cfg (s : State) (c : Bool) : (s.setCa c).cfg = s.cfg := rfl
@[simp] theorem State.setCa_gpr (s : State) (c : Bool) : (s.setCa c).gpr = s.gpr := rfl
@[simp] theorem State.setCa_fpr (s : State) (c : Bool) : (s.setCa c).fpr = s.fpr := rfl
@[simp] theorem State.setCa_fprSingle (s : State) (c : Bool) : (s.setCa c).fprSingle = s.fprSingle := rfl
@[simp] theorem State.setCa_nia (s : State) (c : Bool) : (s.setCa c).nia = s.nia := rfl
@[simp] theorem State.setCa_cr (s : State) (c : Bool) : (s.setCa c).cr = s.cr := rfl
@[simp] theorem State.setCa_lr (s : State) (c : Bool) : (s.setCa c).lr = s.lr := rfl
@[simp] theorem State.setCa_ctr (s : State) (c : Bool) : (s.setCa c).ctr = s.ctr := rfl
@[simp] theorem State.setCa_msr (s : State) (c : Bool) : (s.setCa c).msr = s.msr := rfl
@[simp] theorem State.setCa_srr0 (s : State) (c : Bool) : (s.setCa c).srr0 = s.srr0 := rfl
@[simp] theorem State.setCa_srr1 (s : State) (c : Bool) : (s.setCa c).srr1 = s.srr1 := rfl
@[simp] theorem State.setCa_dsisr (s : State) (c : Bool) : (s.setCa c).dsisr = s.dsisr := rfl
@[simp] theorem State.setCa_dar (s : State) (c : Bool) : (s.setCa c).dar = s.dar := rfl
@[simp] theorem State.setCa_dec (s : State) (c : Bool) : (s.setCa c).dec = s.dec := rfl
@[simp] theorem State.setCa_tb (s : State) (c : Bool) : (s.setCa c).tb = s.tb := rfl
@[simp] theorem State.setCa_sdr1 (s : State) (c : Bool) : (s.setCa c).sdr1 = s.sdr1 := rfl
@[simp] theorem State.setCa_sprg (s : State) (c : Bool) : (s.setCa c).sprg = s.sprg := rfl
@[simp] theorem State.setCa_asr (s : State) (c : Bool) : (s.setCa c).asr = s.asr := rfl
@[simp] theorem State.setCa_ear (s : State) (c : Bool) : (s.setCa c).ear = s.ear := rfl
@[simp] theorem State.setCa_pvr (s : State) (c : Bool) : (s.setCa c).pvr = s.pvr := rfl
@[simp] theorem State.setCa_ibat (s : State) (c : Bool) : (s.setCa c).ibat = s.ibat := rfl
@[simp] theorem State.setCa_dbat (s : State) (c : Bool) : (s.setCa c).dbat = s.dbat := rfl
@[simp] theorem State.setCa_dabr (s : State) (c : Bool) : (s.setCa c).dabr = s.dabr := rfl
@[simp] theorem State.setCa_fpscr (s : State) (c : Bool) : (s.setCa c).fpscr = s.fpscr := rfl
@[simp] theorem State.setCa_sr (s : State) (c : Bool) : (s.setCa c).sr = s.sr := rfl
@[simp] theorem State.setCa_slb (s : State) (c : Bool) : (s.setCa c).slb = s.slb := rfl
@[simp] theorem State.setCa_tlb (s : State) (c : Bool) : (s.setCa c).tlb = s.tlb := rfl
@[simp] theorem State.setCa_reserve (s : State) (c : Bool) : (s.setCa c).reserve = s.reserve := rfl
@[simp] theorem State.setCa_reserveAddr (s : State) (c : Bool) : (s.setCa c).reserveAddr = s.reserveAddr := rfl
@[simp] theorem State.setCa_extInt (s : State) (c : Bool) : (s.setCa c).extInt = s.extInt := rfl
@[simp] theorem State.setCa_resetPending (s : State) (c : Bool) : (s.setCa c).resetPending = s.resetPending := rfl
@[simp] theorem State.setCa_mcheckPending (s : State) (c : Bool) : (s.setCa c).mcheckPending = s.mcheckPending := rfl
@[simp] theorem State.setCa_decPending (s : State) (c : Bool) : (s.setCa c).decPending = s.decPending := rfl
@[simp] theorem State.setCa_fpPending (s : State) (c : Bool) : (s.setCa c).fpPending = s.fpPending := rfl
@[simp] theorem State.setCa_tracePending (s : State) (c : Bool) : (s.setCa c).tracePending = s.tracePending := rfl
@[simp] theorem State.setCa_mem (s : State) (c : Bool) : (s.setCa c).mem = s.mem := rfl
@[simp] theorem State.setCa_staleInsn (s : State) (c : Bool) : (s.setCa c).staleInsn = s.staleInsn := rfl
@[simp] theorem State.setCa_icbiDone (s : State) (c : Bool) : (s.setCa c).icbiDone = s.icbiDone := rfl
@[simp] theorem State.setCa_stale (s : State) (c : Bool) : (s.setCa c).stale = s.stale := rfl
@[simp] theorem State.setCa_deviceOut (s : State) (c : Bool) : (s.setCa c).deviceOut = s.deviceOut := rfl
@[simp] theorem State.setCa_entered (s : State) (c : Bool) : (s.setCa c).entered = s.entered := rfl
@[simp] theorem State.setCa_env (s : State) (c : Bool) : (s.setCa c).env = s.env := rfl
@[simp] theorem State.setCa_draws (s : State) (c : Bool) : (s.setCa c).draws = s.draws := rfl
@[simp] theorem State.setCa_getGpr (s : State) (c : Bool) (q : BitVec 5) : (s.setCa c).getGpr q = s.getGpr q := rfl
@[simp] theorem State.setCa_getFpr (s : State) (c : Bool) (q : BitVec 5) : (s.setCa c).getFpr q = s.getFpr q := rfl
@[simp] theorem State.setCa_isSingle (s : State) (c : Bool) (q : BitVec 5) : (s.setCa c).isSingle q = s.isSingle q := rfl
@[simp] theorem State.setCa_norm (s : State) (c : Bool) (w : Dword) : (s.setCa c).norm w = s.norm w := rfl
@[simp] theorem State.setCa_ea32 (s : State) (c : Bool) (w : Dword) : (s.setCa c).ea32 w = s.ea32 w := rfl
@[simp] theorem State.setCa_mode64 (s : State) (c : Bool) : (s.setCa c).mode64 = s.mode64 := rfl
@[simp] theorem State.setCa_fe (s : State) (c : Bool) : (s.setCa c).fe = s.fe := rfl
@[simp] theorem State.setCa_fpOn (s : State) (c : Bool) : (s.setCa c).fpOn = s.fpOn := rfl
@[simp] theorem State.setCa_pr (s : State) (c : Bool) : (s.setCa c).pr = s.pr := rfl
@[simp] theorem State.setCa_dr (s : State) (c : Bool) : (s.setCa c).dr = s.dr := rfl
@[simp] theorem State.setCa_crField (s : State) (c : Bool) (k : BitVec 3) : (s.setCa c).crField k = s.crField k := rfl
@[simp] theorem State.setCa_crBit (s : State) (c : Bool) (k : BitVec 5) : (s.setCa c).crBit k = s.crBit k := rfl
@[simp] theorem State.setCa_blockOf (s : State) (c : Bool) (a : Nat) : (s.setCa c).blockOf a = s.blockOf a := rfl

/-! ## setOv -/

@[simp] theorem State.setOv_cfg (s : State) (c : Bool) : (s.setOv c).cfg = s.cfg := rfl
@[simp] theorem State.setOv_gpr (s : State) (c : Bool) : (s.setOv c).gpr = s.gpr := rfl
@[simp] theorem State.setOv_fpr (s : State) (c : Bool) : (s.setOv c).fpr = s.fpr := rfl
@[simp] theorem State.setOv_fprSingle (s : State) (c : Bool) : (s.setOv c).fprSingle = s.fprSingle := rfl
@[simp] theorem State.setOv_nia (s : State) (c : Bool) : (s.setOv c).nia = s.nia := rfl
@[simp] theorem State.setOv_cr (s : State) (c : Bool) : (s.setOv c).cr = s.cr := rfl
@[simp] theorem State.setOv_lr (s : State) (c : Bool) : (s.setOv c).lr = s.lr := rfl
@[simp] theorem State.setOv_ctr (s : State) (c : Bool) : (s.setOv c).ctr = s.ctr := rfl
@[simp] theorem State.setOv_msr (s : State) (c : Bool) : (s.setOv c).msr = s.msr := rfl
@[simp] theorem State.setOv_srr0 (s : State) (c : Bool) : (s.setOv c).srr0 = s.srr0 := rfl
@[simp] theorem State.setOv_srr1 (s : State) (c : Bool) : (s.setOv c).srr1 = s.srr1 := rfl
@[simp] theorem State.setOv_dsisr (s : State) (c : Bool) : (s.setOv c).dsisr = s.dsisr := rfl
@[simp] theorem State.setOv_dar (s : State) (c : Bool) : (s.setOv c).dar = s.dar := rfl
@[simp] theorem State.setOv_dec (s : State) (c : Bool) : (s.setOv c).dec = s.dec := rfl
@[simp] theorem State.setOv_tb (s : State) (c : Bool) : (s.setOv c).tb = s.tb := rfl
@[simp] theorem State.setOv_sdr1 (s : State) (c : Bool) : (s.setOv c).sdr1 = s.sdr1 := rfl
@[simp] theorem State.setOv_sprg (s : State) (c : Bool) : (s.setOv c).sprg = s.sprg := rfl
@[simp] theorem State.setOv_asr (s : State) (c : Bool) : (s.setOv c).asr = s.asr := rfl
@[simp] theorem State.setOv_ear (s : State) (c : Bool) : (s.setOv c).ear = s.ear := rfl
@[simp] theorem State.setOv_pvr (s : State) (c : Bool) : (s.setOv c).pvr = s.pvr := rfl
@[simp] theorem State.setOv_ibat (s : State) (c : Bool) : (s.setOv c).ibat = s.ibat := rfl
@[simp] theorem State.setOv_dbat (s : State) (c : Bool) : (s.setOv c).dbat = s.dbat := rfl
@[simp] theorem State.setOv_dabr (s : State) (c : Bool) : (s.setOv c).dabr = s.dabr := rfl
@[simp] theorem State.setOv_fpscr (s : State) (c : Bool) : (s.setOv c).fpscr = s.fpscr := rfl
@[simp] theorem State.setOv_sr (s : State) (c : Bool) : (s.setOv c).sr = s.sr := rfl
@[simp] theorem State.setOv_slb (s : State) (c : Bool) : (s.setOv c).slb = s.slb := rfl
@[simp] theorem State.setOv_tlb (s : State) (c : Bool) : (s.setOv c).tlb = s.tlb := rfl
@[simp] theorem State.setOv_reserve (s : State) (c : Bool) : (s.setOv c).reserve = s.reserve := rfl
@[simp] theorem State.setOv_reserveAddr (s : State) (c : Bool) : (s.setOv c).reserveAddr = s.reserveAddr := rfl
@[simp] theorem State.setOv_extInt (s : State) (c : Bool) : (s.setOv c).extInt = s.extInt := rfl
@[simp] theorem State.setOv_resetPending (s : State) (c : Bool) : (s.setOv c).resetPending = s.resetPending := rfl
@[simp] theorem State.setOv_mcheckPending (s : State) (c : Bool) : (s.setOv c).mcheckPending = s.mcheckPending := rfl
@[simp] theorem State.setOv_decPending (s : State) (c : Bool) : (s.setOv c).decPending = s.decPending := rfl
@[simp] theorem State.setOv_fpPending (s : State) (c : Bool) : (s.setOv c).fpPending = s.fpPending := rfl
@[simp] theorem State.setOv_tracePending (s : State) (c : Bool) : (s.setOv c).tracePending = s.tracePending := rfl
@[simp] theorem State.setOv_mem (s : State) (c : Bool) : (s.setOv c).mem = s.mem := rfl
@[simp] theorem State.setOv_staleInsn (s : State) (c : Bool) : (s.setOv c).staleInsn = s.staleInsn := rfl
@[simp] theorem State.setOv_icbiDone (s : State) (c : Bool) : (s.setOv c).icbiDone = s.icbiDone := rfl
@[simp] theorem State.setOv_stale (s : State) (c : Bool) : (s.setOv c).stale = s.stale := rfl
@[simp] theorem State.setOv_deviceOut (s : State) (c : Bool) : (s.setOv c).deviceOut = s.deviceOut := rfl
@[simp] theorem State.setOv_entered (s : State) (c : Bool) : (s.setOv c).entered = s.entered := rfl
@[simp] theorem State.setOv_env (s : State) (c : Bool) : (s.setOv c).env = s.env := rfl
@[simp] theorem State.setOv_draws (s : State) (c : Bool) : (s.setOv c).draws = s.draws := rfl
@[simp] theorem State.setOv_getGpr (s : State) (c : Bool) (q : BitVec 5) : (s.setOv c).getGpr q = s.getGpr q := rfl
@[simp] theorem State.setOv_getFpr (s : State) (c : Bool) (q : BitVec 5) : (s.setOv c).getFpr q = s.getFpr q := rfl
@[simp] theorem State.setOv_isSingle (s : State) (c : Bool) (q : BitVec 5) : (s.setOv c).isSingle q = s.isSingle q := rfl
@[simp] theorem State.setOv_norm (s : State) (c : Bool) (w : Dword) : (s.setOv c).norm w = s.norm w := rfl
@[simp] theorem State.setOv_ea32 (s : State) (c : Bool) (w : Dword) : (s.setOv c).ea32 w = s.ea32 w := rfl
@[simp] theorem State.setOv_mode64 (s : State) (c : Bool) : (s.setOv c).mode64 = s.mode64 := rfl
@[simp] theorem State.setOv_fe (s : State) (c : Bool) : (s.setOv c).fe = s.fe := rfl
@[simp] theorem State.setOv_fpOn (s : State) (c : Bool) : (s.setOv c).fpOn = s.fpOn := rfl
@[simp] theorem State.setOv_pr (s : State) (c : Bool) : (s.setOv c).pr = s.pr := rfl
@[simp] theorem State.setOv_dr (s : State) (c : Bool) : (s.setOv c).dr = s.dr := rfl
@[simp] theorem State.setOv_crField (s : State) (c : Bool) (k : BitVec 3) : (s.setOv c).crField k = s.crField k := rfl
@[simp] theorem State.setOv_crBit (s : State) (c : Bool) (k : BitVec 5) : (s.setOv c).crBit k = s.crBit k := rfl
@[simp] theorem State.setOv_blockOf (s : State) (c : Bool) (a : Nat) : (s.setOv c).blockOf a = s.blockOf a := rfl

/-! ## setCrBit -/

@[simp] theorem State.setCrBit_cfg (s : State) (i : BitVec 5) (c : Bool) : (s.setCrBit i c).cfg = s.cfg := rfl
@[simp] theorem State.setCrBit_gpr (s : State) (i : BitVec 5) (c : Bool) : (s.setCrBit i c).gpr = s.gpr := rfl
@[simp] theorem State.setCrBit_fpr (s : State) (i : BitVec 5) (c : Bool) : (s.setCrBit i c).fpr = s.fpr := rfl
@[simp] theorem State.setCrBit_fprSingle (s : State) (i : BitVec 5) (c : Bool) : (s.setCrBit i c).fprSingle = s.fprSingle := rfl
@[simp] theorem State.setCrBit_nia (s : State) (i : BitVec 5) (c : Bool) : (s.setCrBit i c).nia = s.nia := rfl
@[simp] theorem State.setCrBit_xer (s : State) (i : BitVec 5) (c : Bool) : (s.setCrBit i c).xer = s.xer := rfl
@[simp] theorem State.setCrBit_lr (s : State) (i : BitVec 5) (c : Bool) : (s.setCrBit i c).lr = s.lr := rfl
@[simp] theorem State.setCrBit_ctr (s : State) (i : BitVec 5) (c : Bool) : (s.setCrBit i c).ctr = s.ctr := rfl
@[simp] theorem State.setCrBit_msr (s : State) (i : BitVec 5) (c : Bool) : (s.setCrBit i c).msr = s.msr := rfl
@[simp] theorem State.setCrBit_srr0 (s : State) (i : BitVec 5) (c : Bool) : (s.setCrBit i c).srr0 = s.srr0 := rfl
@[simp] theorem State.setCrBit_srr1 (s : State) (i : BitVec 5) (c : Bool) : (s.setCrBit i c).srr1 = s.srr1 := rfl
@[simp] theorem State.setCrBit_dsisr (s : State) (i : BitVec 5) (c : Bool) : (s.setCrBit i c).dsisr = s.dsisr := rfl
@[simp] theorem State.setCrBit_dar (s : State) (i : BitVec 5) (c : Bool) : (s.setCrBit i c).dar = s.dar := rfl
@[simp] theorem State.setCrBit_dec (s : State) (i : BitVec 5) (c : Bool) : (s.setCrBit i c).dec = s.dec := rfl
@[simp] theorem State.setCrBit_tb (s : State) (i : BitVec 5) (c : Bool) : (s.setCrBit i c).tb = s.tb := rfl
@[simp] theorem State.setCrBit_sdr1 (s : State) (i : BitVec 5) (c : Bool) : (s.setCrBit i c).sdr1 = s.sdr1 := rfl
@[simp] theorem State.setCrBit_sprg (s : State) (i : BitVec 5) (c : Bool) : (s.setCrBit i c).sprg = s.sprg := rfl
@[simp] theorem State.setCrBit_asr (s : State) (i : BitVec 5) (c : Bool) : (s.setCrBit i c).asr = s.asr := rfl
@[simp] theorem State.setCrBit_ear (s : State) (i : BitVec 5) (c : Bool) : (s.setCrBit i c).ear = s.ear := rfl
@[simp] theorem State.setCrBit_pvr (s : State) (i : BitVec 5) (c : Bool) : (s.setCrBit i c).pvr = s.pvr := rfl
@[simp] theorem State.setCrBit_ibat (s : State) (i : BitVec 5) (c : Bool) : (s.setCrBit i c).ibat = s.ibat := rfl
@[simp] theorem State.setCrBit_dbat (s : State) (i : BitVec 5) (c : Bool) : (s.setCrBit i c).dbat = s.dbat := rfl
@[simp] theorem State.setCrBit_dabr (s : State) (i : BitVec 5) (c : Bool) : (s.setCrBit i c).dabr = s.dabr := rfl
@[simp] theorem State.setCrBit_fpscr (s : State) (i : BitVec 5) (c : Bool) : (s.setCrBit i c).fpscr = s.fpscr := rfl
@[simp] theorem State.setCrBit_sr (s : State) (i : BitVec 5) (c : Bool) : (s.setCrBit i c).sr = s.sr := rfl
@[simp] theorem State.setCrBit_slb (s : State) (i : BitVec 5) (c : Bool) : (s.setCrBit i c).slb = s.slb := rfl
@[simp] theorem State.setCrBit_tlb (s : State) (i : BitVec 5) (c : Bool) : (s.setCrBit i c).tlb = s.tlb := rfl
@[simp] theorem State.setCrBit_reserve (s : State) (i : BitVec 5) (c : Bool) : (s.setCrBit i c).reserve = s.reserve := rfl
@[simp] theorem State.setCrBit_reserveAddr (s : State) (i : BitVec 5) (c : Bool) : (s.setCrBit i c).reserveAddr = s.reserveAddr := rfl
@[simp] theorem State.setCrBit_extInt (s : State) (i : BitVec 5) (c : Bool) : (s.setCrBit i c).extInt = s.extInt := rfl
@[simp] theorem State.setCrBit_resetPending (s : State) (i : BitVec 5) (c : Bool) : (s.setCrBit i c).resetPending = s.resetPending := rfl
@[simp] theorem State.setCrBit_mcheckPending (s : State) (i : BitVec 5) (c : Bool) : (s.setCrBit i c).mcheckPending = s.mcheckPending := rfl
@[simp] theorem State.setCrBit_decPending (s : State) (i : BitVec 5) (c : Bool) : (s.setCrBit i c).decPending = s.decPending := rfl
@[simp] theorem State.setCrBit_fpPending (s : State) (i : BitVec 5) (c : Bool) : (s.setCrBit i c).fpPending = s.fpPending := rfl
@[simp] theorem State.setCrBit_tracePending (s : State) (i : BitVec 5) (c : Bool) : (s.setCrBit i c).tracePending = s.tracePending := rfl
@[simp] theorem State.setCrBit_mem (s : State) (i : BitVec 5) (c : Bool) : (s.setCrBit i c).mem = s.mem := rfl
@[simp] theorem State.setCrBit_staleInsn (s : State) (i : BitVec 5) (c : Bool) : (s.setCrBit i c).staleInsn = s.staleInsn := rfl
@[simp] theorem State.setCrBit_icbiDone (s : State) (i : BitVec 5) (c : Bool) : (s.setCrBit i c).icbiDone = s.icbiDone := rfl
@[simp] theorem State.setCrBit_stale (s : State) (i : BitVec 5) (c : Bool) : (s.setCrBit i c).stale = s.stale := rfl
@[simp] theorem State.setCrBit_deviceOut (s : State) (i : BitVec 5) (c : Bool) : (s.setCrBit i c).deviceOut = s.deviceOut := rfl
@[simp] theorem State.setCrBit_entered (s : State) (i : BitVec 5) (c : Bool) : (s.setCrBit i c).entered = s.entered := rfl
@[simp] theorem State.setCrBit_env (s : State) (i : BitVec 5) (c : Bool) : (s.setCrBit i c).env = s.env := rfl
@[simp] theorem State.setCrBit_draws (s : State) (i : BitVec 5) (c : Bool) : (s.setCrBit i c).draws = s.draws := rfl
@[simp] theorem State.setCrBit_getGpr (s : State) (i : BitVec 5) (c : Bool) (q : BitVec 5) : (s.setCrBit i c).getGpr q = s.getGpr q := rfl
@[simp] theorem State.setCrBit_getFpr (s : State) (i : BitVec 5) (c : Bool) (q : BitVec 5) : (s.setCrBit i c).getFpr q = s.getFpr q := rfl
@[simp] theorem State.setCrBit_isSingle (s : State) (i : BitVec 5) (c : Bool) (q : BitVec 5) : (s.setCrBit i c).isSingle q = s.isSingle q := rfl
@[simp] theorem State.setCrBit_norm (s : State) (i : BitVec 5) (c : Bool) (w : Dword) : (s.setCrBit i c).norm w = s.norm w := rfl
@[simp] theorem State.setCrBit_ea32 (s : State) (i : BitVec 5) (c : Bool) (w : Dword) : (s.setCrBit i c).ea32 w = s.ea32 w := rfl
@[simp] theorem State.setCrBit_mode64 (s : State) (i : BitVec 5) (c : Bool) : (s.setCrBit i c).mode64 = s.mode64 := rfl
@[simp] theorem State.setCrBit_so (s : State) (i : BitVec 5) (c : Bool) : (s.setCrBit i c).so = s.so := rfl
@[simp] theorem State.setCrBit_ov (s : State) (i : BitVec 5) (c : Bool) : (s.setCrBit i c).ov = s.ov := rfl
@[simp] theorem State.setCrBit_ca (s : State) (i : BitVec 5) (c : Bool) : (s.setCrBit i c).ca = s.ca := rfl
@[simp] theorem State.setCrBit_fe (s : State) (i : BitVec 5) (c : Bool) : (s.setCrBit i c).fe = s.fe := rfl
@[simp] theorem State.setCrBit_fpOn (s : State) (i : BitVec 5) (c : Bool) : (s.setCrBit i c).fpOn = s.fpOn := rfl
@[simp] theorem State.setCrBit_pr (s : State) (i : BitVec 5) (c : Bool) : (s.setCrBit i c).pr = s.pr := rfl
@[simp] theorem State.setCrBit_dr (s : State) (i : BitVec 5) (c : Bool) : (s.setCrBit i c).dr = s.dr := rfl
@[simp] theorem State.setCrBit_blockOf (s : State) (i : BitVec 5) (c : Bool) (a : Nat) : (s.setCrBit i c).blockOf a = s.blockOf a := rfl

/-! ## setCrField -/

@[simp] theorem State.setCrField_cfg (s : State) (f : BitVec 3) (v : BitVec 4) : (s.setCrField f v).cfg = s.cfg := rfl
@[simp] theorem State.setCrField_gpr (s : State) (f : BitVec 3) (v : BitVec 4) : (s.setCrField f v).gpr = s.gpr := rfl
@[simp] theorem State.setCrField_fpr (s : State) (f : BitVec 3) (v : BitVec 4) : (s.setCrField f v).fpr = s.fpr := rfl
@[simp] theorem State.setCrField_fprSingle (s : State) (f : BitVec 3) (v : BitVec 4) : (s.setCrField f v).fprSingle = s.fprSingle := rfl
@[simp] theorem State.setCrField_nia (s : State) (f : BitVec 3) (v : BitVec 4) : (s.setCrField f v).nia = s.nia := rfl
@[simp] theorem State.setCrField_xer (s : State) (f : BitVec 3) (v : BitVec 4) : (s.setCrField f v).xer = s.xer := rfl
@[simp] theorem State.setCrField_lr (s : State) (f : BitVec 3) (v : BitVec 4) : (s.setCrField f v).lr = s.lr := rfl
@[simp] theorem State.setCrField_ctr (s : State) (f : BitVec 3) (v : BitVec 4) : (s.setCrField f v).ctr = s.ctr := rfl
@[simp] theorem State.setCrField_msr (s : State) (f : BitVec 3) (v : BitVec 4) : (s.setCrField f v).msr = s.msr := rfl
@[simp] theorem State.setCrField_srr0 (s : State) (f : BitVec 3) (v : BitVec 4) : (s.setCrField f v).srr0 = s.srr0 := rfl
@[simp] theorem State.setCrField_srr1 (s : State) (f : BitVec 3) (v : BitVec 4) : (s.setCrField f v).srr1 = s.srr1 := rfl
@[simp] theorem State.setCrField_dsisr (s : State) (f : BitVec 3) (v : BitVec 4) : (s.setCrField f v).dsisr = s.dsisr := rfl
@[simp] theorem State.setCrField_dar (s : State) (f : BitVec 3) (v : BitVec 4) : (s.setCrField f v).dar = s.dar := rfl
@[simp] theorem State.setCrField_dec (s : State) (f : BitVec 3) (v : BitVec 4) : (s.setCrField f v).dec = s.dec := rfl
@[simp] theorem State.setCrField_tb (s : State) (f : BitVec 3) (v : BitVec 4) : (s.setCrField f v).tb = s.tb := rfl
@[simp] theorem State.setCrField_sdr1 (s : State) (f : BitVec 3) (v : BitVec 4) : (s.setCrField f v).sdr1 = s.sdr1 := rfl
@[simp] theorem State.setCrField_sprg (s : State) (f : BitVec 3) (v : BitVec 4) : (s.setCrField f v).sprg = s.sprg := rfl
@[simp] theorem State.setCrField_asr (s : State) (f : BitVec 3) (v : BitVec 4) : (s.setCrField f v).asr = s.asr := rfl
@[simp] theorem State.setCrField_ear (s : State) (f : BitVec 3) (v : BitVec 4) : (s.setCrField f v).ear = s.ear := rfl
@[simp] theorem State.setCrField_pvr (s : State) (f : BitVec 3) (v : BitVec 4) : (s.setCrField f v).pvr = s.pvr := rfl
@[simp] theorem State.setCrField_ibat (s : State) (f : BitVec 3) (v : BitVec 4) : (s.setCrField f v).ibat = s.ibat := rfl
@[simp] theorem State.setCrField_dbat (s : State) (f : BitVec 3) (v : BitVec 4) : (s.setCrField f v).dbat = s.dbat := rfl
@[simp] theorem State.setCrField_dabr (s : State) (f : BitVec 3) (v : BitVec 4) : (s.setCrField f v).dabr = s.dabr := rfl
@[simp] theorem State.setCrField_fpscr (s : State) (f : BitVec 3) (v : BitVec 4) : (s.setCrField f v).fpscr = s.fpscr := rfl
@[simp] theorem State.setCrField_sr (s : State) (f : BitVec 3) (v : BitVec 4) : (s.setCrField f v).sr = s.sr := rfl
@[simp] theorem State.setCrField_slb (s : State) (f : BitVec 3) (v : BitVec 4) : (s.setCrField f v).slb = s.slb := rfl
@[simp] theorem State.setCrField_tlb (s : State) (f : BitVec 3) (v : BitVec 4) : (s.setCrField f v).tlb = s.tlb := rfl
@[simp] theorem State.setCrField_reserve (s : State) (f : BitVec 3) (v : BitVec 4) : (s.setCrField f v).reserve = s.reserve := rfl
@[simp] theorem State.setCrField_reserveAddr (s : State) (f : BitVec 3) (v : BitVec 4) : (s.setCrField f v).reserveAddr = s.reserveAddr := rfl
@[simp] theorem State.setCrField_extInt (s : State) (f : BitVec 3) (v : BitVec 4) : (s.setCrField f v).extInt = s.extInt := rfl
@[simp] theorem State.setCrField_resetPending (s : State) (f : BitVec 3) (v : BitVec 4) : (s.setCrField f v).resetPending = s.resetPending := rfl
@[simp] theorem State.setCrField_mcheckPending (s : State) (f : BitVec 3) (v : BitVec 4) : (s.setCrField f v).mcheckPending = s.mcheckPending := rfl
@[simp] theorem State.setCrField_decPending (s : State) (f : BitVec 3) (v : BitVec 4) : (s.setCrField f v).decPending = s.decPending := rfl
@[simp] theorem State.setCrField_fpPending (s : State) (f : BitVec 3) (v : BitVec 4) : (s.setCrField f v).fpPending = s.fpPending := rfl
@[simp] theorem State.setCrField_tracePending (s : State) (f : BitVec 3) (v : BitVec 4) : (s.setCrField f v).tracePending = s.tracePending := rfl
@[simp] theorem State.setCrField_mem (s : State) (f : BitVec 3) (v : BitVec 4) : (s.setCrField f v).mem = s.mem := rfl
@[simp] theorem State.setCrField_staleInsn (s : State) (f : BitVec 3) (v : BitVec 4) : (s.setCrField f v).staleInsn = s.staleInsn := rfl
@[simp] theorem State.setCrField_icbiDone (s : State) (f : BitVec 3) (v : BitVec 4) : (s.setCrField f v).icbiDone = s.icbiDone := rfl
@[simp] theorem State.setCrField_stale (s : State) (f : BitVec 3) (v : BitVec 4) : (s.setCrField f v).stale = s.stale := rfl
@[simp] theorem State.setCrField_deviceOut (s : State) (f : BitVec 3) (v : BitVec 4) : (s.setCrField f v).deviceOut = s.deviceOut := rfl
@[simp] theorem State.setCrField_entered (s : State) (f : BitVec 3) (v : BitVec 4) : (s.setCrField f v).entered = s.entered := rfl
@[simp] theorem State.setCrField_env (s : State) (f : BitVec 3) (v : BitVec 4) : (s.setCrField f v).env = s.env := rfl
@[simp] theorem State.setCrField_draws (s : State) (f : BitVec 3) (v : BitVec 4) : (s.setCrField f v).draws = s.draws := rfl
@[simp] theorem State.setCrField_getGpr (s : State) (f : BitVec 3) (v : BitVec 4) (q : BitVec 5) : (s.setCrField f v).getGpr q = s.getGpr q := rfl
@[simp] theorem State.setCrField_getFpr (s : State) (f : BitVec 3) (v : BitVec 4) (q : BitVec 5) : (s.setCrField f v).getFpr q = s.getFpr q := rfl
@[simp] theorem State.setCrField_isSingle (s : State) (f : BitVec 3) (v : BitVec 4) (q : BitVec 5) : (s.setCrField f v).isSingle q = s.isSingle q := rfl
@[simp] theorem State.setCrField_norm (s : State) (f : BitVec 3) (v : BitVec 4) (w : Dword) : (s.setCrField f v).norm w = s.norm w := rfl
@[simp] theorem State.setCrField_ea32 (s : State) (f : BitVec 3) (v : BitVec 4) (w : Dword) : (s.setCrField f v).ea32 w = s.ea32 w := rfl
@[simp] theorem State.setCrField_mode64 (s : State) (f : BitVec 3) (v : BitVec 4) : (s.setCrField f v).mode64 = s.mode64 := rfl
@[simp] theorem State.setCrField_so (s : State) (f : BitVec 3) (v : BitVec 4) : (s.setCrField f v).so = s.so := rfl
@[simp] theorem State.setCrField_ov (s : State) (f : BitVec 3) (v : BitVec 4) : (s.setCrField f v).ov = s.ov := rfl
@[simp] theorem State.setCrField_ca (s : State) (f : BitVec 3) (v : BitVec 4) : (s.setCrField f v).ca = s.ca := rfl
@[simp] theorem State.setCrField_fe (s : State) (f : BitVec 3) (v : BitVec 4) : (s.setCrField f v).fe = s.fe := rfl
@[simp] theorem State.setCrField_fpOn (s : State) (f : BitVec 3) (v : BitVec 4) : (s.setCrField f v).fpOn = s.fpOn := rfl
@[simp] theorem State.setCrField_pr (s : State) (f : BitVec 3) (v : BitVec 4) : (s.setCrField f v).pr = s.pr := rfl
@[simp] theorem State.setCrField_dr (s : State) (f : BitVec 3) (v : BitVec 4) : (s.setCrField f v).dr = s.dr := rfl
@[simp] theorem State.setCrField_blockOf (s : State) (f : BitVec 3) (v : BitVec 4) (a : Nat) : (s.setCrField f v).blockOf a = s.blockOf a := rfl

/-! ## recordCr0 -/

@[simp] theorem State.recordCr0_cfg (s : State) (v : Dword) : (s.recordCr0 v).cfg = s.cfg := rfl
@[simp] theorem State.recordCr0_gpr (s : State) (v : Dword) : (s.recordCr0 v).gpr = s.gpr := rfl
@[simp] theorem State.recordCr0_fpr (s : State) (v : Dword) : (s.recordCr0 v).fpr = s.fpr := rfl
@[simp] theorem State.recordCr0_fprSingle (s : State) (v : Dword) : (s.recordCr0 v).fprSingle = s.fprSingle := rfl
@[simp] theorem State.recordCr0_nia (s : State) (v : Dword) : (s.recordCr0 v).nia = s.nia := rfl
@[simp] theorem State.recordCr0_xer (s : State) (v : Dword) : (s.recordCr0 v).xer = s.xer := rfl
@[simp] theorem State.recordCr0_lr (s : State) (v : Dword) : (s.recordCr0 v).lr = s.lr := rfl
@[simp] theorem State.recordCr0_ctr (s : State) (v : Dword) : (s.recordCr0 v).ctr = s.ctr := rfl
@[simp] theorem State.recordCr0_msr (s : State) (v : Dword) : (s.recordCr0 v).msr = s.msr := rfl
@[simp] theorem State.recordCr0_srr0 (s : State) (v : Dword) : (s.recordCr0 v).srr0 = s.srr0 := rfl
@[simp] theorem State.recordCr0_srr1 (s : State) (v : Dword) : (s.recordCr0 v).srr1 = s.srr1 := rfl
@[simp] theorem State.recordCr0_dsisr (s : State) (v : Dword) : (s.recordCr0 v).dsisr = s.dsisr := rfl
@[simp] theorem State.recordCr0_dar (s : State) (v : Dword) : (s.recordCr0 v).dar = s.dar := rfl
@[simp] theorem State.recordCr0_dec (s : State) (v : Dword) : (s.recordCr0 v).dec = s.dec := rfl
@[simp] theorem State.recordCr0_tb (s : State) (v : Dword) : (s.recordCr0 v).tb = s.tb := rfl
@[simp] theorem State.recordCr0_sdr1 (s : State) (v : Dword) : (s.recordCr0 v).sdr1 = s.sdr1 := rfl
@[simp] theorem State.recordCr0_sprg (s : State) (v : Dword) : (s.recordCr0 v).sprg = s.sprg := rfl
@[simp] theorem State.recordCr0_asr (s : State) (v : Dword) : (s.recordCr0 v).asr = s.asr := rfl
@[simp] theorem State.recordCr0_ear (s : State) (v : Dword) : (s.recordCr0 v).ear = s.ear := rfl
@[simp] theorem State.recordCr0_pvr (s : State) (v : Dword) : (s.recordCr0 v).pvr = s.pvr := rfl
@[simp] theorem State.recordCr0_ibat (s : State) (v : Dword) : (s.recordCr0 v).ibat = s.ibat := rfl
@[simp] theorem State.recordCr0_dbat (s : State) (v : Dword) : (s.recordCr0 v).dbat = s.dbat := rfl
@[simp] theorem State.recordCr0_dabr (s : State) (v : Dword) : (s.recordCr0 v).dabr = s.dabr := rfl
@[simp] theorem State.recordCr0_fpscr (s : State) (v : Dword) : (s.recordCr0 v).fpscr = s.fpscr := rfl
@[simp] theorem State.recordCr0_sr (s : State) (v : Dword) : (s.recordCr0 v).sr = s.sr := rfl
@[simp] theorem State.recordCr0_slb (s : State) (v : Dword) : (s.recordCr0 v).slb = s.slb := rfl
@[simp] theorem State.recordCr0_tlb (s : State) (v : Dword) : (s.recordCr0 v).tlb = s.tlb := rfl
@[simp] theorem State.recordCr0_reserve (s : State) (v : Dword) : (s.recordCr0 v).reserve = s.reserve := rfl
@[simp] theorem State.recordCr0_reserveAddr (s : State) (v : Dword) : (s.recordCr0 v).reserveAddr = s.reserveAddr := rfl
@[simp] theorem State.recordCr0_extInt (s : State) (v : Dword) : (s.recordCr0 v).extInt = s.extInt := rfl
@[simp] theorem State.recordCr0_resetPending (s : State) (v : Dword) : (s.recordCr0 v).resetPending = s.resetPending := rfl
@[simp] theorem State.recordCr0_mcheckPending (s : State) (v : Dword) : (s.recordCr0 v).mcheckPending = s.mcheckPending := rfl
@[simp] theorem State.recordCr0_decPending (s : State) (v : Dword) : (s.recordCr0 v).decPending = s.decPending := rfl
@[simp] theorem State.recordCr0_fpPending (s : State) (v : Dword) : (s.recordCr0 v).fpPending = s.fpPending := rfl
@[simp] theorem State.recordCr0_tracePending (s : State) (v : Dword) : (s.recordCr0 v).tracePending = s.tracePending := rfl
@[simp] theorem State.recordCr0_mem (s : State) (v : Dword) : (s.recordCr0 v).mem = s.mem := rfl
@[simp] theorem State.recordCr0_staleInsn (s : State) (v : Dword) : (s.recordCr0 v).staleInsn = s.staleInsn := rfl
@[simp] theorem State.recordCr0_icbiDone (s : State) (v : Dword) : (s.recordCr0 v).icbiDone = s.icbiDone := rfl
@[simp] theorem State.recordCr0_stale (s : State) (v : Dword) : (s.recordCr0 v).stale = s.stale := rfl
@[simp] theorem State.recordCr0_deviceOut (s : State) (v : Dword) : (s.recordCr0 v).deviceOut = s.deviceOut := rfl
@[simp] theorem State.recordCr0_entered (s : State) (v : Dword) : (s.recordCr0 v).entered = s.entered := rfl
@[simp] theorem State.recordCr0_env (s : State) (v : Dword) : (s.recordCr0 v).env = s.env := rfl
@[simp] theorem State.recordCr0_draws (s : State) (v : Dword) : (s.recordCr0 v).draws = s.draws := rfl
@[simp] theorem State.recordCr0_getGpr (s : State) (v : Dword) (q : BitVec 5) : (s.recordCr0 v).getGpr q = s.getGpr q := rfl
@[simp] theorem State.recordCr0_getFpr (s : State) (v : Dword) (q : BitVec 5) : (s.recordCr0 v).getFpr q = s.getFpr q := rfl
@[simp] theorem State.recordCr0_isSingle (s : State) (v : Dword) (q : BitVec 5) : (s.recordCr0 v).isSingle q = s.isSingle q := rfl
@[simp] theorem State.recordCr0_norm (s : State) (v : Dword) (w : Dword) : (s.recordCr0 v).norm w = s.norm w := rfl
@[simp] theorem State.recordCr0_ea32 (s : State) (v : Dword) (w : Dword) : (s.recordCr0 v).ea32 w = s.ea32 w := rfl
@[simp] theorem State.recordCr0_mode64 (s : State) (v : Dword) : (s.recordCr0 v).mode64 = s.mode64 := rfl
@[simp] theorem State.recordCr0_so (s : State) (v : Dword) : (s.recordCr0 v).so = s.so := rfl
@[simp] theorem State.recordCr0_ov (s : State) (v : Dword) : (s.recordCr0 v).ov = s.ov := rfl
@[simp] theorem State.recordCr0_ca (s : State) (v : Dword) : (s.recordCr0 v).ca = s.ca := rfl
@[simp] theorem State.recordCr0_fe (s : State) (v : Dword) : (s.recordCr0 v).fe = s.fe := rfl
@[simp] theorem State.recordCr0_fpOn (s : State) (v : Dword) : (s.recordCr0 v).fpOn = s.fpOn := rfl
@[simp] theorem State.recordCr0_pr (s : State) (v : Dword) : (s.recordCr0 v).pr = s.pr := rfl
@[simp] theorem State.recordCr0_dr (s : State) (v : Dword) : (s.recordCr0 v).dr = s.dr := rfl
@[simp] theorem State.recordCr0_blockOf (s : State) (v : Dword) (a : Nat) : (s.recordCr0 v).blockOf a = s.blockOf a := rfl

/-! ## recordUndefined -/

@[simp] theorem State.recordUndefined_cfg (s : State) : (s.recordUndefined).cfg = s.cfg := rfl
@[simp] theorem State.recordUndefined_gpr (s : State) : (s.recordUndefined).gpr = s.gpr := rfl
@[simp] theorem State.recordUndefined_fpr (s : State) : (s.recordUndefined).fpr = s.fpr := rfl
@[simp] theorem State.recordUndefined_fprSingle (s : State) : (s.recordUndefined).fprSingle = s.fprSingle := rfl
@[simp] theorem State.recordUndefined_nia (s : State) : (s.recordUndefined).nia = s.nia := rfl
@[simp] theorem State.recordUndefined_xer (s : State) : (s.recordUndefined).xer = s.xer := rfl
@[simp] theorem State.recordUndefined_lr (s : State) : (s.recordUndefined).lr = s.lr := rfl
@[simp] theorem State.recordUndefined_ctr (s : State) : (s.recordUndefined).ctr = s.ctr := rfl
@[simp] theorem State.recordUndefined_msr (s : State) : (s.recordUndefined).msr = s.msr := rfl
@[simp] theorem State.recordUndefined_srr0 (s : State) : (s.recordUndefined).srr0 = s.srr0 := rfl
@[simp] theorem State.recordUndefined_srr1 (s : State) : (s.recordUndefined).srr1 = s.srr1 := rfl
@[simp] theorem State.recordUndefined_dsisr (s : State) : (s.recordUndefined).dsisr = s.dsisr := rfl
@[simp] theorem State.recordUndefined_dar (s : State) : (s.recordUndefined).dar = s.dar := rfl
@[simp] theorem State.recordUndefined_dec (s : State) : (s.recordUndefined).dec = s.dec := rfl
@[simp] theorem State.recordUndefined_tb (s : State) : (s.recordUndefined).tb = s.tb := rfl
@[simp] theorem State.recordUndefined_sdr1 (s : State) : (s.recordUndefined).sdr1 = s.sdr1 := rfl
@[simp] theorem State.recordUndefined_sprg (s : State) : (s.recordUndefined).sprg = s.sprg := rfl
@[simp] theorem State.recordUndefined_asr (s : State) : (s.recordUndefined).asr = s.asr := rfl
@[simp] theorem State.recordUndefined_ear (s : State) : (s.recordUndefined).ear = s.ear := rfl
@[simp] theorem State.recordUndefined_pvr (s : State) : (s.recordUndefined).pvr = s.pvr := rfl
@[simp] theorem State.recordUndefined_ibat (s : State) : (s.recordUndefined).ibat = s.ibat := rfl
@[simp] theorem State.recordUndefined_dbat (s : State) : (s.recordUndefined).dbat = s.dbat := rfl
@[simp] theorem State.recordUndefined_dabr (s : State) : (s.recordUndefined).dabr = s.dabr := rfl
@[simp] theorem State.recordUndefined_fpscr (s : State) : (s.recordUndefined).fpscr = s.fpscr := rfl
@[simp] theorem State.recordUndefined_sr (s : State) : (s.recordUndefined).sr = s.sr := rfl
@[simp] theorem State.recordUndefined_slb (s : State) : (s.recordUndefined).slb = s.slb := rfl
@[simp] theorem State.recordUndefined_tlb (s : State) : (s.recordUndefined).tlb = s.tlb := rfl
@[simp] theorem State.recordUndefined_reserve (s : State) : (s.recordUndefined).reserve = s.reserve := rfl
@[simp] theorem State.recordUndefined_reserveAddr (s : State) : (s.recordUndefined).reserveAddr = s.reserveAddr := rfl
@[simp] theorem State.recordUndefined_extInt (s : State) : (s.recordUndefined).extInt = s.extInt := rfl
@[simp] theorem State.recordUndefined_resetPending (s : State) : (s.recordUndefined).resetPending = s.resetPending := rfl
@[simp] theorem State.recordUndefined_mcheckPending (s : State) : (s.recordUndefined).mcheckPending = s.mcheckPending := rfl
@[simp] theorem State.recordUndefined_decPending (s : State) : (s.recordUndefined).decPending = s.decPending := rfl
@[simp] theorem State.recordUndefined_fpPending (s : State) : (s.recordUndefined).fpPending = s.fpPending := rfl
@[simp] theorem State.recordUndefined_tracePending (s : State) : (s.recordUndefined).tracePending = s.tracePending := rfl
@[simp] theorem State.recordUndefined_mem (s : State) : (s.recordUndefined).mem = s.mem := rfl
@[simp] theorem State.recordUndefined_staleInsn (s : State) : (s.recordUndefined).staleInsn = s.staleInsn := rfl
@[simp] theorem State.recordUndefined_icbiDone (s : State) : (s.recordUndefined).icbiDone = s.icbiDone := rfl
@[simp] theorem State.recordUndefined_stale (s : State) : (s.recordUndefined).stale = s.stale := rfl
@[simp] theorem State.recordUndefined_deviceOut (s : State) : (s.recordUndefined).deviceOut = s.deviceOut := rfl
@[simp] theorem State.recordUndefined_entered (s : State) : (s.recordUndefined).entered = s.entered := rfl
@[simp] theorem State.recordUndefined_env (s : State) : (s.recordUndefined).env = s.env := rfl
@[simp] theorem State.recordUndefined_getGpr (s : State) (q : BitVec 5) : (s.recordUndefined).getGpr q = s.getGpr q := rfl
@[simp] theorem State.recordUndefined_getFpr (s : State) (q : BitVec 5) : (s.recordUndefined).getFpr q = s.getFpr q := rfl
@[simp] theorem State.recordUndefined_isSingle (s : State) (q : BitVec 5) : (s.recordUndefined).isSingle q = s.isSingle q := rfl
@[simp] theorem State.recordUndefined_norm (s : State) (w : Dword) : (s.recordUndefined).norm w = s.norm w := rfl
@[simp] theorem State.recordUndefined_ea32 (s : State) (w : Dword) : (s.recordUndefined).ea32 w = s.ea32 w := rfl
@[simp] theorem State.recordUndefined_mode64 (s : State) : (s.recordUndefined).mode64 = s.mode64 := rfl
@[simp] theorem State.recordUndefined_so (s : State) : (s.recordUndefined).so = s.so := rfl
@[simp] theorem State.recordUndefined_ov (s : State) : (s.recordUndefined).ov = s.ov := rfl
@[simp] theorem State.recordUndefined_ca (s : State) : (s.recordUndefined).ca = s.ca := rfl
@[simp] theorem State.recordUndefined_fe (s : State) : (s.recordUndefined).fe = s.fe := rfl
@[simp] theorem State.recordUndefined_fpOn (s : State) : (s.recordUndefined).fpOn = s.fpOn := rfl
@[simp] theorem State.recordUndefined_pr (s : State) : (s.recordUndefined).pr = s.pr := rfl
@[simp] theorem State.recordUndefined_dr (s : State) : (s.recordUndefined).dr = s.dr := rfl
@[simp] theorem State.recordUndefined_blockOf (s : State) (a : Nat) : (s.recordUndefined).blockOf a = s.blockOf a := rfl

/-! ## recordCr1 -/

@[simp] theorem State.recordCr1_cfg (s : State) : (s.recordCr1).cfg = s.cfg := rfl
@[simp] theorem State.recordCr1_gpr (s : State) : (s.recordCr1).gpr = s.gpr := rfl
@[simp] theorem State.recordCr1_fpr (s : State) : (s.recordCr1).fpr = s.fpr := rfl
@[simp] theorem State.recordCr1_fprSingle (s : State) : (s.recordCr1).fprSingle = s.fprSingle := rfl
@[simp] theorem State.recordCr1_nia (s : State) : (s.recordCr1).nia = s.nia := rfl
@[simp] theorem State.recordCr1_xer (s : State) : (s.recordCr1).xer = s.xer := rfl
@[simp] theorem State.recordCr1_lr (s : State) : (s.recordCr1).lr = s.lr := rfl
@[simp] theorem State.recordCr1_ctr (s : State) : (s.recordCr1).ctr = s.ctr := rfl
@[simp] theorem State.recordCr1_msr (s : State) : (s.recordCr1).msr = s.msr := rfl
@[simp] theorem State.recordCr1_srr0 (s : State) : (s.recordCr1).srr0 = s.srr0 := rfl
@[simp] theorem State.recordCr1_srr1 (s : State) : (s.recordCr1).srr1 = s.srr1 := rfl
@[simp] theorem State.recordCr1_dsisr (s : State) : (s.recordCr1).dsisr = s.dsisr := rfl
@[simp] theorem State.recordCr1_dar (s : State) : (s.recordCr1).dar = s.dar := rfl
@[simp] theorem State.recordCr1_dec (s : State) : (s.recordCr1).dec = s.dec := rfl
@[simp] theorem State.recordCr1_tb (s : State) : (s.recordCr1).tb = s.tb := rfl
@[simp] theorem State.recordCr1_sdr1 (s : State) : (s.recordCr1).sdr1 = s.sdr1 := rfl
@[simp] theorem State.recordCr1_sprg (s : State) : (s.recordCr1).sprg = s.sprg := rfl
@[simp] theorem State.recordCr1_asr (s : State) : (s.recordCr1).asr = s.asr := rfl
@[simp] theorem State.recordCr1_ear (s : State) : (s.recordCr1).ear = s.ear := rfl
@[simp] theorem State.recordCr1_pvr (s : State) : (s.recordCr1).pvr = s.pvr := rfl
@[simp] theorem State.recordCr1_ibat (s : State) : (s.recordCr1).ibat = s.ibat := rfl
@[simp] theorem State.recordCr1_dbat (s : State) : (s.recordCr1).dbat = s.dbat := rfl
@[simp] theorem State.recordCr1_dabr (s : State) : (s.recordCr1).dabr = s.dabr := rfl
@[simp] theorem State.recordCr1_fpscr (s : State) : (s.recordCr1).fpscr = s.fpscr := rfl
@[simp] theorem State.recordCr1_sr (s : State) : (s.recordCr1).sr = s.sr := rfl
@[simp] theorem State.recordCr1_slb (s : State) : (s.recordCr1).slb = s.slb := rfl
@[simp] theorem State.recordCr1_tlb (s : State) : (s.recordCr1).tlb = s.tlb := rfl
@[simp] theorem State.recordCr1_reserve (s : State) : (s.recordCr1).reserve = s.reserve := rfl
@[simp] theorem State.recordCr1_reserveAddr (s : State) : (s.recordCr1).reserveAddr = s.reserveAddr := rfl
@[simp] theorem State.recordCr1_extInt (s : State) : (s.recordCr1).extInt = s.extInt := rfl
@[simp] theorem State.recordCr1_resetPending (s : State) : (s.recordCr1).resetPending = s.resetPending := rfl
@[simp] theorem State.recordCr1_mcheckPending (s : State) : (s.recordCr1).mcheckPending = s.mcheckPending := rfl
@[simp] theorem State.recordCr1_decPending (s : State) : (s.recordCr1).decPending = s.decPending := rfl
@[simp] theorem State.recordCr1_fpPending (s : State) : (s.recordCr1).fpPending = s.fpPending := rfl
@[simp] theorem State.recordCr1_tracePending (s : State) : (s.recordCr1).tracePending = s.tracePending := rfl
@[simp] theorem State.recordCr1_mem (s : State) : (s.recordCr1).mem = s.mem := rfl
@[simp] theorem State.recordCr1_staleInsn (s : State) : (s.recordCr1).staleInsn = s.staleInsn := rfl
@[simp] theorem State.recordCr1_icbiDone (s : State) : (s.recordCr1).icbiDone = s.icbiDone := rfl
@[simp] theorem State.recordCr1_stale (s : State) : (s.recordCr1).stale = s.stale := rfl
@[simp] theorem State.recordCr1_deviceOut (s : State) : (s.recordCr1).deviceOut = s.deviceOut := rfl
@[simp] theorem State.recordCr1_entered (s : State) : (s.recordCr1).entered = s.entered := rfl
@[simp] theorem State.recordCr1_env (s : State) : (s.recordCr1).env = s.env := rfl
@[simp] theorem State.recordCr1_draws (s : State) : (s.recordCr1).draws = s.draws := rfl
@[simp] theorem State.recordCr1_getGpr (s : State) (q : BitVec 5) : (s.recordCr1).getGpr q = s.getGpr q := rfl
@[simp] theorem State.recordCr1_getFpr (s : State) (q : BitVec 5) : (s.recordCr1).getFpr q = s.getFpr q := rfl
@[simp] theorem State.recordCr1_isSingle (s : State) (q : BitVec 5) : (s.recordCr1).isSingle q = s.isSingle q := rfl
@[simp] theorem State.recordCr1_norm (s : State) (w : Dword) : (s.recordCr1).norm w = s.norm w := rfl
@[simp] theorem State.recordCr1_ea32 (s : State) (w : Dword) : (s.recordCr1).ea32 w = s.ea32 w := rfl
@[simp] theorem State.recordCr1_mode64 (s : State) : (s.recordCr1).mode64 = s.mode64 := rfl
@[simp] theorem State.recordCr1_so (s : State) : (s.recordCr1).so = s.so := rfl
@[simp] theorem State.recordCr1_ov (s : State) : (s.recordCr1).ov = s.ov := rfl
@[simp] theorem State.recordCr1_ca (s : State) : (s.recordCr1).ca = s.ca := rfl
@[simp] theorem State.recordCr1_fe (s : State) : (s.recordCr1).fe = s.fe := rfl
@[simp] theorem State.recordCr1_fpOn (s : State) : (s.recordCr1).fpOn = s.fpOn := rfl
@[simp] theorem State.recordCr1_pr (s : State) : (s.recordCr1).pr = s.pr := rfl
@[simp] theorem State.recordCr1_dr (s : State) : (s.recordCr1).dr = s.dr := rfl
@[simp] theorem State.recordCr1_blockOf (s : State) (a : Nat) : (s.recordCr1).blockOf a = s.blockOf a := rfl

/-! ## setFpscr -/

@[simp] theorem State.setFpscr_cfg (s : State) (v : Word) : (s.setFpscr v).cfg = s.cfg := rfl
@[simp] theorem State.setFpscr_gpr (s : State) (v : Word) : (s.setFpscr v).gpr = s.gpr := rfl
@[simp] theorem State.setFpscr_fpr (s : State) (v : Word) : (s.setFpscr v).fpr = s.fpr := rfl
@[simp] theorem State.setFpscr_fprSingle (s : State) (v : Word) : (s.setFpscr v).fprSingle = s.fprSingle := rfl
@[simp] theorem State.setFpscr_nia (s : State) (v : Word) : (s.setFpscr v).nia = s.nia := rfl
@[simp] theorem State.setFpscr_cr (s : State) (v : Word) : (s.setFpscr v).cr = s.cr := rfl
@[simp] theorem State.setFpscr_xer (s : State) (v : Word) : (s.setFpscr v).xer = s.xer := rfl
@[simp] theorem State.setFpscr_lr (s : State) (v : Word) : (s.setFpscr v).lr = s.lr := rfl
@[simp] theorem State.setFpscr_ctr (s : State) (v : Word) : (s.setFpscr v).ctr = s.ctr := rfl
@[simp] theorem State.setFpscr_msr (s : State) (v : Word) : (s.setFpscr v).msr = s.msr := rfl
@[simp] theorem State.setFpscr_srr0 (s : State) (v : Word) : (s.setFpscr v).srr0 = s.srr0 := rfl
@[simp] theorem State.setFpscr_srr1 (s : State) (v : Word) : (s.setFpscr v).srr1 = s.srr1 := rfl
@[simp] theorem State.setFpscr_dsisr (s : State) (v : Word) : (s.setFpscr v).dsisr = s.dsisr := rfl
@[simp] theorem State.setFpscr_dar (s : State) (v : Word) : (s.setFpscr v).dar = s.dar := rfl
@[simp] theorem State.setFpscr_dec (s : State) (v : Word) : (s.setFpscr v).dec = s.dec := rfl
@[simp] theorem State.setFpscr_tb (s : State) (v : Word) : (s.setFpscr v).tb = s.tb := rfl
@[simp] theorem State.setFpscr_sdr1 (s : State) (v : Word) : (s.setFpscr v).sdr1 = s.sdr1 := rfl
@[simp] theorem State.setFpscr_sprg (s : State) (v : Word) : (s.setFpscr v).sprg = s.sprg := rfl
@[simp] theorem State.setFpscr_asr (s : State) (v : Word) : (s.setFpscr v).asr = s.asr := rfl
@[simp] theorem State.setFpscr_ear (s : State) (v : Word) : (s.setFpscr v).ear = s.ear := rfl
@[simp] theorem State.setFpscr_pvr (s : State) (v : Word) : (s.setFpscr v).pvr = s.pvr := rfl
@[simp] theorem State.setFpscr_ibat (s : State) (v : Word) : (s.setFpscr v).ibat = s.ibat := rfl
@[simp] theorem State.setFpscr_dbat (s : State) (v : Word) : (s.setFpscr v).dbat = s.dbat := rfl
@[simp] theorem State.setFpscr_dabr (s : State) (v : Word) : (s.setFpscr v).dabr = s.dabr := rfl
@[simp] theorem State.setFpscr_sr (s : State) (v : Word) : (s.setFpscr v).sr = s.sr := rfl
@[simp] theorem State.setFpscr_slb (s : State) (v : Word) : (s.setFpscr v).slb = s.slb := rfl
@[simp] theorem State.setFpscr_tlb (s : State) (v : Word) : (s.setFpscr v).tlb = s.tlb := rfl
@[simp] theorem State.setFpscr_reserve (s : State) (v : Word) : (s.setFpscr v).reserve = s.reserve := rfl
@[simp] theorem State.setFpscr_reserveAddr (s : State) (v : Word) : (s.setFpscr v).reserveAddr = s.reserveAddr := rfl
@[simp] theorem State.setFpscr_extInt (s : State) (v : Word) : (s.setFpscr v).extInt = s.extInt := rfl
@[simp] theorem State.setFpscr_resetPending (s : State) (v : Word) : (s.setFpscr v).resetPending = s.resetPending := rfl
@[simp] theorem State.setFpscr_mcheckPending (s : State) (v : Word) : (s.setFpscr v).mcheckPending = s.mcheckPending := rfl
@[simp] theorem State.setFpscr_decPending (s : State) (v : Word) : (s.setFpscr v).decPending = s.decPending := rfl
@[simp] theorem State.setFpscr_fpPending (s : State) (v : Word) : (s.setFpscr v).fpPending = s.fpPending := rfl
@[simp] theorem State.setFpscr_tracePending (s : State) (v : Word) : (s.setFpscr v).tracePending = s.tracePending := rfl
@[simp] theorem State.setFpscr_mem (s : State) (v : Word) : (s.setFpscr v).mem = s.mem := rfl
@[simp] theorem State.setFpscr_staleInsn (s : State) (v : Word) : (s.setFpscr v).staleInsn = s.staleInsn := rfl
@[simp] theorem State.setFpscr_icbiDone (s : State) (v : Word) : (s.setFpscr v).icbiDone = s.icbiDone := rfl
@[simp] theorem State.setFpscr_stale (s : State) (v : Word) : (s.setFpscr v).stale = s.stale := rfl
@[simp] theorem State.setFpscr_deviceOut (s : State) (v : Word) : (s.setFpscr v).deviceOut = s.deviceOut := rfl
@[simp] theorem State.setFpscr_entered (s : State) (v : Word) : (s.setFpscr v).entered = s.entered := rfl
@[simp] theorem State.setFpscr_env (s : State) (v : Word) : (s.setFpscr v).env = s.env := rfl
@[simp] theorem State.setFpscr_draws (s : State) (v : Word) : (s.setFpscr v).draws = s.draws := rfl
@[simp] theorem State.setFpscr_getGpr (s : State) (v : Word) (q : BitVec 5) : (s.setFpscr v).getGpr q = s.getGpr q := rfl
@[simp] theorem State.setFpscr_getFpr (s : State) (v : Word) (q : BitVec 5) : (s.setFpscr v).getFpr q = s.getFpr q := rfl
@[simp] theorem State.setFpscr_isSingle (s : State) (v : Word) (q : BitVec 5) : (s.setFpscr v).isSingle q = s.isSingle q := rfl
@[simp] theorem State.setFpscr_norm (s : State) (v : Word) (w : Dword) : (s.setFpscr v).norm w = s.norm w := rfl
@[simp] theorem State.setFpscr_ea32 (s : State) (v : Word) (w : Dword) : (s.setFpscr v).ea32 w = s.ea32 w := rfl
@[simp] theorem State.setFpscr_mode64 (s : State) (v : Word) : (s.setFpscr v).mode64 = s.mode64 := rfl
@[simp] theorem State.setFpscr_so (s : State) (v : Word) : (s.setFpscr v).so = s.so := rfl
@[simp] theorem State.setFpscr_ov (s : State) (v : Word) : (s.setFpscr v).ov = s.ov := rfl
@[simp] theorem State.setFpscr_ca (s : State) (v : Word) : (s.setFpscr v).ca = s.ca := rfl
@[simp] theorem State.setFpscr_fe (s : State) (v : Word) : (s.setFpscr v).fe = s.fe := rfl
@[simp] theorem State.setFpscr_fpOn (s : State) (v : Word) : (s.setFpscr v).fpOn = s.fpOn := rfl
@[simp] theorem State.setFpscr_pr (s : State) (v : Word) : (s.setFpscr v).pr = s.pr := rfl
@[simp] theorem State.setFpscr_dr (s : State) (v : Word) : (s.setFpscr v).dr = s.dr := rfl
@[simp] theorem State.setFpscr_crField (s : State) (v : Word) (k : BitVec 3) : (s.setFpscr v).crField k = s.crField k := rfl
@[simp] theorem State.setFpscr_crBit (s : State) (v : Word) (k : BitVec 5) : (s.setFpscr v).crBit k = s.crBit k := rfl
@[simp] theorem State.setFpscr_blockOf (s : State) (v : Word) (a : Nat) : (s.setFpscr v).blockOf a = s.blockOf a := rfl

/-! ## contextSync -/

@[simp] theorem State.contextSync_cfg (s : State) : (s.contextSync).cfg = s.cfg := rfl
@[simp] theorem State.contextSync_gpr (s : State) : (s.contextSync).gpr = s.gpr := rfl
@[simp] theorem State.contextSync_fpr (s : State) : (s.contextSync).fpr = s.fpr := rfl
@[simp] theorem State.contextSync_fprSingle (s : State) : (s.contextSync).fprSingle = s.fprSingle := rfl
@[simp] theorem State.contextSync_nia (s : State) : (s.contextSync).nia = s.nia := rfl
@[simp] theorem State.contextSync_cr (s : State) : (s.contextSync).cr = s.cr := rfl
@[simp] theorem State.contextSync_xer (s : State) : (s.contextSync).xer = s.xer := rfl
@[simp] theorem State.contextSync_lr (s : State) : (s.contextSync).lr = s.lr := rfl
@[simp] theorem State.contextSync_ctr (s : State) : (s.contextSync).ctr = s.ctr := rfl
@[simp] theorem State.contextSync_msr (s : State) : (s.contextSync).msr = s.msr := rfl
@[simp] theorem State.contextSync_srr0 (s : State) : (s.contextSync).srr0 = s.srr0 := rfl
@[simp] theorem State.contextSync_srr1 (s : State) : (s.contextSync).srr1 = s.srr1 := rfl
@[simp] theorem State.contextSync_dsisr (s : State) : (s.contextSync).dsisr = s.dsisr := rfl
@[simp] theorem State.contextSync_dar (s : State) : (s.contextSync).dar = s.dar := rfl
@[simp] theorem State.contextSync_dec (s : State) : (s.contextSync).dec = s.dec := rfl
@[simp] theorem State.contextSync_tb (s : State) : (s.contextSync).tb = s.tb := rfl
@[simp] theorem State.contextSync_sdr1 (s : State) : (s.contextSync).sdr1 = s.sdr1 := rfl
@[simp] theorem State.contextSync_sprg (s : State) : (s.contextSync).sprg = s.sprg := rfl
@[simp] theorem State.contextSync_asr (s : State) : (s.contextSync).asr = s.asr := rfl
@[simp] theorem State.contextSync_ear (s : State) : (s.contextSync).ear = s.ear := rfl
@[simp] theorem State.contextSync_pvr (s : State) : (s.contextSync).pvr = s.pvr := rfl
@[simp] theorem State.contextSync_ibat (s : State) : (s.contextSync).ibat = s.ibat := rfl
@[simp] theorem State.contextSync_dbat (s : State) : (s.contextSync).dbat = s.dbat := rfl
@[simp] theorem State.contextSync_dabr (s : State) : (s.contextSync).dabr = s.dabr := rfl
@[simp] theorem State.contextSync_fpscr (s : State) : (s.contextSync).fpscr = s.fpscr := rfl
@[simp] theorem State.contextSync_sr (s : State) : (s.contextSync).sr = s.sr := rfl
@[simp] theorem State.contextSync_slb (s : State) : (s.contextSync).slb = s.slb := rfl
@[simp] theorem State.contextSync_tlb (s : State) : (s.contextSync).tlb = s.tlb := rfl
@[simp] theorem State.contextSync_reserve (s : State) : (s.contextSync).reserve = s.reserve := rfl
@[simp] theorem State.contextSync_reserveAddr (s : State) : (s.contextSync).reserveAddr = s.reserveAddr := rfl
@[simp] theorem State.contextSync_extInt (s : State) : (s.contextSync).extInt = s.extInt := rfl
@[simp] theorem State.contextSync_resetPending (s : State) : (s.contextSync).resetPending = s.resetPending := rfl
@[simp] theorem State.contextSync_mcheckPending (s : State) : (s.contextSync).mcheckPending = s.mcheckPending := rfl
@[simp] theorem State.contextSync_decPending (s : State) : (s.contextSync).decPending = s.decPending := rfl
@[simp] theorem State.contextSync_fpPending (s : State) : (s.contextSync).fpPending = s.fpPending := rfl
@[simp] theorem State.contextSync_tracePending (s : State) : (s.contextSync).tracePending = s.tracePending := rfl
@[simp] theorem State.contextSync_mem (s : State) : (s.contextSync).mem = s.mem := rfl
@[simp] theorem State.contextSync_deviceOut (s : State) : (s.contextSync).deviceOut = s.deviceOut := rfl
@[simp] theorem State.contextSync_entered (s : State) : (s.contextSync).entered = s.entered := rfl
@[simp] theorem State.contextSync_env (s : State) : (s.contextSync).env = s.env := rfl
@[simp] theorem State.contextSync_draws (s : State) : (s.contextSync).draws = s.draws := rfl
@[simp] theorem State.contextSync_getGpr (s : State) (q : BitVec 5) : (s.contextSync).getGpr q = s.getGpr q := rfl
@[simp] theorem State.contextSync_getFpr (s : State) (q : BitVec 5) : (s.contextSync).getFpr q = s.getFpr q := rfl
@[simp] theorem State.contextSync_isSingle (s : State) (q : BitVec 5) : (s.contextSync).isSingle q = s.isSingle q := rfl
@[simp] theorem State.contextSync_norm (s : State) (w : Dword) : (s.contextSync).norm w = s.norm w := rfl
@[simp] theorem State.contextSync_ea32 (s : State) (w : Dword) : (s.contextSync).ea32 w = s.ea32 w := rfl
@[simp] theorem State.contextSync_mode64 (s : State) : (s.contextSync).mode64 = s.mode64 := rfl
@[simp] theorem State.contextSync_so (s : State) : (s.contextSync).so = s.so := rfl
@[simp] theorem State.contextSync_ov (s : State) : (s.contextSync).ov = s.ov := rfl
@[simp] theorem State.contextSync_ca (s : State) : (s.contextSync).ca = s.ca := rfl
@[simp] theorem State.contextSync_fe (s : State) : (s.contextSync).fe = s.fe := rfl
@[simp] theorem State.contextSync_fpOn (s : State) : (s.contextSync).fpOn = s.fpOn := rfl
@[simp] theorem State.contextSync_pr (s : State) : (s.contextSync).pr = s.pr := rfl
@[simp] theorem State.contextSync_dr (s : State) : (s.contextSync).dr = s.dr := rfl
@[simp] theorem State.contextSync_crField (s : State) (k : BitVec 3) : (s.contextSync).crField k = s.crField k := rfl
@[simp] theorem State.contextSync_crBit (s : State) (k : BitVec 5) : (s.contextSync).crBit k = s.crBit k := rfl
@[simp] theorem State.contextSync_blockOf (s : State) (a : Nat) : (s.contextSync).blockOf a = s.blockOf a := rfl

/-! ## fill -/

@[simp] theorem State.fill_cfg (s : State) (x : Xlate) : (s.fill x).cfg = s.cfg := rfl
@[simp] theorem State.fill_gpr (s : State) (x : Xlate) : (s.fill x).gpr = s.gpr := rfl
@[simp] theorem State.fill_fpr (s : State) (x : Xlate) : (s.fill x).fpr = s.fpr := rfl
@[simp] theorem State.fill_fprSingle (s : State) (x : Xlate) : (s.fill x).fprSingle = s.fprSingle := rfl
@[simp] theorem State.fill_nia (s : State) (x : Xlate) : (s.fill x).nia = s.nia := rfl
@[simp] theorem State.fill_cr (s : State) (x : Xlate) : (s.fill x).cr = s.cr := rfl
@[simp] theorem State.fill_xer (s : State) (x : Xlate) : (s.fill x).xer = s.xer := rfl
@[simp] theorem State.fill_lr (s : State) (x : Xlate) : (s.fill x).lr = s.lr := rfl
@[simp] theorem State.fill_ctr (s : State) (x : Xlate) : (s.fill x).ctr = s.ctr := rfl
@[simp] theorem State.fill_msr (s : State) (x : Xlate) : (s.fill x).msr = s.msr := rfl
@[simp] theorem State.fill_srr0 (s : State) (x : Xlate) : (s.fill x).srr0 = s.srr0 := rfl
@[simp] theorem State.fill_srr1 (s : State) (x : Xlate) : (s.fill x).srr1 = s.srr1 := rfl
@[simp] theorem State.fill_dsisr (s : State) (x : Xlate) : (s.fill x).dsisr = s.dsisr := rfl
@[simp] theorem State.fill_dar (s : State) (x : Xlate) : (s.fill x).dar = s.dar := rfl
@[simp] theorem State.fill_dec (s : State) (x : Xlate) : (s.fill x).dec = s.dec := rfl
@[simp] theorem State.fill_tb (s : State) (x : Xlate) : (s.fill x).tb = s.tb := rfl
@[simp] theorem State.fill_sdr1 (s : State) (x : Xlate) : (s.fill x).sdr1 = s.sdr1 := rfl
@[simp] theorem State.fill_sprg (s : State) (x : Xlate) : (s.fill x).sprg = s.sprg := rfl
@[simp] theorem State.fill_asr (s : State) (x : Xlate) : (s.fill x).asr = s.asr := rfl
@[simp] theorem State.fill_ear (s : State) (x : Xlate) : (s.fill x).ear = s.ear := rfl
@[simp] theorem State.fill_pvr (s : State) (x : Xlate) : (s.fill x).pvr = s.pvr := rfl
@[simp] theorem State.fill_ibat (s : State) (x : Xlate) : (s.fill x).ibat = s.ibat := rfl
@[simp] theorem State.fill_dbat (s : State) (x : Xlate) : (s.fill x).dbat = s.dbat := rfl
@[simp] theorem State.fill_dabr (s : State) (x : Xlate) : (s.fill x).dabr = s.dabr := rfl
@[simp] theorem State.fill_fpscr (s : State) (x : Xlate) : (s.fill x).fpscr = s.fpscr := rfl
@[simp] theorem State.fill_sr (s : State) (x : Xlate) : (s.fill x).sr = s.sr := rfl
@[simp] theorem State.fill_reserve (s : State) (x : Xlate) : (s.fill x).reserve = s.reserve := rfl
@[simp] theorem State.fill_reserveAddr (s : State) (x : Xlate) : (s.fill x).reserveAddr = s.reserveAddr := rfl
@[simp] theorem State.fill_extInt (s : State) (x : Xlate) : (s.fill x).extInt = s.extInt := rfl
@[simp] theorem State.fill_resetPending (s : State) (x : Xlate) : (s.fill x).resetPending = s.resetPending := rfl
@[simp] theorem State.fill_mcheckPending (s : State) (x : Xlate) : (s.fill x).mcheckPending = s.mcheckPending := rfl
@[simp] theorem State.fill_decPending (s : State) (x : Xlate) : (s.fill x).decPending = s.decPending := rfl
@[simp] theorem State.fill_fpPending (s : State) (x : Xlate) : (s.fill x).fpPending = s.fpPending := rfl
@[simp] theorem State.fill_tracePending (s : State) (x : Xlate) : (s.fill x).tracePending = s.tracePending := rfl
@[simp] theorem State.fill_mem (s : State) (x : Xlate) : (s.fill x).mem = s.mem := rfl
@[simp] theorem State.fill_staleInsn (s : State) (x : Xlate) : (s.fill x).staleInsn = s.staleInsn := rfl
@[simp] theorem State.fill_icbiDone (s : State) (x : Xlate) : (s.fill x).icbiDone = s.icbiDone := rfl
@[simp] theorem State.fill_stale (s : State) (x : Xlate) : (s.fill x).stale = s.stale := rfl
@[simp] theorem State.fill_deviceOut (s : State) (x : Xlate) : (s.fill x).deviceOut = s.deviceOut := rfl
@[simp] theorem State.fill_entered (s : State) (x : Xlate) : (s.fill x).entered = s.entered := rfl
@[simp] theorem State.fill_env (s : State) (x : Xlate) : (s.fill x).env = s.env := rfl
@[simp] theorem State.fill_draws (s : State) (x : Xlate) : (s.fill x).draws = s.draws := rfl
@[simp] theorem State.fill_getGpr (s : State) (x : Xlate) (q : BitVec 5) : (s.fill x).getGpr q = s.getGpr q := rfl
@[simp] theorem State.fill_getFpr (s : State) (x : Xlate) (q : BitVec 5) : (s.fill x).getFpr q = s.getFpr q := rfl
@[simp] theorem State.fill_isSingle (s : State) (x : Xlate) (q : BitVec 5) : (s.fill x).isSingle q = s.isSingle q := rfl
@[simp] theorem State.fill_norm (s : State) (x : Xlate) (w : Dword) : (s.fill x).norm w = s.norm w := rfl
@[simp] theorem State.fill_ea32 (s : State) (x : Xlate) (w : Dword) : (s.fill x).ea32 w = s.ea32 w := rfl
@[simp] theorem State.fill_mode64 (s : State) (x : Xlate) : (s.fill x).mode64 = s.mode64 := rfl
@[simp] theorem State.fill_so (s : State) (x : Xlate) : (s.fill x).so = s.so := rfl
@[simp] theorem State.fill_ov (s : State) (x : Xlate) : (s.fill x).ov = s.ov := rfl
@[simp] theorem State.fill_ca (s : State) (x : Xlate) : (s.fill x).ca = s.ca := rfl
@[simp] theorem State.fill_fe (s : State) (x : Xlate) : (s.fill x).fe = s.fe := rfl
@[simp] theorem State.fill_fpOn (s : State) (x : Xlate) : (s.fill x).fpOn = s.fpOn := rfl
@[simp] theorem State.fill_pr (s : State) (x : Xlate) : (s.fill x).pr = s.pr := rfl
@[simp] theorem State.fill_dr (s : State) (x : Xlate) : (s.fill x).dr = s.dr := rfl
@[simp] theorem State.fill_crField (s : State) (x : Xlate) (k : BitVec 3) : (s.fill x).crField k = s.crField k := rfl
@[simp] theorem State.fill_crBit (s : State) (x : Xlate) (k : BitVec 5) : (s.fill x).crBit k = s.crBit k := rfl
@[simp] theorem State.fill_blockOf (s : State) (x : Xlate) (a : Nat) : (s.fill x).blockOf a = s.blockOf a := rfl

/-! ## storeByte -/

@[simp] theorem State.storeByte_cfg (s : State) (p : Nat) (b : Byte) : (s.storeByte p b).cfg = s.cfg := rfl
@[simp] theorem State.storeByte_gpr (s : State) (p : Nat) (b : Byte) : (s.storeByte p b).gpr = s.gpr := rfl
@[simp] theorem State.storeByte_fpr (s : State) (p : Nat) (b : Byte) : (s.storeByte p b).fpr = s.fpr := rfl
@[simp] theorem State.storeByte_fprSingle (s : State) (p : Nat) (b : Byte) : (s.storeByte p b).fprSingle = s.fprSingle := rfl
@[simp] theorem State.storeByte_nia (s : State) (p : Nat) (b : Byte) : (s.storeByte p b).nia = s.nia := rfl
@[simp] theorem State.storeByte_cr (s : State) (p : Nat) (b : Byte) : (s.storeByte p b).cr = s.cr := rfl
@[simp] theorem State.storeByte_xer (s : State) (p : Nat) (b : Byte) : (s.storeByte p b).xer = s.xer := rfl
@[simp] theorem State.storeByte_lr (s : State) (p : Nat) (b : Byte) : (s.storeByte p b).lr = s.lr := rfl
@[simp] theorem State.storeByte_ctr (s : State) (p : Nat) (b : Byte) : (s.storeByte p b).ctr = s.ctr := rfl
@[simp] theorem State.storeByte_msr (s : State) (p : Nat) (b : Byte) : (s.storeByte p b).msr = s.msr := rfl
@[simp] theorem State.storeByte_srr0 (s : State) (p : Nat) (b : Byte) : (s.storeByte p b).srr0 = s.srr0 := rfl
@[simp] theorem State.storeByte_srr1 (s : State) (p : Nat) (b : Byte) : (s.storeByte p b).srr1 = s.srr1 := rfl
@[simp] theorem State.storeByte_dsisr (s : State) (p : Nat) (b : Byte) : (s.storeByte p b).dsisr = s.dsisr := rfl
@[simp] theorem State.storeByte_dar (s : State) (p : Nat) (b : Byte) : (s.storeByte p b).dar = s.dar := rfl
@[simp] theorem State.storeByte_dec (s : State) (p : Nat) (b : Byte) : (s.storeByte p b).dec = s.dec := rfl
@[simp] theorem State.storeByte_tb (s : State) (p : Nat) (b : Byte) : (s.storeByte p b).tb = s.tb := rfl
@[simp] theorem State.storeByte_sdr1 (s : State) (p : Nat) (b : Byte) : (s.storeByte p b).sdr1 = s.sdr1 := rfl
@[simp] theorem State.storeByte_sprg (s : State) (p : Nat) (b : Byte) : (s.storeByte p b).sprg = s.sprg := rfl
@[simp] theorem State.storeByte_asr (s : State) (p : Nat) (b : Byte) : (s.storeByte p b).asr = s.asr := rfl
@[simp] theorem State.storeByte_ear (s : State) (p : Nat) (b : Byte) : (s.storeByte p b).ear = s.ear := rfl
@[simp] theorem State.storeByte_pvr (s : State) (p : Nat) (b : Byte) : (s.storeByte p b).pvr = s.pvr := rfl
@[simp] theorem State.storeByte_ibat (s : State) (p : Nat) (b : Byte) : (s.storeByte p b).ibat = s.ibat := rfl
@[simp] theorem State.storeByte_dbat (s : State) (p : Nat) (b : Byte) : (s.storeByte p b).dbat = s.dbat := rfl
@[simp] theorem State.storeByte_dabr (s : State) (p : Nat) (b : Byte) : (s.storeByte p b).dabr = s.dabr := rfl
@[simp] theorem State.storeByte_fpscr (s : State) (p : Nat) (b : Byte) : (s.storeByte p b).fpscr = s.fpscr := rfl
@[simp] theorem State.storeByte_sr (s : State) (p : Nat) (b : Byte) : (s.storeByte p b).sr = s.sr := rfl
@[simp] theorem State.storeByte_slb (s : State) (p : Nat) (b : Byte) : (s.storeByte p b).slb = s.slb := rfl
@[simp] theorem State.storeByte_tlb (s : State) (p : Nat) (b : Byte) : (s.storeByte p b).tlb = s.tlb := rfl
@[simp] theorem State.storeByte_reserve (s : State) (p : Nat) (b : Byte) : (s.storeByte p b).reserve = s.reserve := rfl
@[simp] theorem State.storeByte_reserveAddr (s : State) (p : Nat) (b : Byte) : (s.storeByte p b).reserveAddr = s.reserveAddr := rfl
@[simp] theorem State.storeByte_extInt (s : State) (p : Nat) (b : Byte) : (s.storeByte p b).extInt = s.extInt := rfl
@[simp] theorem State.storeByte_resetPending (s : State) (p : Nat) (b : Byte) : (s.storeByte p b).resetPending = s.resetPending := rfl
@[simp] theorem State.storeByte_mcheckPending (s : State) (p : Nat) (b : Byte) : (s.storeByte p b).mcheckPending = s.mcheckPending := rfl
@[simp] theorem State.storeByte_decPending (s : State) (p : Nat) (b : Byte) : (s.storeByte p b).decPending = s.decPending := rfl
@[simp] theorem State.storeByte_fpPending (s : State) (p : Nat) (b : Byte) : (s.storeByte p b).fpPending = s.fpPending := rfl
@[simp] theorem State.storeByte_tracePending (s : State) (p : Nat) (b : Byte) : (s.storeByte p b).tracePending = s.tracePending := rfl
@[simp] theorem State.storeByte_stale (s : State) (p : Nat) (b : Byte) : (s.storeByte p b).stale = s.stale := rfl
@[simp] theorem State.storeByte_deviceOut (s : State) (p : Nat) (b : Byte) : (s.storeByte p b).deviceOut = s.deviceOut := rfl
@[simp] theorem State.storeByte_entered (s : State) (p : Nat) (b : Byte) : (s.storeByte p b).entered = s.entered := rfl
@[simp] theorem State.storeByte_env (s : State) (p : Nat) (b : Byte) : (s.storeByte p b).env = s.env := rfl
@[simp] theorem State.storeByte_draws (s : State) (p : Nat) (b : Byte) : (s.storeByte p b).draws = s.draws := rfl
@[simp] theorem State.storeByte_getGpr (s : State) (p : Nat) (b : Byte) (q : BitVec 5) : (s.storeByte p b).getGpr q = s.getGpr q := rfl
@[simp] theorem State.storeByte_getFpr (s : State) (p : Nat) (b : Byte) (q : BitVec 5) : (s.storeByte p b).getFpr q = s.getFpr q := rfl
@[simp] theorem State.storeByte_isSingle (s : State) (p : Nat) (b : Byte) (q : BitVec 5) : (s.storeByte p b).isSingle q = s.isSingle q := rfl
@[simp] theorem State.storeByte_norm (s : State) (p : Nat) (b : Byte) (w : Dword) : (s.storeByte p b).norm w = s.norm w := rfl
@[simp] theorem State.storeByte_ea32 (s : State) (p : Nat) (b : Byte) (w : Dword) : (s.storeByte p b).ea32 w = s.ea32 w := rfl
@[simp] theorem State.storeByte_mode64 (s : State) (p : Nat) (b : Byte) : (s.storeByte p b).mode64 = s.mode64 := rfl
@[simp] theorem State.storeByte_so (s : State) (p : Nat) (b : Byte) : (s.storeByte p b).so = s.so := rfl
@[simp] theorem State.storeByte_ov (s : State) (p : Nat) (b : Byte) : (s.storeByte p b).ov = s.ov := rfl
@[simp] theorem State.storeByte_ca (s : State) (p : Nat) (b : Byte) : (s.storeByte p b).ca = s.ca := rfl
@[simp] theorem State.storeByte_fe (s : State) (p : Nat) (b : Byte) : (s.storeByte p b).fe = s.fe := rfl
@[simp] theorem State.storeByte_fpOn (s : State) (p : Nat) (b : Byte) : (s.storeByte p b).fpOn = s.fpOn := rfl
@[simp] theorem State.storeByte_pr (s : State) (p : Nat) (b : Byte) : (s.storeByte p b).pr = s.pr := rfl
@[simp] theorem State.storeByte_dr (s : State) (p : Nat) (b : Byte) : (s.storeByte p b).dr = s.dr := rfl
@[simp] theorem State.storeByte_crField (s : State) (p : Nat) (b : Byte) (k : BitVec 3) : (s.storeByte p b).crField k = s.crField k := rfl
@[simp] theorem State.storeByte_crBit (s : State) (p : Nat) (b : Byte) (k : BitVec 5) : (s.storeByte p b).crBit k = s.crBit k := rfl
@[simp] theorem State.storeByte_blockOf (s : State) (p : Nat) (b : Byte) (a : Nat) : (s.storeByte p b).blockOf a = s.blockOf a := rfl

/-! ## What the updates write -/

@[simp] theorem State.setNia_nia (s : State) (v : Dword) : (s.setNia v).nia = s.ea32 v &&& ~~~ 3 := rfl
@[simp] theorem State.advance_nia (s : State) : s.advance.nia = s.ea32 (s.nia + 4) &&& ~~~ 3 := rfl
@[simp] theorem State.setLr_lr (s : State) (v : Dword) : (s.setLr v).lr = s.norm v := rfl
@[simp] theorem State.setCtr_ctr (s : State) (v : Dword) : (s.setCtr v).ctr = s.norm v := rfl
@[simp] theorem State.setMsr_msr (s : State) (v : Dword) : (s.setMsr v).msr = s.norm v := rfl
@[simp] theorem State.drew_draws (s : State) : s.drew.draws = s.draws + 1 := rfl
@[simp] theorem State.setFpscr_fpscr (s : State) (v : Word) : (s.setFpscr v).fpscr = fpscrSummary v := rfl
@[simp] theorem State.storeByte_mem (s : State) (p : Nat) (b : Byte) : (s.storeByte p b).mem = s.mem.write p b := rfl
@[simp] theorem State.storeByte_staleInsn (s : State) (p : Nat) (b : Byte) : (s.storeByte p b).staleInsn = addNew (s.blockOf p) s.staleInsn := rfl
@[simp] theorem State.storeByte_icbiDone (s : State) (p : Nat) (b : Byte) : (s.storeByte p b).icbiDone = s.icbiDone.filter (fun n => n != s.blockOf p) := rfl
@[simp] theorem State.contextSync_stale (s : State) : s.contextSync.stale = StaleMarks.none := rfl
@[simp] theorem State.contextSync_icbiDone (s : State) : s.contextSync.icbiDone = [] := rfl

/-- An element of a vector after a write. -/
theorem vector_get_set {α : Type} {n : Nat} (v : Vector α n) (i j : Fin n) (x : α) :
    (v.set i.val x i.isLt).get j = if j = i then x else v.get j := by
  have e : ∀ (w : Vector α n) (k : Fin n), w.get k = w[k.val]'k.isLt := fun _ _ => rfl
  rw [e, e, Vector.getElem_set]
  by_cases h : j = i
  · simp [h]
  · simp [h, Fin.val_ne_of_ne (Ne.symm h)]

/-- An element of a register file after a write, by register numbers. -/
theorem file_get_set {α : Type} (v : Vector α 32) (q r : BitVec 5) (x : α) :
    (v.set r.toFin.val x r.toFin.isLt).get q.toFin = if q = r then x else v.get q.toFin := by
  refine (vector_get_set v r.toFin q.toFin x).trans ?_
  by_cases h : q = r
  · rw [if_pos h, if_pos (congrArg BitVec.toFin h)]
  · rw [if_neg h, if_neg (fun e => h (BitVec.eq_of_toFin_eq e))]

/-- A general register after a write. -/
@[simp] theorem State.setGpr_getGpr (s : State) (r q : BitVec 5) (v : Dword) :
    (s.setGpr r v).getGpr q = if q = r then s.norm v else s.getGpr q :=
  file_get_set s.gpr q r (s.norm v)

/-- A floating-point register after a write. -/
@[simp] theorem State.setFpr_getFpr (s : State) (r q : BitVec 5) (v : Dword) (b : Bool) :
    (s.setFpr r v b).getFpr q = if q = r then v else s.getFpr q :=
  file_get_set s.fpr q r v

/-- A single-origin tag after a write. -/
@[simp] theorem State.setFpr_isSingle (s : State) (r q : BitVec 5) (v : Dword) (b : Bool) :
    (s.setFpr r v b).isSingle q = if q = r then b else s.isSingle q :=
  file_get_set s.fprSingle q r b

end Sys2Proof.Machine
end

