-- ==== Sys2Proof/Laws/Memory.lean ====
section
/-!
SUPPORT. Memory: a read after a write, the canonical form kept by every memory operation, and the byte order.
-/

namespace Sys2Proof.Machine

set_option Elab.async false

/-! ## One byte -/

/-- A memory that rises from `lo` rises from any lower address. -/
theorem Memory.risesFrom_mono {m : Memory} {lo hi : Nat} (h : hi ≤ lo) (w : Memory.risesFrom lo m = true) :
    Memory.risesFrom hi m = true := by
  cases m with
  | nil => rfl
  | cons c rest => simp only [Memory.risesFrom, Bool.and_eq_true, decide_eq_true_eq] at w ⊢; exact ⟨by omega, w.2⟩

/-- A write keeps the rise from any lower bound of the address. -/
theorem Memory.write_risesFrom (m : Memory) (a : Nat) (b : Byte) (lo : Nat) (h : lo ≤ a)
    (w : Memory.risesFrom lo m = true) : Memory.risesFrom lo (m.write a b) = true := by
  induction m generalizing lo with
  | nil => simp [Memory.write, Memory.risesFrom, h]
  | cons c rest ih =>
    simp only [Memory.risesFrom, Bool.and_eq_true, decide_eq_true_eq] at w
    simp only [Memory.write]
    split
    · simp only [Memory.risesFrom, Bool.and_eq_true, decide_eq_true_eq]; exact ⟨h, by omega, w.2⟩
    · split
      · simp only [Memory.risesFrom, Bool.and_eq_true, decide_eq_true_eq]
        exact ⟨h, by rename_i e; exact e ▸ w.2⟩
      · simp only [Memory.risesFrom, Bool.and_eq_true, decide_eq_true_eq]
        exact ⟨w.1, ih (c.1 + 1) (by omega) w.2⟩

/-- A write keeps the canonical form. -/
theorem Memory.write_wf (m : Memory) (a : Nat) (b : Byte) (w : m.wf = true) : (m.write a b).wf = true :=
  Memory.write_risesFrom m a b 0 (Nat.zero_le a) w

/-- Nothing is listed below the rise. -/
theorem Memory.read_below (m : Memory) (lo a : Nat) (h : a < lo) (w : Memory.risesFrom lo m = true) : m.read a = none := by
  induction m generalizing lo with
  | nil => rfl
  | cons c rest ih =>
    simp only [Memory.risesFrom, Bool.and_eq_true, decide_eq_true_eq] at w
    simp only [Memory.read, if_neg (show c.1 ≠ a by omega)]
    exact ih (c.1 + 1) (by omega) w.2

/-- A read after a write, of any memory, canonical or not. -/
@[simp] theorem Memory.read_write (m : Memory) (a x : Nat) (b : Byte) :
    (m.write a b).read x = if x = a then some b else m.read x := by
  induction m with
  | nil => simp [Memory.write, Memory.read, eq_comm]
  | cons c rest ih =>
    simp only [Memory.write]
    split
    · simp [Memory.read, eq_comm]
    · split
      · rename_i h1 h2
        by_cases h : x = a
        · simp [Memory.read, h]
        · simp [Memory.read, h, Ne.symm h, ← h2]
      · rename_i h1 h2
        simp only [Memory.read, ih]
        by_cases h : c.1 = x
        · have : x ≠ a := fun e => h2 (by omega)
          simp [h, this]
        · simp [h]

/-- Memory after reset is in the canonical form. -/
theorem reset_memory_wf (c : Config) : (State.resetOf c).mem.wf = true := rfl

/-! ## Many bytes -/

/-- Storing bytes keeps the canonical form. -/
theorem State.storeAll_wf (s : State) (pas : List Dword) (bytes : List Byte) (w : s.mem.wf = true) :
    (s.storeAll pas bytes).mem.wf = true := by
  induction pas generalizing s bytes with
  | nil => simpa [State.storeAll] using w
  | cons pa pas ih =>
    cases bytes with
    | nil => simpa [State.storeAll] using w
    | cons b bytes => exact ih _ _ (Memory.write_wf _ _ _ w)

/-- Storing bytes changes memory, its stale blocks and the blocks that an `icbi` has reached alone. -/
theorem State.storeAll_frame (s : State) (pas : List Dword) (bytes : List Byte) :
    s.storeAll pas bytes =
      { s with
        mem := (s.storeAll pas bytes).mem, staleInsn := (s.storeAll pas bytes).staleInsn,
        icbiDone := (s.storeAll pas bytes).icbiDone } := by
  induction pas generalizing s bytes with
  | nil => simp [State.storeAll]
  | cons pa pas ih =>
    cases bytes with
    | nil => simp [State.storeAll]
    | cons b bytes => simp only [State.storeAll]; rw [ih]; rfl

/-- A byte that is not among those stored reads as before. -/
theorem State.storeAll_read_other (s : State) (pas : List Dword) (bytes : List Byte) (a : Nat)
    (h : ∀ pa, pa ∈ pas → pa.toNat ≠ a) : (s.storeAll pas bytes).mem.read a = s.mem.read a := by
  induction pas generalizing s bytes with
  | nil => simp [State.storeAll]
  | cons pa pas ih =>
    cases bytes with
    | nil => simp [State.storeAll]
    | cons b bytes =>
      simp only [State.storeAll]
      rw [ih _ _ (fun q hq => h q (List.mem_cons_of_mem _ hq)), State.storeByte_mem, Memory.read_write,
        if_neg (fun e => h pa List.mem_cons_self e.symm)]

/-- Bytes stored at different addresses read back. -/
theorem State.storeAll_read (s : State) (pas : List Dword) (bytes : List Byte) (hl : pas.length = bytes.length)
    (nodup : pas.Nodup) (k : Nat) (h : k < bytes.length) :
    (s.storeAll pas bytes).mem.read (pas[k]'(hl ▸ h)).toNat = some bytes[k] := by
  induction pas generalizing s bytes k with
  | nil => simp at hl; omega
  | cons pa pas ih =>
    cases bytes with
    | nil => simp at h
    | cons b bytes =>
      simp only [State.storeAll]
      cases k with
      | zero =>
        have hn := (List.nodup_cons.mp nodup).1
        simp only [List.getElem_cons_zero]
        rw [State.storeAll_read_other _ _ _ _ (fun q hq e => hn ((BitVec.eq_of_toNat_eq e : q = pa) ▸ hq))]
        simp
      | succ k =>
        simp only [List.getElem_cons_succ]
        exact ih _ _ (by simpa using hl) (List.nodup_cons.mp nodup).2 k (by simpa using h)

/-- The blocks stored to become stale, and the others keep their mark. -/
theorem State.mem_storeAll_staleInsn (s : State) (pas : List Dword) (bytes : List Byte) (hl : pas.length = bytes.length)
    (n : Nat) : n ∈ (s.storeAll pas bytes).staleInsn ↔ (∃ pa ∈ pas, n = s.blockOf pa.toNat) ∨ n ∈ s.staleInsn := by
  induction pas generalizing s bytes with
  | nil => simp [State.storeAll]
  | cons pa pas ih =>
    cases bytes with
    | nil => simp at hl
    | cons b bytes =>
      simp only [State.storeAll]
      rw [ih _ _ (by simpa using hl)]
      have e : ∀ a, (s.storeByte pa.toNat b).blockOf a = s.blockOf a := fun _ => rfl
      have m : n ∈ (s.storeByte pa.toNat b).staleInsn ↔ n = s.blockOf pa.toNat ∨ n ∈ s.staleInsn := by
        simp only [State.storeByte, addNew]
        split
        · exact ⟨Or.inr, fun h => h.elim (fun e => e ▸ ‹_›) id⟩
        · exact List.mem_cons
      simp only [e, m, List.mem_cons, exists_eq_or_imp]
      rw [or_assoc, or_left_comm]

/-- An `icbi` of a block stored to no longer counts, and every other still does. -/
theorem State.mem_storeAll_icbiDone (s : State) (pas : List Dword) (bytes : List Byte) (hl : pas.length = bytes.length)
    (n : Nat) : n ∈ (s.storeAll pas bytes).icbiDone ↔ n ∈ s.icbiDone ∧ ¬ ∃ pa ∈ pas, n = s.blockOf pa.toNat := by
  induction pas generalizing s bytes with
  | nil => simp [State.storeAll]
  | cons pa pas ih =>
    cases bytes with
    | nil => simp at hl
    | cons b bytes =>
      simp only [State.storeAll]
      rw [ih _ _ (by simpa using hl)]
      have e : ∀ a, (s.storeByte pa.toNat b).blockOf a = s.blockOf a := fun _ => rfl
      simp only [e, State.storeByte_icbiDone, List.mem_filter, bne_iff_ne, List.mem_cons, exists_eq_or_imp, not_or, and_assoc, ne_eq]

/-- The addresses of consecutive bytes are different. -/
theorem bytesFrom_nodup (pa : Dword) (n : Nat) (h : n ≤ 2 ^ 64) : (bytesFrom pa n).Nodup := by
  refine List.Nodup.map_on (fun x hx y hy e => ?_) List.nodup_range
  have hx := List.mem_range.mp hx
  have hy := List.mem_range.mp hy
  have := congrArg BitVec.toNat e
  simp only [BitVec.toNat_add, BitVec.toNat_ofNat] at this
  have := pa.isLt
  omega

@[simp] theorem bytesFrom_length (pa : Dword) (n : Nat) : (bytesFrom pa n).length = n := by simp [bytesFrom]

@[simp] theorem bytesFrom_getElem (pa : Dword) (n k : Nat) (h : k < (bytesFrom pa n).length) :
    (bytesFrom pa n)[k] = pa + BitVec.ofNat 64 k := by simp [bytesFrom]

/-- Every byte is there: they are read in order. -/
theorem Memory.readAll_ok (m : Memory) (pas : List Dword) (bytes : List Byte) (hl : pas.length = bytes.length)
    (h : ∀ k (hk : k < bytes.length), m.read (pas[k]'(hl ▸ hk)).toNat = some bytes[k]) : m.readAll pas = .ok bytes := by
  induction pas generalizing bytes with
  | nil =>
    cases bytes with
    | nil => rfl
    | cons b bytes => simp at hl
  | cons pa pas ih =>
    cases bytes with
    | nil => simp at hl
    | cons b bytes =>
      have h0 := h 0 (by simp)
      simp only [List.getElem_cons_zero] at h0
      simp only [Memory.readAll, h0]
      have hi : ∀ k (hk : k < bytes.length), m.read (pas[k]'((by simpa using hl : pas.length = bytes.length) ▸ hk)).toNat =
          some bytes[k] := fun k hk => h (k + 1) (Nat.succ_lt_succ hk)
      rw [ih bytes (by simpa using hl) hi]

/-! ## Other agents, and the word placed for a test -/

/-- A byte that another agent stores keeps the canonical form. -/
theorem State.otherStores_wf (s : State) (cells : List Host.Cell) (w : s.mem.wf = true) :
    (s.otherStores cells).mem.wf = true := by
  induction cells generalizing s with
  | nil => exact w
  | cons c cells ih =>
    refine ih _ ?_
    simp only [State.otherStore]
    split <;> exact Memory.write_wf _ _ _ w

/-- What the outside world does at a boundary keeps the canonical form. -/
theorem State.environment_wf (s : State) (w : s.mem.wf = true) : s.environment.mem.wf = true := by
  unfold State.environment
  split
  · exact w
  · exact State.otherStores_wf _ _ w

/-- A word placed in memory keeps the canonical form. -/
theorem State.placeWord_wf (s : State) (pa : Dword) (v : Word) (w : s.mem.wf = true) : (s.placeWord pa v).mem.wf = true := by
  simp only [State.placeWord]
  exact Memory.write_wf _ _ _ (Memory.write_wf _ _ _ (Memory.write_wf _ _ _ (Memory.write_wf _ _ _ w)))

/-- Clearing a cache block keeps the canonical form. -/
theorem State.clearBlock_wf (s : State) (pa : Dword) (w : s.mem.wf = true) : (s.clearBlock pa).mem.wf = true :=
  State.storeAll_wf _ _ _ w

/-- Leaving a cache block undefined keeps the canonical form. -/
theorem State.undefineBlock_wf (s : State) (pa : Dword) (w : s.mem.wf = true) : (s.undefineBlock pa).mem.wf = true :=
  State.storeAll_wf s _ _ w

end Sys2Proof.Machine
end

