-- ==== Sys2Proof/Laws/Ops.lean ====
section
/-!
SUPPORT. What the shared operations do, each said once: the checks before an instruction, the taking of an exception, accesses
to memory.
-/

namespace Sys2Proof.Machine

set_option Elab.async false

/-! ## Addresses and the end of an instruction -/

/-- The next instruction in sequence is where a completed instruction leaves the pc. -/
theorem State.nextPc_eq (s : State) : s.nextPc = s.ea32 (s.nia + 4) &&& ~~~ 3 := rfl

/-- A completed instruction changes the pc alone. -/
theorem done_eq (s : State) : done s = .next { s with nia := s.nextPc } := rfl

/-- Whatever completes leaves memory in its form. -/
theorem done_wf (s t : State) (h : done s = .next t) (w : s.mem.wf = true) : t.mem.wf = true := by
  cases h; exact w

/-! ## Checks before an instruction -/

/-- The checks pass: the instruction has its effect. -/
theorem guarded_ok {i : Instr} {s : State} {k : Result} (p : preCheck i s = none)
    (f : i.wellFormed s.cfg.impl64 = true) : guarded i s k = k := by
  simp [guarded, p, formOk, f]

/-- An exception comes first. -/
theorem guarded_raise {i : Instr} {s : State} {k : Result} {e : Exc} (p : preCheck i s = some e) :
    guarded i s k = .next (enter e s.nia s) := by
  simp [guarded, p, raise]

/-- All that a guarded instruction can do. -/
theorem guarded_cases (i : Instr) (s : State) (k : Result) :
    (∃ e, preCheck i s = some e ∧ guarded i s k = .next (enter e s.nia s)) ∨
    (preCheck i s = none ∧ i.wellFormed s.cfg.impl64 = true ∧ guarded i s k = k) ∨
    (preCheck i s = none ∧ i.wellFormed s.cfg.impl64 = false ∧ guarded i s k = .fault .invalidForm) := by
  cases p : preCheck i s with
  | some e => exact .inl ⟨e, rfl, guarded_raise p⟩
  | none =>
    cases f : i.wellFormed s.cfg.impl64 with
    | true => exact .inr (.inl ⟨rfl, rfl, guarded_ok p f⟩)
    | false => exact .inr (.inr ⟨rfl, rfl, by simp [guarded, p, formOk, f]⟩)

/-- The checks of an instruction that every implementation has, that needs no floating point and that user mode may run. -/
theorem preCheck_user {i : Instr} {s : State} (h : requirement i = ⟨.always, false, .user⟩) : preCheck i s = none := by
  simp [preCheck, checkRequirement, h, existsOn, checkPrivilege]

/-- The checks of an instruction of 64-bit implementations that user mode may run. -/
theorem preCheck_only64 {i : Instr} {s : State} (h : requirement i = ⟨.only64, false, .user⟩) (c : s.cfg.impl64 = true) :
    preCheck i s = none := by
  simp [preCheck, checkRequirement, h, existsOn, checkPrivilege, c]

/-- The checks of an instruction that exists, with floating point available if it needs it, in a mode that may run it. -/
theorem preCheck_none {i : Instr} {s : State} (x : existsOn s.cfg (requirement i).existence = true)
    (f : (requirement i).fp = true → s.fpOn = true) (p : checkPrivilege s (requirement i).privilege = none) :
    preCheck i s = none := by
  have : ((requirement i).fp && !s.fpOn) = false := by
    cases h : (requirement i).fp with
    | false => rfl
    | true => simp [f h]
  simp [preCheck, checkRequirement, x, this, p]

/-! ## Exceptions -/

/-- Recording the fault of an exception changes DSISR, DAR and the draw counter alone. -/
theorem State.recordFault_frame (s : State) (e : Exc) :
    s.recordFault e = { s with dsisr := (s.recordFault e).dsisr, dar := (s.recordFault e).dar,
                               draws := (s.recordFault e).draws } := by
  cases e <;> rfl

/-- All that taking an exception changes. -/
theorem enter_frame (e : Exc) (ret : Dword) (s : State) :
    enter e ret s = { s with
      srr0 := (enter e ret s).srr0, srr1 := (enter e ret s).srr1, msr := (enter e ret s).msr, nia := (enter e ret s).nia,
      dsisr := (enter e ret s).dsisr, dar := (enter e ret s).dar, draws := (enter e ret s).draws,
      staleInsn := (enter e ret s).staleInsn, icbiDone := [], stale := StaleMarks.none, fpPending := false,
      tracePending := false, entered := s.entered ++ [e] } := by
  cases e <;> rfl

@[simp] theorem enter_entered (e : Exc) (ret : Dword) (s : State) : (enter e ret s).entered = s.entered ++ [e] := rfl

@[simp] theorem enter_srr0 (e : Exc) (ret : Dword) (s : State) : (enter e ret s).srr0 = s.ea32 ret &&& ~~~ 3 := rfl
@[simp] theorem enter_srr1 (e : Exc) (ret : Dword) (s : State) :
    (enter e ret s).srr1 = s.norm (entrySrr1 s.srr1 s.msr e.status) := rfl
@[simp] theorem enter_msr (e : Exc) (ret : Dword) (s : State) :
    (enter e ret s).msr = s.norm (entryMsr s.cfg.impl64 e s.msr) := rfl
@[simp] theorem enter_nia (e : Exc) (ret : Dword) (s : State) :
    (enter e ret s).nia = vectorBase (entryMsr s.cfg.impl64 e s.msr) + e.offset := rfl
@[simp] theorem enter_mem (e : Exc) (ret : Dword) (s : State) : (enter e ret s).mem = s.mem :=
  by have h := congrArg State.mem (enter_frame e ret s); exact h
@[simp] theorem enter_gpr (e : Exc) (ret : Dword) (s : State) : (enter e ret s).gpr = s.gpr :=
  by have h := congrArg State.gpr (enter_frame e ret s); exact h
@[simp] theorem enter_fpr (e : Exc) (ret : Dword) (s : State) : (enter e ret s).fpr = s.fpr :=
  by have h := congrArg State.fpr (enter_frame e ret s); exact h
@[simp] theorem enter_cr (e : Exc) (ret : Dword) (s : State) : (enter e ret s).cr = s.cr :=
  by have h := congrArg State.cr (enter_frame e ret s); exact h
@[simp] theorem enter_xer (e : Exc) (ret : Dword) (s : State) : (enter e ret s).xer = s.xer :=
  by have h := congrArg State.xer (enter_frame e ret s); exact h
@[simp] theorem enter_fpscr (e : Exc) (ret : Dword) (s : State) : (enter e ret s).fpscr = s.fpscr :=
  by have h := congrArg State.fpscr (enter_frame e ret s); exact h
@[simp] theorem enter_reserve (e : Exc) (ret : Dword) (s : State) : (enter e ret s).reserve = s.reserve :=
  by have h := congrArg State.reserve (enter_frame e ret s); exact h
@[simp] theorem enter_cfg (e : Exc) (ret : Dword) (s : State) : (enter e ret s).cfg = s.cfg :=
  by have h := congrArg State.cfg (enter_frame e ret s); exact h

/-! ## Accesses -/

@[simp] theorem Access.ok_bind {α β : Type} (v : α) (s : State) (k : α → State → Access β) : (Access.ok v s).bind k = k v s := rfl
@[simp] theorem Access.raises_bind {α β : Type} (e : Exc) (s : State) (k : α → State → Access β) :
    (Access.raises e s : Access α).bind k = .raises e s := rfl
@[simp] theorem Access.faults_bind {α β : Type} (f : Fault) (k : α → State → Access β) :
    (Access.faults f : Access α).bind k = .faults f := rfl
@[simp] theorem Access.ok_finish {α : Type} (v : α) (s : State) (k : α → State → Result) : (Access.ok v s).finish k = k v s := rfl
@[simp] theorem Access.raises_finish {α : Type} (e : Exc) (s : State) (k : α → State → Result) :
    (Access.raises e s : Access α).finish k = .next (enter e s.nia s) := rfl
@[simp] theorem Access.faults_finish {α : Type} (f : Fault) (k : α → State → Result) :
    (Access.faults f : Access α).finish k = .fault f := rfl

/-- If a sequence of accesses succeeds, each does. -/
theorem Access.bind_eq_ok {α β : Type} {a : Access α} {k : α → State → Access β} {v : β} {t : State}
    (h : a.bind k = .ok v t) : ∃ x u, a = .ok x u ∧ k x u = .ok v t := by
  cases a with
  | ok x u => exact ⟨x, u, rfl, h⟩
  | raises e u => cases h
  | faults f => cases h

/-- The translation of a data address changes the TLB and the SLB alone. -/
theorem translateData_frame {s t : State} {kind : AccessKind} {ea : Dword} {pa : Dword × Attributes}
    (h : translateData s kind ea = .ok pa t) : t = { s with tlb := t.tlb, slb := t.slb } := by
  simp only [translateData] at h
  split at h
  · cases h
  · split at h
    · cases h; rfl
    · split at h
      · cases h; rfl
      · cases h

/-- The breakpoint check changes nothing. -/
theorem checkBreak_frame {s t : State} {kind : AccessKind} {ea : Dword} (h : checkBreak s kind ea = .ok () t) : t = s := by
  simp only [checkBreak] at h
  split at h
  · cases h
  · split at h
    · cases h
    · cases h; rfl

/-- An access that goes through changes the TLB and the SLB alone. -/
theorem reach_frame {s t : State} {kind : AccessKind} {ea : Dword} {pa : Dword × Attributes}
    (h : reach s kind ea = .ok pa t) : t = { s with tlb := t.tlb, slb := t.slb } := by
  obtain ⟨x, u, hx, h⟩ := Access.bind_eq_ok h
  obtain ⟨y, v, hy, h⟩ := Access.bind_eq_ok h
  have hu := translateData_frame hx
  have hv := checkBreak_frame hy
  cases h
  exact hv ▸ hu

/-- The model's test of a stale access is the statements' description. -/
theorem staleData_iff (s : State) (ea : Dword) : s.staleData ea = true ↔ staleAccess s ea := by
  simp only [State.staleData, staleAccess, Bool.or_eq_true, Bool.and_eq_true, Bool.not_eq_true', List.contains_iff_mem,
    bne_iff_ne, ne_eq]
  rw [← Bool.not_eq_true, or_assoc, or_assoc (a := s.stale.allPages = true)]
  tauto

/-- So is its test of a breakpoint match. -/
theorem dabrMatch_iff (s : State) (kind : AccessKind) (ea : Dword) : s.dabrMatch kind ea = true ↔ breaks s kind ea := by
  cases kind <;> simp [State.dabrMatch, breaks, dabrEnables, and_assoc]

/-- So is its test of a direct-store segment. -/
theorem directStore_iff (s : State) (x : Xlate) (ea : Dword) :
    directStore s.mmuView s.cfg.impl64 x ea = true ↔ directSegment s x ea := by
  have h : s.slb.toList.any (slbDirect ea) = true ↔ ∃ k : Fin 16, (s.slb.get k).dw0.getMsbD 56 = true ∧
      (s.slb.get k).dw0.getMsbD 57 = true ∧ slice 36 (s.slb.get k).dw0 0 = slice 36 ea 0 := by
    simp only [List.any_eq_true, Vector.mem_toList_iff, Vector.mem_iff_getElem, slbDirect, Bool.and_eq_true, beq_iff_eq]
    constructor
    · rintro ⟨_, ⟨k, hk, rfl⟩, ⟨a, b⟩, c⟩
      exact ⟨⟨k, hk⟩, a, b, c⟩
    · rintro ⟨k, a, b, c⟩
      exact ⟨_, ⟨k.1, k.2, rfl⟩, ⟨a, b⟩, c⟩
  cases hc : s.cfg.impl64
  · simp [directStore, directSegment, hc, State.mmuView, or_comm, BitVec.msb]
  · simp only [directStore, directSegment, hc, State.mmuView, if_true, Bool.or_eq_true, h, or_comm, Bool.true_eq_false,
      false_and, false_or, true_and]

/-- A translation that the statements describe is the model's. -/
theorem translateData_of_translatesTo {s u : State} {kind : AccessKind} {ea pa : Dword} {a : Attributes}
    (h : translatesTo s kind ea pa a u) : translateData s kind ea = .ok (pa, a) u := by
  obtain ⟨hs, h⟩ := h
  rw [← staleData_iff, Bool.not_eq_true] at hs
  rcases h with ⟨hd, rfl, rfl, rfl⟩ | ⟨hd, f, hx, rfl, rfl⟩
  · simp only [translateData, hs, hd, realAttributes, Bool.not_false, if_true, Bool.false_eq_true, if_false]
  · simp only [translateData, hs, hd, hx, physical, Bool.not_true, Bool.false_eq_true, if_false]

/-- What the breakpoint check looks at, no translation changes. -/
theorem checkBreak_of_translatesTo {s u : State} {kind : AccessKind} {ea pa : Dword} {a : Attributes}
    (h : translatesTo s kind ea pa a u) (hd : ¬ dabrStale s) (hb : ¬ breaks s kind ea) : checkBreak u kind ea = .ok () u := by
  have hm : s.dabrMatch kind ea = false := by rw [← Bool.not_eq_true, dabrMatch_iff]; exact hb
  have hs : (s.cfg.optDabr && s.stale.dabr) = false := by
    rw [← Bool.not_eq_true, Bool.and_eq_true]; exact hd
  obtain ⟨-, ⟨-, -, -, rfl⟩ | ⟨-, f, -, -, rfl⟩⟩ := h
  · simp only [checkBreak, hs, hm, Bool.false_eq_true, if_false]
  · have hm' : (s.fill (Config.translate s.mmuView s.mem kind s.pr ea)).dabrMatch kind ea = false := hm
    have hs' : ((s.fill (Config.translate s.mmuView s.mem kind s.pr ea)).cfg.optDabr &&
      (s.fill (Config.translate s.mmuView s.mem kind s.pr ea)).stale.dabr) = false := hs
    simp only [checkBreak, hs', hm', Bool.false_eq_true, if_false]

/-- An access that the statements call reached goes through. -/
theorem reach_of_reachesAt {s u : State} {kind : AccessKind} {ea pa : Dword} (h : reachesAt s kind ea pa u) :
    ∃ a, reach s kind ea = .ok (pa, a) u := by
  obtain ⟨⟨a, h⟩, hd, hb⟩ := h
  exact ⟨a, by simp only [reach, translateData_of_translatesTo h, checkBreak_of_translatesTo h hd hb, Access.ok_bind]⟩

/-- What reaching an access leaves: memory and the registers of the state it started in. -/
theorem reachesAt_frame {s u : State} {kind : AccessKind} {ea pa : Dword} (h : reachesAt s kind ea pa u) :
    u = { s with tlb := u.tlb, slb := u.slb } := by
  obtain ⟨a, h⟩ := reach_of_reachesAt h
  exact reach_frame h

/-- Memory that holds the bytes gives them to a read. -/
theorem readAt_of_holds {s : State} {pa : Dword} {bytes : List Byte} (h : s.holds pa bytes) :
    readAt (bytesFrom pa bytes.length) s = .ok bytes s := by
  have : s.mem.readAll (bytesFrom pa bytes.length) = .ok bytes :=
    Memory.readAll_ok _ _ _ (by simp) (fun k hk => by simpa using h k hk)
  simp only [readAt, this]

/-- An aligned load of bytes that memory holds. -/
theorem loadBytes_aligned {s u : State} {ea pa : Dword} {bytes : List Byte} (al : alignedTo ea bytes.length = true)
    (r : reachesAt s .load ea pa u) (h : u.holds pa bytes) : loadBytes s ea bytes.length = .ok bytes u := by
  obtain ⟨a, hr⟩ := reach_of_reachesAt r
  simp only [loadBytes, reachScalar, al, if_true, reachUnit, hr, Access.ok_bind, readAt_of_holds h]

/-- An aligned store. -/
theorem storeBytes_aligned {s u : State} {ea pa : Dword} {bytes : List Byte} (al : alignedTo ea bytes.length = true)
    (r : reachesAt s .store ea pa u) :
    storeBytes s ea bytes = .ok () (u.storeAll (bytesFrom pa bytes.length) bytes) := by
  obtain ⟨a, hr⟩ := reach_of_reachesAt r
  simp only [storeBytes, reachScalar, al, if_true, reachUnit, hr, Access.ok_bind]

/-- Stored bytes are there, up to the size of the address space. -/
theorem storeAll_holds (s : State) (pa : Dword) (bytes : List Byte) (h : bytes.length ≤ 2 ^ 64) :
    (s.storeAll (bytesFrom pa bytes.length) bytes).holds pa bytes := by
  intro k hk
  have := State.storeAll_read s (bytesFrom pa bytes.length) bytes (by simp) (bytesFrom_nodup pa _ h) k hk
  simpa using this

/-- Every other byte reads as before. -/
theorem storeAll_elsewhere (s : State) (pa : Dword) (bytes : List Byte) (a : Nat)
    (h : ∀ k, k < bytes.length → a ≠ (pa + BitVec.ofNat 64 k).toNat) :
    (s.storeAll (bytesFrom pa bytes.length) bytes).mem.read a = s.mem.read a := by
  refine State.storeAll_read_other _ _ _ _ (fun q hq e => ?_)
  simp only [bytesFrom, List.mem_map, List.mem_range] at hq
  obtain ⟨k, hk, rfl⟩ := hq
  exact h k hk e.symm

/-- A misaligned address that must be aligned. -/
theorem reachAligned_misaligned {s : State} {kind : AccessKind} {ea : Dword} {n : Nat} (al : alignedTo ea n = false) :
    reachAligned s kind ea n = .raises (.alignment ea) s := by
  simp [reachAligned, al]

/-- A misaligned scalar access under the policy to trap. -/
theorem reachScalar_trap {s : State} {kind : AccessKind} {ea : Dword} {n : Nat} (al : alignedTo ea n = false)
    (p : s.cfg.misaligned = .trap) : reachScalar s kind ea n = .raises (.alignment ea) s := by
  simp [reachScalar, al, p]

/-! ## Marks of context changes -/

/-- A branch's note of its target changes the marks alone. -/
theorem State.noteTarget_frame (s : State) (v : Dword) : s.noteTarget v = { s with stale := (s.noteTarget v).stale } := by
  simp only [State.noteTarget]; split <;> rfl

/-- A branch's note of its counter changes the marks alone. -/
theorem State.noteCounter_frame (s : State) (bo bi : BitVec 5) :
    s.noteCounter bo bi = { s with stale := (s.noteCounter bo bi).stale } := by
  simp only [State.noteCounter]; split <;> rfl

/-- The note of a wrap changes the mark `sfCut` alone. -/
theorem State.noteWrap_frame (t s : State) (i : Instr) :
    t.noteWrap s i = { t with stale := { t.stale with
      sfCut := t.stale.sfCut || (t.stale.sf && !isBranch i && s.nia == 0xFFFFFFFC && t.nia == 0) } } := by
  rw [State.noteWrap]
  generalize (t.stale.sf && !isBranch i && s.nia == 0xFFFFFFFC && t.nia == 0) = b
  cases b <;> simp

/-- A branch changes the pc and the marks alone. -/
theorem State.branchTo_frame (s : State) (v : Dword) :
    s.branchTo v = { s with nia := s.ea32 v &&& ~~~ 3, stale := (s.noteTarget v).stale } := by
  simp only [State.branchTo, State.noteTarget]; split <;> rfl

/-- `sync` clears the mark of DABR alone. -/
@[simp] theorem State.syncDabr_stale (s : State) : s.syncDabr.stale = { s.stale with dabr := false } := rfl

/-- The marks of an MSR move are all it changes. -/
theorem State.markMsr_frame (s before : State) : s.markMsr before = { s with stale := (s.markMsr before).stale } := by
  simp only [State.markMsr]
  split <;> split <;> split <;> rfl

/-! ## The byte order -/

/-- The statements' value of bytes is the model's. -/
theorem bigEndian_eq (bytes : List Byte) : bigEndian bytes = bytesValue bytes := by
  have : ∀ (l : List Byte) (acc : Nat), l.foldl (fun acc b => acc * 256 + b.toNat) acc = acc * 256 ^ l.length + bigEndian l := by
    intro l
    induction l with
    | nil => intro acc; simp [bigEndian]
    | cons b l ih =>
      intro acc
      simp only [List.foldl_cons, ih, bigEndian, List.length_cons, pow_succ]
      ring
  simpa [bytesValue] using (this bytes 0).symm

/-- The statements' bytes of a value are the model's. -/
theorem lowBytes_eq (n : Nat) (v : Dword) : lowBytes n v = toBytes n v := by
  induction n with
  | zero => rfl
  | succ n ih =>
    simp only [lowBytes, ih, toBytes, List.range_succ_eq_map, List.map_cons, List.map_map]
    congr 1
    simp only [BitVec.extractLsb']
    refine List.map_congr_left fun a ha => ?_
    have h : n - 1 - a = n + 1 - 1 - (a + 1) := by omega
    simp only [Function.comp, h, Nat.succ_eq_add_one]

@[simp] theorem toBytes_length {w : Nat} (n : Nat) (v : BitVec w) : (toBytes n v).length = n := by simp [toBytes]

end Sys2Proof.Machine
end

