-- ==== Sys2Proof/Laws/Access.lean ====
section
/-!
SUPPORT. What an access can do, said once in the terms of the statements: how it stops an instruction, and what a load and a
store make of the bytes when it goes through.
-/

namespace Sys2Proof.Machine

set_option Elab.async false

/-! ## Sequences of accesses -/

/-- The end of a sequence is the end of its first part, followed by that of the rest. -/
theorem Access.bind_finish {α β : Type} (a : Access α) (k : α → State → Access β) (f : β → State → Result) :
    (a.bind k).finish f = a.finish (fun v t => (k v t).finish f) := by
  cases a <;> rfl

/-! ## How an access stops an instruction -/

/-- The DSISR bits of the statements are the model's. -/
theorem dsiStatus_eq (c : XlateCause) (kind : AccessKind) :
    dsiStatus c ||| storeStatus kind = dsisrBit c ||| storeBit kind := by
  cases c <;> cases kind <;> decide

/-- A translation that does not go through stops the instruction as the statements say. -/
theorem translateData_stops (s : State) (kind : AccessKind) (ea : Dword) (f : Dword × Attributes → State → Result) :
    translationStops s kind ea ((translateData s kind ea).finish f) := by
  refine ⟨fun h => ?_, fun h hd c hc => ?_⟩
  · rw [← staleData_iff] at h
    simp [translateData, h]
  · rw [← staleData_iff, Bool.not_eq_true] at h
    simp [translateData, h, hd, hc, raisesIn, dsiStatus_eq]

/-- A breakpoint check that does not go through stops the instruction as the statements say. -/
theorem checkBreak_stops {s u : State} {kind : AccessKind} {ea pa : Dword} {a : Attributes}
    (h : translatesTo s kind ea pa a u) (f : Unit → State → Result) : breakStops s u kind ea ((checkBreak u kind ea).finish f) := by
  have hu : (u.cfg.optDabr && u.stale.dabr) = (s.cfg.optDabr && s.stale.dabr) ∧ u.dabrMatch kind ea = s.dabrMatch kind ea := by
    obtain ⟨-, ⟨-, -, -, rfl⟩ | ⟨-, f, -, -, rfl⟩⟩ := h <;> exact ⟨rfl, rfl⟩
  refine ⟨fun hd => ?_, fun hd hb => ?_⟩
  · have : (s.cfg.optDabr && s.stale.dabr) = true := by rw [Bool.and_eq_true]; exact hd
    simp [checkBreak, hu.1, this]
  · have h1 : (s.cfg.optDabr && s.stale.dabr) = false := by rw [← Bool.not_eq_true, Bool.and_eq_true]; exact hd
    have h2 := (dabrMatch_iff s kind ea).mpr hb
    have h3 : (0x00400000 : Word) ||| storeStatus kind = bitAt 9 ||| storeBit kind := by cases kind <;> decide
    simp only [checkBreak, hu.1, hu.2, h1, h2, raisesIn, h3, Bool.false_eq_true, if_false, if_true, Access.raises_finish]

/-- An access that does not go through stops the instruction as the statements say. -/
theorem reach_stops (s : State) (kind : AccessKind) (ea : Dword) (f : Dword × Attributes → State → Result) :
    accessStops s kind ea ((reach s kind ea).finish f) := by
  rw [reach, Access.bind_finish]
  refine ⟨translateData_stops s kind ea _, fun pa a u h => ?_⟩
  rw [translateData_of_translatesTo h, Access.ok_finish, Access.bind_finish]
  exact checkBreak_stops h _

/-! ## Loads -/

/-- Bytes that are all there are what a read answers. -/
theorem Memory.readAll_of_readsAs {s : State} {pas : List Dword} {bytes : List Byte} (h : s.readsAs pas bytes) :
    s.mem.readAll pas = .ok bytes := by
  induction pas generalizing bytes with
  | nil => cases bytes <;> simp_all [State.readsAs, Memory.readAll]
  | cons pa pas ih =>
    cases bytes with
    | nil => simp [State.readsAs] at h
    | cons b bytes =>
      simp only [State.readsAs, List.map_cons, List.cons.injEq] at h
      simp only [Memory.readAll, h.1, ih h.2]

/-- The first byte that nothing has written is what a read reports. -/
theorem Memory.readAll_of_firstUnwritten {s : State} {pas : List Dword} {a : Nat} (h : s.firstUnwritten pas = some a) :
    s.mem.readAll pas = .error a := by
  induction pas with
  | nil => simp [State.firstUnwritten] at h
  | cons pa pas ih =>
    simp only [State.firstUnwritten, List.find?_cons] at h
    cases hr : s.mem.read pa.toNat with
    | none => simp_all [Memory.readAll]
    | some b =>
      rw [hr] at h
      simp only [Memory.readAll, hr, ih h]

/-- A load whose addresses are known completes with the bytes there, or reports the first that is not there. -/
theorem readAt_loadsFrom {s u : State} (pas : List Dword) (put : List Byte → State → State)
    (hp : ∀ bytes, (put bytes u).advance = { put bytes u with nia := s.nextPc }) :
    loadsFrom s ((readAt pas u).finish (fun bytes t => done (put bytes t))) pas u put := by
  refine ⟨fun bytes h => ?_, fun a h => ?_⟩
  · simp only [readAt, Memory.readAll_of_readsAs h, Access.ok_finish, done, hp]
  · simp only [readAt, Memory.readAll_of_firstUnwritten h, Access.faults_finish]

/-! ## Stores -/

/-- Stored bytes read back, in the statements' words. -/
theorem storeAll_readsAs (s : State) (pas : List Dword) (bytes : List Byte) (hl : pas.length = bytes.length) (hn : pas.Nodup) :
    (s.storeAll pas bytes).readsAs pas bytes := by
  refine List.ext_getElem (by simpa using hl) fun k h1 h2 => ?_
  simp only [List.length_map] at h1 h2
  simpa using State.storeAll_read s pas bytes hl hn k h2

/-- The blocks stored to are marked, in the statements' words. -/
theorem storeAll_marks (s : State) (pas : List Dword) (bytes : List Byte) (hl : pas.length = bytes.length) :
    marksStored s (s.storeAll pas bytes) (fun a => ∃ pa ∈ pas, a = pa.toNat) := by
  have e : ∀ b, (∃ a, (∃ pa ∈ pas, a = pa.toNat) ∧ b = s.blockOf a) ↔ ∃ pa ∈ pas, b = s.blockOf pa.toNat := fun b =>
    ⟨fun ⟨_, ⟨pa, h, e⟩, hb⟩ => ⟨pa, h, e ▸ hb⟩, fun ⟨pa, h, hb⟩ => ⟨_, ⟨pa, h, rfl⟩, hb⟩⟩
  refine ⟨fun b => ?_, fun b => ?_⟩
  · rw [State.mem_storeAll_staleInsn _ _ _ hl, or_comm, e]
  · rw [State.mem_storeAll_icbiDone _ _ _ hl, e]

/-- A store whose addresses are known completes. -/
theorem storeAll_storesTo {s u : State} (pas : List Dword) (bytes : List Byte) (upd : State → State)
    (hl : pas.length = bytes.length) (hu : u = { s with tlb := u.tlb, slb := u.slb })
    (hp : ∀ m l d, (upd { u with mem := m, staleInsn := l, icbiDone := d }).advance =
      { upd u with nia := s.nextPc, mem := m, staleInsn := l, icbiDone := d }) :
    storesTo s (done (upd (u.storeAll pas bytes))) pas u bytes upd := by
  have e := State.storeAll_frame u pas bytes
  have ha := hp (u.storeAll pas bytes).mem (u.storeAll pas bytes).staleInsn (u.storeAll pas bytes).icbiDone
  rw [← e] at ha
  have hm : u.mem = s.mem := by rw [hu]
  have hi : u.staleInsn = s.staleInsn ∧ u.icbiDone = s.icbiDone := by rw [hu]; exact ⟨rfl, rfl⟩
  have hb : ∀ a, u.blockOf a = s.blockOf a := fun a => by rw [hu]; rfl
  refine ⟨(upd (u.storeAll pas bytes)).advance, rfl, fun hn => ?_, fun a h => ?_, ?_, ?_⟩
  · rw [ha]; exact storeAll_readsAs u pas bytes hl hn
  · rw [ha, ← hm]; exact State.storeAll_read_other u pas bytes a (fun pa hpa e => h pa hpa e.symm)
  · rw [ha]
    have := storeAll_marks u pas bytes hl
    simpa only [marksStored, hi.1, hi.2, hb] using this
  · rw [ha]

/-! ## Aligned and misaligned accesses -/

/-- An address keeps its value under the mode's cut. -/
@[simp] theorem State.ea32_ea32 (s : State) (v : Dword) : s.ea32 (s.ea32 v) = s.ea32 v := by
  unfold State.ea32; split
  · rfl
  · simp [low, zext]

/-- So does a sum with it. -/
theorem State.ea32_add (s : State) (v w : Dword) : s.ea32 (s.ea32 v + w) = s.ea32 (v + w) := by
  unfold State.ea32; split
  · rfl
  · simp only [low, zext]; bv_omega

/-- Byte accesses that all go through give the physical addresses that the statements name. -/
theorem reachEach_of_reachesEach {s u : State} {kind : AccessKind} {sum : Dword} {pas : List Dword}
    (h : reachesEach s kind sum 1 pas u) : reachEach s kind (s.ea32 sum) pas.length = .ok pas u := by
  induction pas generalizing s sum with
  | nil => cases h; rfl
  | cons pa pas ih =>
    obtain ⟨v, hv, h⟩ := h
    obtain ⟨a, hr⟩ := reach_of_reachesAt hv
    have e : v.ea32 = s.ea32 := by rw [reachesAt_frame hv]; rfl
    have := ih h
    rw [e] at this
    simp only [List.length_cons, reachEach, hr, Access.ok_bind, e, State.ea32_add, this]

/-- The first byte access that does not go through stops the instruction. -/
theorem reachEach_stops {s v : State} {kind : AccessKind} {sum : Dword} {pas : List Dword} {n : Nat} (hn : pas.length < n)
    (h : reachesEach s kind sum 1 pas v) (f : List Dword → State → Result) :
    accessStops v kind (addressOf s sum 1 pas.length) ((reachEach s kind (s.ea32 sum) n).finish f) := by
  induction pas generalizing s sum n f with
  | nil =>
    cases h
    cases n with
    | zero => simp at hn
    | succ n =>
      have e : addressOf v sum 1 ([] : List Dword).length = v.ea32 sum := by simp [addressOf]
      rw [e, reachEach, Access.bind_finish]
      exact reach_stops v kind _ _
  | cons pa pas ih =>
    cases n with
    | zero => simp at hn
    | succ n =>
      obtain ⟨w, hw, h⟩ := h
      obtain ⟨a, hr⟩ := reach_of_reachesAt hw
      have e : w.ea32 = s.ea32 := by rw [reachesAt_frame hw]; rfl
      have := ih (by simpa using hn) h (fun pas u => f (pa :: pas) u)
      have ea : addressOf s sum 1 (pa :: pas).length = addressOf w (sum + 1) 1 pas.length := by
        simp only [addressOf, e, List.length_cons]
        congr 1
        bv_omega
      rw [ea, reachEach, hr, Access.ok_bind, Access.bind_finish, e, State.ea32_add]
      rw [e] at this
      exact this

/-- What a sequence of accesses leaves: memory and the registers of the state it started in. -/
theorem reachesEach_frame {s u : State} {kind : AccessKind} {sum stride : Dword} {pas : List Dword}
    (h : reachesEach s kind sum stride pas u) : u = { s with tlb := u.tlb, slb := u.slb } := by
  induction pas generalizing s sum with
  | nil => cases h; rfl
  | cons pa pas ih =>
    obtain ⟨v, hv, h⟩ := h
    have h1 := reachesAt_frame hv
    have h2 := ih h
    rw [h1] at h2
    exact h2

/-- All that a scalar load can do, aligned or not. -/
theorem loadBytes_effect (s : State) (sum : Dword) (n : Nat) (put : List Byte → State → State)
    (hp : ∀ u bytes, u = { s with tlb := u.tlb, slb := u.slb } →
      (put bytes u).advance = { put bytes u with nia := s.nextPc }) :
    let r := (loadBytes s (s.ea32 sum) n).finish (fun bytes t => done (put bytes t))
    loadsAligned s r sum n put ∧ loadsMisaligned s r sum n put := by
  constructor
  · intro al
    simp only [loadBytes, reachScalar, al, if_true, reachUnit, Access.bind_finish]
    refine ⟨reach_stops s .load _ _, fun pa u h => ?_⟩
    obtain ⟨a, hr⟩ := reach_of_reachesAt h
    rw [hr]
    exact readAt_loadsFrom _ put (fun bytes => hp u bytes (reachesAt_frame h))
  · intro al
    refine ⟨fun p => ?_, fun p => ⟨fun pas v hl h => ?_, fun pas u hl h => ?_⟩⟩
    · simp only [loadBytes, reachScalar_trap al p, Access.raises_bind, Access.raises_finish, raisesIn]
    · simp only [loadBytes, reachScalar, al, p, Access.bind_finish, Bool.false_eq_true, if_false]
      exact reachEach_stops hl h _
    · subst hl
      simp only [loadBytes, reachScalar, al, p, Bool.false_eq_true, if_false, reachEach_of_reachesEach h, Access.ok_bind]
      exact readAt_loadsFrom _ put (fun bytes => hp u bytes (reachesEach_frame h))

/-- All that a scalar store can do, aligned or not. -/
theorem storeBytes_effect (s : State) (sum : Dword) (bytes : List Byte) (upd : State → State)
    (hp : ∀ u m l d, u = { s with tlb := u.tlb, slb := u.slb } →
      (upd { u with mem := m, staleInsn := l, icbiDone := d }).advance =
        { upd u with nia := s.nextPc, mem := m, staleInsn := l, icbiDone := d }) :
    let r := (storeBytes s (s.ea32 sum) bytes).finish (fun _ t => done (upd t))
    storesAligned s r sum bytes upd ∧ storesMisaligned s r sum bytes upd := by
  constructor
  · intro al
    simp only [storeBytes, reachScalar, al, if_true, reachUnit, Access.bind_finish]
    refine ⟨reach_stops s .store _ _, fun pa u h => ?_⟩
    obtain ⟨a, hr⟩ := reach_of_reachesAt h
    rw [hr]
    exact storeAll_storesTo _ bytes upd (by simp) (reachesAt_frame h) (fun m l d => hp u m l d (reachesAt_frame h))
  · intro al
    refine ⟨fun p => ?_, fun p => ⟨fun pas v hl h => ?_, fun pas u hl h => ?_⟩⟩
    · simp only [storeBytes, reachScalar_trap al p, Access.raises_bind, Access.raises_finish, raisesIn]
    · simp only [storeBytes, reachScalar, al, p, Access.bind_finish, Bool.false_eq_true, if_false]
      exact reachEach_stops hl h _
    · rw [← hl] at al
      simp only [storeBytes, reachScalar, ← hl, al, p, Bool.false_eq_true, if_false, reachEach_of_reachesEach h, Access.ok_bind]
      exact storeAll_storesTo _ bytes upd hl (reachesEach_frame h) (fun m l d => hp u m l d (reachesEach_frame h))

/-! ## Real addressing mode -/

/-- Bytes that a read gives stand in memory one after the other. -/
theorem State.holds_of_readsAs {s : State} {pa : Dword} {bytes : List Byte}
    (h : s.readsAs (bytesFrom pa bytes.length) bytes) : s.holds pa bytes := by
  intro k hk
  have := List.getElem_of_eq h (i := k) (by simpa using hk)
  simpa using this

/-- In real addressing mode, with nothing stale at the address, the address translates to itself. -/
theorem translatesTo_real {s : State} {kind : AccessKind} {ea : Dword} (hs : s.staleData ea = false) (hr : s.dr = false) :
    translatesTo s kind ea ea ⟨false, false, true, false⟩ s :=
  ⟨by rw [← staleData_iff, hs]; exact Bool.false_ne_true, .inl ⟨hr, rfl, rfl, rfl⟩⟩

/-- With no breakpoint matching either, an access reaches it. -/
theorem reachesAt_real {s : State} {kind : AccessKind} {ea : Dword} (hs : s.staleData ea = false) (hr : s.dr = false)
    (hd : (s.cfg.optDabr && s.stale.dabr) = false) (hb : s.dabrMatch kind ea = false) : reachesAt s kind ea ea s :=
  ⟨⟨_, translatesTo_real hs hr⟩, by simpa [dabrStale] using hd, by rw [← dabrMatch_iff, hb]; exact Bool.false_ne_true⟩

/-- Without the breakpoint option and with nothing stale, every access does. -/
theorem reachesAt_plain {s : State} (kind : AccessKind) (ea : Dword) (hr : s.dr = false) (hs : s.stale = StaleMarks.none)
    (ho : s.cfg.optDabr = false) : reachesAt s kind ea ea s :=
  reachesAt_real (by simp [State.staleData, hs, hr, StaleMarks.none]) hr (by simp [ho]) (by simp [State.dabrMatch, ho])

/-- The addresses of accesses after the first. -/
theorem addressOf_succ (s : State) (sum stride : Dword) (k : Nat) :
    addressOf s sum stride (k + 1) = addressOf s (sum + stride) stride k := by
  simp only [addressOf]
  congr 1
  rw [BitVec.ofNat_add, BitVec.add_mul]
  simp only [BitVec.one_mul]
  rw [BitVec.add_comm (BitVec.ofNat 64 k * stride), ← BitVec.add_assoc]

/-- So do accesses one after the other. -/
theorem reachesEach_plain {s : State} (kind : AccessKind) (sum stride : Dword) (n : Nat) (hr : s.dr = false)
    (hs : s.stale = StaleMarks.none) (ho : s.cfg.optDabr = false) :
    reachesEach s kind sum stride ((List.range n).map (addressOf s sum stride)) s := by
  induction n generalizing sum with
  | zero => rfl
  | succ n ih =>
    have e : addressOf s sum stride ∘ Nat.succ = addressOf s (sum + stride) stride := funext (addressOf_succ s sum stride)
    rw [List.range_succ_eq_map, List.map_cons, List.map_map, e]
    refine ⟨s, ?_, ih (sum + stride)⟩
    have : addressOf s sum stride 0 = s.ea32 sum := by simp [addressOf]
    rw [this]
    exact reachesAt_plain kind _ hr hs ho

/-- So do stores one after the other. -/
theorem storesEach_plain {s : State} (sum stride : Dword) (chunks : List (List Byte)) (hr : s.dr = false)
    (hs : s.stale = StaleMarks.none) (ho : s.cfg.optDabr = false) :
    ∃ u, storesEach s sum stride chunks ((List.range chunks.length).map (addressOf s sum stride)) u := by
  induction chunks generalizing s sum with
  | nil => exact ⟨s, rfl⟩
  | cons c cs ih =>
    have h0 : addressOf s sum stride 0 = s.ea32 sum := by simp [addressOf]
    have f := State.storeAll_frame s (bytesFrom (s.ea32 sum) c.length) c
    have e : addressOf s sum stride ∘ Nat.succ =
        addressOf (s.storeAll (bytesFrom (s.ea32 sum) c.length) c) (sum + stride) stride := by
      rw [f]; exact funext (addressOf_succ s sum stride)
    obtain ⟨u, hu⟩ := ih (s := s.storeAll (bytesFrom (s.ea32 sum) c.length) c) (sum + stride) (by rw [f]; exact hr)
      (by rw [f]; exact hs) (by rw [f]; exact ho)
    refine ⟨u, ?_⟩
    rw [List.length_cons, List.range_succ_eq_map, List.map_cons, List.map_map, e, h0]
    exact ⟨s, reachesAt_plain .store _ hr hs ho, hu⟩

/-- The check of `readInstruction` in the terms of the statements. -/
theorem State.blocksOfWord_stale (s : State) (pa : Dword) :
    (s.blocksOfWord pa).any s.staleInsn.contains = true ↔ staleWord s pa := by
  simp [State.blocksOfWord, bytesFrom, staleWord]

/-- A fetch of a word stops in a stale block, stops at a byte that nothing has written, or reads the word and changes nothing. -/
theorem readInstruction_cases (pa : Dword) (s : State) :
    (staleWord s pa ∧ readInstruction pa s = .faults .staleInstruction) ∨
    (¬ staleWord s pa ∧ ∃ a, s.mem.readAll (bytesFrom pa 4) = .error a ∧ readInstruction pa s = .faults (.unwrittenRead a)) ∨
    (¬ staleWord s pa ∧ ∃ bytes, s.mem.readAll (bytesFrom pa 4) = .ok bytes ∧ readInstruction pa s = .ok (ofBytes 32 bytes) s) := by
  unfold readInstruction
  split
  · rename_i h
    exact .inl ⟨(s.blocksOfWord_stale pa).mp h, rfl⟩
  · rename_i h
    have h' : ¬ staleWord s pa := fun c => h ((s.blocksOfWord_stale pa).mpr c)
    cases hm : s.mem.readAll (bytesFrom pa 4) with
    | ok bytes => exact .inr (.inr ⟨h', bytes, rfl, rfl⟩)
    | error a => exact .inr (.inl ⟨h', a, rfl, rfl⟩)

end Sys2Proof.Machine
end

