-- ==== Sys2Proof/Laws/Flags.lean ====
section
/-!
SUPPORT. Bit fields, CR fields, the XER and the FPSCR: what the flag computations give.
-/

namespace Sys2Proof.Machine

set_option Elab.async false

/-! ## Bits -/

/-- Bit `k` after bit `i` has been made `v`. -/
@[simp] theorem putBit_getMsbD {w : Nat} (x : BitVec w) (i k : Nat) (v : Bool) (hi : i < w) (hk : k < w) :
    (putBit x i v).getMsbD k = if k = i then v else x.getMsbD k := by
  simp only [putBit]
  by_cases h : k = i
  · subst h
    cases v
    · simp [BitVec.getMsbD_eq_getLsbD, hk, BitVec.getLsbD_twoPow]
    · simp [BitVec.getMsbD_eq_getLsbD, hk, BitVec.getLsbD_twoPow]
      omega
  · have h' : w - 1 - k ≠ w - 1 - i := by omega
    cases v <;> simp [BitVec.getMsbD_eq_getLsbD, hk, h, BitVec.getLsbD_twoPow, h'.symm]
    omega

/-- Bit `k` of a merge. -/
@[simp] theorem merge_getMsbD {w : Nat} (m y x : BitVec w) (k : Nat) :
    (merge m y x).getMsbD k = if m.getMsbD k then y.getMsbD k else x.getMsbD k := by
  simp only [merge]
  by_cases hk : k < w
  · cases h : m.getMsbD k <;> simp [h, hk]
  · have h : w ≤ k := by omega
    simp [BitVec.getMsbD_of_ge _ _ h]

/-- Bit `k` of a field of `n` bits from bit `a` on. -/
theorem slice_getMsbD {w : Nat} (n : Nat) (x : BitVec w) (a k : Nat) (h : a + n ≤ w) (hk : k < n) :
    (slice n x a).getMsbD k = x.getMsbD (a + k) := by
  have h1 : n - 1 - k < n := by omega
  have h2 : a + k < w := by omega
  have h3 : w - a - n + (n - 1 - k) = w - 1 - (a + k) := by omega
  simp [slice, BitVec.getMsbD_eq_getLsbD, hk, h1, h2, h3]

/-- Two bit vectors with the same bits, counted from the most significant, are equal. -/
theorem eq_of_getMsbD {w : Nat} (x y : BitVec w) (h : ∀ k, k < w → x.getMsbD k = y.getMsbD k) : x = y :=
  BitVec.eq_of_getMsbD_eq (fun k hk => h k hk)

/-! ## CR -/

/-- Bit `j` of a word whose field `f` is `v`. -/
theorem fieldWord_getMsbD (f : BitVec 3) (v : BitVec 4) (j : Nat) (hj : j < 32) :
    (fieldWord f v).getMsbD j = (decide (j / 4 = f.toNat) && v.getMsbD (j % 4)) := by
  have hf : f.toNat < 8 := f.isLt
  have h4 : j % 4 < 4 := Nat.mod_lt _ (by decide)
  simp only [fieldWord, BitVec.getMsbD_eq_getLsbD, hj, h4, BitVec.getLsbD_shiftLeft, BitVec.getLsbD_setWidth,
    decide_true, Bool.true_and]
  by_cases h : j / 4 = f.toNat
  · have e : 32 - 1 - j - (28 - 4 * f.toNat) = 4 - 1 - j % 4 := by omega
    have g : ¬ 32 - 1 - j < 28 - 4 * f.toNat := by omega
    have l : 32 - 1 - j < 32 := by omega
    have l2 : 4 - 1 - j % 4 < 32 := by omega
    simp [h, e, g, l, l2]
  · by_cases g : 32 - 1 - j < 28 - 4 * f.toNat
    · simp [h, g]
    · have : 4 ≤ 32 - 1 - j - (28 - 4 * f.toNat) := by omega
      simp [h, BitVec.getLsbD_of_ge v _ this]

/-- Bit `j` of a word with field `f` replaced by `v`. -/
theorem putField_getMsbD (w : Word) (f : BitVec 3) (v : BitVec 4) (j : Nat) (hj : j < 32) :
    (putField w f v).getMsbD j = if j / 4 = f.toNat then v.getMsbD (j % 4) else w.getMsbD j := by
  have h4 : j % 4 < 4 := Nat.mod_lt _ (by decide)
  have ones : (0xF : BitVec 4).getMsbD (j % 4) = true := by
    have : ∀ k : Fin 4, (0xF : BitVec 4).getMsbD k.val = true := by decide
    exact this ⟨j % 4, h4⟩
  simp only [putField, merge_getMsbD, fieldWord_getMsbD _ _ _ hj, ones, Bool.and_true, decide_eq_true_eq]
  split <;> simp_all

/-- A CR field after a write of one. -/
@[simp] theorem State.setCrField_crField (s : State) (f q : BitVec 3) (v : BitVec 4) :
    (s.setCrField f v).crField q = if q = f then v else s.crField q := by
  have hq : q.toNat < 8 := q.isLt
  apply eq_of_getMsbD
  intro k hk
  simp only [State.crField, State.setCrField, slice_getMsbD 4 _ _ _ (by omega : 4 * q.toNat + 4 ≤ 32) hk]
  rw [putField_getMsbD _ _ _ _ (by omega)]
  have e : q = f ↔ (4 * q.toNat + k) / 4 = f.toNat :=
    ⟨fun h => by subst h; omega, fun h => BitVec.eq_of_toNat_eq (by omega)⟩
  have m : (4 * q.toNat + k) % 4 = k := by omega
  rw [m]
  by_cases h : q = f
  · rw [if_pos (e.mp h), if_pos h]
  · rw [if_neg (fun x => h (e.mpr x)), if_neg h, slice_getMsbD 4 _ _ _ (by omega : 4 * q.toNat + 4 ≤ 32) hk]

/-- A CR bit after a write of one. -/
@[simp] theorem State.setCrBit_crBit (s : State) (i q : BitVec 5) (v : Bool) :
    (s.setCrBit i v).crBit q = if q = i then v else s.crBit q := by
  have hi : i.toNat < 32 := i.isLt
  have hq : q.toNat < 32 := q.isLt
  simp only [State.crBit, State.setCrBit, putBit_getMsbD _ _ _ _ hi hq]
  by_cases h : q = i
  · simp [h]
  · rw [if_neg h, if_neg (fun e => h (BitVec.eq_of_toNat_eq e))]

/-- LT, GT, EQ and SO of a signed comparison. -/
theorem orderField_slt {w : Nat} (a b : BitVec w) (so : Bool) :
    orderField (a.slt b) (b.slt a) so = orderOf a.toInt b.toInt so := by
  simp only [orderField, orderOf, BitVec.slt]
  by_cases h : a.toInt < b.toInt
  · have : ¬ b.toInt < a.toInt := by omega
    cases so <;> simp [h, this] <;> decide
  · by_cases g : b.toInt < a.toInt
    · cases so <;> simp [h, g] <;> decide
    · cases so <;> simp [h, g] <;> decide

/-- LT, GT, EQ and SO of an unsigned comparison. -/
theorem orderField_ult {w : Nat} (a b : BitVec w) (so : Bool) :
    orderField (a.ult b) (b.ult a) so = orderOf a.toNat b.toNat so := by
  simp only [orderField, orderOf, BitVec.ult]
  by_cases h : a.toNat < b.toNat
  · have g : ¬ b.toNat < a.toNat := by omega
    have h' : (a.toNat : Int) < b.toNat := by omega
    cases so <;> simp [h, g, h'] <;> decide
  · by_cases g : b.toNat < a.toNat
    · have h' : ¬ (a.toNat : Int) < b.toNat := by omega
      have g' : (b.toNat : Int) < a.toNat := by omega
      cases so <;> simp [h, g, h', g'] <;> decide
    · have h' : ¬ (a.toNat : Int) < b.toNat := by omega
      have g' : ¬ (b.toNat : Int) < a.toNat := by omega
      cases so <;> simp [h, g, h', g'] <;> decide

/-- CR0 of a recorded result compares it with 0. -/
theorem State.recordCr0_crField (s : State) (v : Dword) (q : BitVec 3) :
    (s.recordCr0 v).crField q = if q = 0 then orderOf (s.signedPart v) 0 s.so else s.crField q := by
  have : signField s.mode64 v s.so = orderOf (s.signedPart v) 0 s.so := by
    simp only [signField, State.signedPart]
    split
    · simpa using orderField_slt v 0 s.so
    · simpa using orderField_slt (low v) 0 s.so
  simp only [State.recordCr0, State.setCrField_crField, this]

/-- A recorded CR0, if it is recorded. -/
theorem State.recordIf_crField (s : State) (rc : Bool) (v : Dword) (q : BitVec 3) :
    (s.recordIf rc v).crField q = if q = 0 ∧ rc = true then orderOf (s.signedPart v) 0 s.so else s.crField q := by
  cases rc <;> simp [State.recordIf, State.recordCr0_crField]

/-! ## XER -/

@[simp] theorem State.setCa_ca (s : State) (c : Bool) : (s.setCa c).ca = c := by simp [State.ca, State.setCa]
@[simp] theorem State.setCa_so (s : State) (c : Bool) : (s.setCa c).so = s.so := by simp [State.so, State.setCa]
@[simp] theorem State.setCa_ov (s : State) (c : Bool) : (s.setCa c).ov = s.ov := by simp [State.ov, State.setCa]
@[simp] theorem State.setOv_ca (s : State) (v : Bool) : (s.setOv v).ca = s.ca := by
  cases v <;> simp [State.ca, State.setOv]
@[simp] theorem State.setOv_so (s : State) (v : Bool) : (s.setOv v).so = (s.so || v) := by
  cases v <;> simp [State.so, State.setOv]
@[simp] theorem State.setOv_ov (s : State) (v : Bool) : (s.setOv v).ov = v := by
  cases v <;> simp [State.ov, State.setOv]

/-- The other bits of the XER stay. -/
theorem State.setCa_xer (s : State) (c : Bool) : (s.setCa c).xer &&& 0x1FFFFFFF#32 = s.xer &&& 0x1FFFFFFF#32 := by
  apply eq_of_getMsbD
  intro k hk
  have : (0x1FFFFFFF#32).getMsbD k = decide (3 ≤ k) := by
    have h : ∀ k : Fin 32, (0x1FFFFFFF#32).getMsbD k.val = decide (3 ≤ k.val) := by decide
    exact h ⟨k, hk⟩
  simp only [State.setCa, BitVec.getMsbD_and, this, putBit_getMsbD _ _ _ _ (by decide : 2 < 32) hk]
  by_cases h : k = 2 <;> simp [h]

/-- The other bits of the XER stay. -/
theorem State.setOv_xer (s : State) (v : Bool) : (s.setOv v).xer &&& 0x1FFFFFFF#32 = s.xer &&& 0x1FFFFFFF#32 := by
  apply eq_of_getMsbD
  intro k hk
  have : (0x1FFFFFFF#32).getMsbD k = decide (3 ≤ k) := by
    have h : ∀ k : Fin 32, (0x1FFFFFFF#32).getMsbD k.val = decide (3 ≤ k.val) := by decide
    exact h ⟨k, hk⟩
  cases v <;> simp only [State.setOv, BitVec.getMsbD_and, this, putBit_getMsbD _ _ _ _ (by decide : 1 < 32) hk,
    putBit_getMsbD _ _ _ _ (by decide : 0 < 32) hk, if_true, Bool.false_eq_true, if_false] <;>
    by_cases h : k = 1 <;> by_cases g : k = 0 <;> simp [h, g]

/-! ## FPSCR -/

/-- Bit `k` of a word with its summary bits recomputed. -/
theorem fpscrSummary_getMsbD (f : Word) (k : Nat) (hk : k < 32) : (fpscrSummary f).getMsbD k =
    if k = 1 then fpscrFex (fpscrVx f) f else if k = 2 then fpscrVx f else f.getMsbD k := by
  simp only [fpscrSummary, putBit_getMsbD _ _ _ _ (by decide : 1 < 32) hk, putBit_getMsbD _ _ _ _ (by decide : 2 < 32) hk]

/-- The bits that VX summarises do not include the summary bits. -/
theorem fpscrVx_summary (f : Word) : fpscrVx (fpscrSummary f) = fpscrVx f := by
  have : fpscrSummary f &&& 0x01F80700 = f &&& 0x01F80700 := by
    apply eq_of_getMsbD
    intro k hk
    simp only [BitVec.getMsbD_and, fpscrSummary_getMsbD _ _ hk]
    by_cases h : k = 1
    · subst h; simp
    · by_cases g : k = 2
      · subst g; simp
      · simp [h, g]
  simp only [fpscrVx, this]

/-- Recomputing the summary bits twice is recomputing them once. -/
@[simp] theorem fpscrSummary_idem (f : Word) : fpscrSummary (fpscrSummary f) = fpscrSummary f := by
  apply eq_of_getMsbD
  intro k hk
  simp only [fpscrSummary_getMsbD _ _ hk, fpscrVx_summary, fpscrFex, fpscrSummary_getMsbD _ _ (by decide : 24 < 32),
    fpscrSummary_getMsbD _ _ (by decide : 3 < 32), fpscrSummary_getMsbD _ _ (by decide : 25 < 32),
    fpscrSummary_getMsbD _ _ (by decide : 4 < 32), fpscrSummary_getMsbD _ _ (by decide : 26 < 32),
    fpscrSummary_getMsbD _ _ (by decide : 5 < 32), fpscrSummary_getMsbD _ _ (by decide : 27 < 32),
    fpscrSummary_getMsbD _ _ (by decide : 6 < 32), fpscrSummary_getMsbD _ _ (by decide : 28 < 32)]
  by_cases h : k = 1
  · simp [h]
  · by_cases g : k = 2 <;> simp [h, g]

/-- The bits of the FPSCR that an operation leaves: beside FX, FR, FI and FPRF, those of before and those raised. -/
theorem FpOut.fpscr_getMsbD (out : FpOut) (f : Word) (k : Nat) (hk : k < 32) (h0 : k ≠ 0) (h : k < 13 ∨ 19 < k) :
    (out.fpscr f).getMsbD k = (f ||| out.raised).getMsbD k := by
  have h1 : k ≠ 13 ∧ k ≠ 14 := by omega
  have hm : ∀ k : Fin 32, k.val < 13 ∨ 19 < k.val → (0x0001F000 : Word).getMsbD k.val = false := by decide
  have hn : ∀ k : Fin 32, k.val < 13 ∨ 19 < k.val → (~~~ (0x0001F000 : Word)).getMsbD k.val = true := by decide
  have hf : ∀ (g : Word) v, (putFprf g v).getMsbD k = g.getMsbD k := by
    intro g v
    cases v with
    | none => rfl
    | some c =>
      simp only [putFprf, merge, BitVec.getMsbD_or, BitVec.getMsbD_and, hm ⟨k, hk⟩ h, hn ⟨k, hk⟩ h, Bool.and_false,
        Bool.and_true, Bool.false_or]
  have hx : ∀ g : Word, (withFx f g).getMsbD k = g.getMsbD k := by
    intro g
    simp only [withFx]
    split
    · rfl
    · rw [putBit_getMsbD _ _ _ _ (by decide) hk, if_neg h0]
  rw [FpOut.fpscr, hx, hf, putBit_getMsbD _ _ _ _ (by decide) hk, putBit_getMsbD _ _ _ _ (by decide) hk, if_neg h1.2,
    if_neg h1.1]

/-- FEX after the updates of an operation. -/
theorem fpUpdate_fex (frd : BitVec 5) (single rc : Bool) (out : FpOut) (s : State) :
    (fpUpdate frd single rc out s).fpscr.getMsbD 1 = leavesFex s.fpscr out.raised := by
  have hs : (fpUpdate frd single rc out s).fpscr = fpscrSummary (out.fpscr s.fpscr) := by
    cases rc <;> cases h : out.value <;> simp [fpUpdate, State.recordCr1If, State.setResult, h, State.setFpscr]
  have hv : fpscrVx (out.fpscr s.fpscr) = fpscrVx (s.fpscr ||| out.raised) := by
    have hm : ∀ k : Fin 32, k.val = 0 ∨ (13 ≤ k.val ∧ k.val ≤ 19) → (0x01F80700 : Word).getMsbD k.val = false := by decide
    have : out.fpscr s.fpscr &&& 0x01F80700 = (s.fpscr ||| out.raised) &&& 0x01F80700 := by
      apply eq_of_getMsbD
      intro k hk
      simp only [BitVec.getMsbD_and]
      by_cases h : k = 0 ∨ (13 ≤ k ∧ k ≤ 19)
      · have := hm ⟨k, hk⟩ h
        simp_all
      · rw [FpOut.fpscr_getMsbD _ _ _ hk (by omega) (by omega)]
    simp only [fpscrVx, this]
  simp only [hs, fpscrSummary_getMsbD _ _ (by decide : 1 < 32), leavesFex, hv, fpscrFex, if_true,
    FpOut.fpscr_getMsbD out s.fpscr 24 (by decide) (by decide) (by decide),
    FpOut.fpscr_getMsbD out s.fpscr 3 (by decide) (by decide) (by decide),
    FpOut.fpscr_getMsbD out s.fpscr 25 (by decide) (by decide) (by decide),
    FpOut.fpscr_getMsbD out s.fpscr 4 (by decide) (by decide) (by decide),
    FpOut.fpscr_getMsbD out s.fpscr 26 (by decide) (by decide) (by decide),
    FpOut.fpscr_getMsbD out s.fpscr 5 (by decide) (by decide) (by decide),
    FpOut.fpscr_getMsbD out s.fpscr 27 (by decide) (by decide) (by decide),
    FpOut.fpscr_getMsbD out s.fpscr 6 (by decide) (by decide) (by decide),
    FpOut.fpscr_getMsbD out s.fpscr 28 (by decide) (by decide) (by decide)]

/-- Every write of the FPSCR leaves its summary bits right. -/
theorem State.setFpscr_summarised (s : State) (f : Word) : (s.setFpscr f).FpscrSummarised := fpscrSummary_idem f

/-- The bits that a host's answer raises stay as `answerWithin` leaves them. -/
theorem answerOut_raised (f affected : Word) (a : FpAnswer) :
    (answerOut f (answerWithin affected a)).raised = (answerWithin affected a).raised := by
  unfold answerOut; split <;> rfl

/-- A conversion raises only what its page lists, under every arithmetic (44 R350). -/
theorem convertResult_raised (kind : FpKind) (affected : Word) (b : Dword) (ref : Word → FpOut) (s : State) :
    (convertResult kind affected b ref s).raised &&& affected = (convertResult kind affected b ref s).raised := by
  unfold convertResult
  split
  · simp only [FpOut.within, BitVec.and_assoc, BitVec.and_self]
  · simp only [admitConversion, answerOut_raised]
    simp only [answerWithin, BitVec.and_assoc, BitVec.and_self]

/-- A conversion whose value the host may not choose has the reference instance's value wherever it has a
result, under every arithmetic (44 R350). -/
theorem admitConversion_value (kind : FpKind) (f affected : Word) (b : Dword) (bare : FpOut) (a : FpAnswer)
    (h : freeConversion kind b a.value = false) (v : Dword) (hv : (admitConversion kind f affected b bare a).value = some v) :
    v = bare.value.getD 0 := by
  simp only [admitConversion, answerOut] at hv
  split at hv
  · simp [FpOut.none] at hv
  · simpa [answerWithin, boundConversion, h] using hv.symm

end Sys2Proof.Machine
end

