-- ==== Sys2Proof/Laws/PerInstr.lean ====
section
/-!
SUPPORT. Statements for every instruction, one lemma per constructor. `EncodeFits`: the number of an instruction's word has
32 bits, so that no bit of `encodeNat` is lost in `encode`.
-/

namespace Sys2Proof.Laws

set_option Elab.async false

/-- A flag as a number. -/
theorem toNat_lt_two (b : Bool) : b.toNat < 2 := by cases b <;> decide

/-- The number of the word has 32 bits. -/
def EncodeFits.Statement (i : Instr) : Prop := encodeNat i < 2 ^ 32

theorem EncodeFits.addx (rd : BitVec 5) (ra : BitVec 5) (rb : BitVec 5) (oe : Bool) (rc : Bool) : Statement (.addx rd ra rb oe rc) := by
  have := rd.isLt
  have := ra.isLt
  have := rb.isLt
  have := toNat_lt_two oe
  have := toNat_lt_two rc
  simp only [Statement, encodeNat]; omega

theorem EncodeFits.addcx (rd : BitVec 5) (ra : BitVec 5) (rb : BitVec 5) (oe : Bool) (rc : Bool) : Statement (.addcx rd ra rb oe rc) := by
  have := rd.isLt
  have := ra.isLt
  have := rb.isLt
  have := toNat_lt_two oe
  have := toNat_lt_two rc
  simp only [Statement, encodeNat]; omega

theorem EncodeFits.addex (rd : BitVec 5) (ra : BitVec 5) (rb : BitVec 5) (oe : Bool) (rc : Bool) : Statement (.addex rd ra rb oe rc) := by
  have := rd.isLt
  have := ra.isLt
  have := rb.isLt
  have := toNat_lt_two oe
  have := toNat_lt_two rc
  simp only [Statement, encodeNat]; omega

theorem EncodeFits.addi (rd : BitVec 5) (ra : BitVec 5) (simm : BitVec 16) : Statement (.addi rd ra simm) := by
  have := rd.isLt
  have := ra.isLt
  have := simm.isLt
  simp only [Statement, encodeNat]; omega

theorem EncodeFits.addic (rd : BitVec 5) (ra : BitVec 5) (simm : BitVec 16) : Statement (.addic rd ra simm) := by
  have := rd.isLt
  have := ra.isLt
  have := simm.isLt
  simp only [Statement, encodeNat]; omega

theorem EncodeFits.addicDot (rd : BitVec 5) (ra : BitVec 5) (simm : BitVec 16) : Statement (.addicDot rd ra simm) := by
  have := rd.isLt
  have := ra.isLt
  have := simm.isLt
  simp only [Statement, encodeNat]; omega

theorem EncodeFits.addis (rd : BitVec 5) (ra : BitVec 5) (simm : BitVec 16) : Statement (.addis rd ra simm) := by
  have := rd.isLt
  have := ra.isLt
  have := simm.isLt
  simp only [Statement, encodeNat]; omega

theorem EncodeFits.addmex (rd : BitVec 5) (ra : BitVec 5) (oe : Bool) (rc : Bool) : Statement (.addmex rd ra oe rc) := by
  have := rd.isLt
  have := ra.isLt
  have := toNat_lt_two oe
  have := toNat_lt_two rc
  simp only [Statement, encodeNat]; omega

theorem EncodeFits.addzex (rd : BitVec 5) (ra : BitVec 5) (oe : Bool) (rc : Bool) : Statement (.addzex rd ra oe rc) := by
  have := rd.isLt
  have := ra.isLt
  have := toNat_lt_two oe
  have := toNat_lt_two rc
  simp only [Statement, encodeNat]; omega

theorem EncodeFits.subfx (rd : BitVec 5) (ra : BitVec 5) (rb : BitVec 5) (oe : Bool) (rc : Bool) : Statement (.subfx rd ra rb oe rc) := by
  have := rd.isLt
  have := ra.isLt
  have := rb.isLt
  have := toNat_lt_two oe
  have := toNat_lt_two rc
  simp only [Statement, encodeNat]; omega

theorem EncodeFits.subfcx (rd : BitVec 5) (ra : BitVec 5) (rb : BitVec 5) (oe : Bool) (rc : Bool) : Statement (.subfcx rd ra rb oe rc) := by
  have := rd.isLt
  have := ra.isLt
  have := rb.isLt
  have := toNat_lt_two oe
  have := toNat_lt_two rc
  simp only [Statement, encodeNat]; omega

theorem EncodeFits.subfex (rd : BitVec 5) (ra : BitVec 5) (rb : BitVec 5) (oe : Bool) (rc : Bool) : Statement (.subfex rd ra rb oe rc) := by
  have := rd.isLt
  have := ra.isLt
  have := rb.isLt
  have := toNat_lt_two oe
  have := toNat_lt_two rc
  simp only [Statement, encodeNat]; omega

theorem EncodeFits.subfic (rd : BitVec 5) (ra : BitVec 5) (simm : BitVec 16) : Statement (.subfic rd ra simm) := by
  have := rd.isLt
  have := ra.isLt
  have := simm.isLt
  simp only [Statement, encodeNat]; omega

theorem EncodeFits.subfmex (rd : BitVec 5) (ra : BitVec 5) (oe : Bool) (rc : Bool) : Statement (.subfmex rd ra oe rc) := by
  have := rd.isLt
  have := ra.isLt
  have := toNat_lt_two oe
  have := toNat_lt_two rc
  simp only [Statement, encodeNat]; omega

theorem EncodeFits.subfzex (rd : BitVec 5) (ra : BitVec 5) (oe : Bool) (rc : Bool) : Statement (.subfzex rd ra oe rc) := by
  have := rd.isLt
  have := ra.isLt
  have := toNat_lt_two oe
  have := toNat_lt_two rc
  simp only [Statement, encodeNat]; omega

theorem EncodeFits.negx (rd : BitVec 5) (ra : BitVec 5) (oe : Bool) (rc : Bool) : Statement (.negx rd ra oe rc) := by
  have := rd.isLt
  have := ra.isLt
  have := toNat_lt_two oe
  have := toNat_lt_two rc
  simp only [Statement, encodeNat]; omega

theorem EncodeFits.mulli (rd : BitVec 5) (ra : BitVec 5) (simm : BitVec 16) : Statement (.mulli rd ra simm) := by
  have := rd.isLt
  have := ra.isLt
  have := simm.isLt
  simp only [Statement, encodeNat]; omega

theorem EncodeFits.mullwx (rd : BitVec 5) (ra : BitVec 5) (rb : BitVec 5) (oe : Bool) (rc : Bool) : Statement (.mullwx rd ra rb oe rc) := by
  have := rd.isLt
  have := ra.isLt
  have := rb.isLt
  have := toNat_lt_two oe
  have := toNat_lt_two rc
  simp only [Statement, encodeNat]; omega

theorem EncodeFits.mulhwx (rd : BitVec 5) (ra : BitVec 5) (rb : BitVec 5) (rc : Bool) : Statement (.mulhwx rd ra rb rc) := by
  have := rd.isLt
  have := ra.isLt
  have := rb.isLt
  have := toNat_lt_two rc
  simp only [Statement, encodeNat]; omega

theorem EncodeFits.mulhwux (rd : BitVec 5) (ra : BitVec 5) (rb : BitVec 5) (rc : Bool) : Statement (.mulhwux rd ra rb rc) := by
  have := rd.isLt
  have := ra.isLt
  have := rb.isLt
  have := toNat_lt_two rc
  simp only [Statement, encodeNat]; omega

theorem EncodeFits.mulldx (rd : BitVec 5) (ra : BitVec 5) (rb : BitVec 5) (oe : Bool) (rc : Bool) : Statement (.mulldx rd ra rb oe rc) := by
  have := rd.isLt
  have := ra.isLt
  have := rb.isLt
  have := toNat_lt_two oe
  have := toNat_lt_two rc
  simp only [Statement, encodeNat]; omega

theorem EncodeFits.mulhdx (rd : BitVec 5) (ra : BitVec 5) (rb : BitVec 5) (rc : Bool) : Statement (.mulhdx rd ra rb rc) := by
  have := rd.isLt
  have := ra.isLt
  have := rb.isLt
  have := toNat_lt_two rc
  simp only [Statement, encodeNat]; omega

theorem EncodeFits.mulhdux (rd : BitVec 5) (ra : BitVec 5) (rb : BitVec 5) (rc : Bool) : Statement (.mulhdux rd ra rb rc) := by
  have := rd.isLt
  have := ra.isLt
  have := rb.isLt
  have := toNat_lt_two rc
  simp only [Statement, encodeNat]; omega

theorem EncodeFits.divwx (rd : BitVec 5) (ra : BitVec 5) (rb : BitVec 5) (oe : Bool) (rc : Bool) : Statement (.divwx rd ra rb oe rc) := by
  have := rd.isLt
  have := ra.isLt
  have := rb.isLt
  have := toNat_lt_two oe
  have := toNat_lt_two rc
  simp only [Statement, encodeNat]; omega

theorem EncodeFits.divwux (rd : BitVec 5) (ra : BitVec 5) (rb : BitVec 5) (oe : Bool) (rc : Bool) : Statement (.divwux rd ra rb oe rc) := by
  have := rd.isLt
  have := ra.isLt
  have := rb.isLt
  have := toNat_lt_two oe
  have := toNat_lt_two rc
  simp only [Statement, encodeNat]; omega

theorem EncodeFits.divdx (rd : BitVec 5) (ra : BitVec 5) (rb : BitVec 5) (oe : Bool) (rc : Bool) : Statement (.divdx rd ra rb oe rc) := by
  have := rd.isLt
  have := ra.isLt
  have := rb.isLt
  have := toNat_lt_two oe
  have := toNat_lt_two rc
  simp only [Statement, encodeNat]; omega

theorem EncodeFits.divdux (rd : BitVec 5) (ra : BitVec 5) (rb : BitVec 5) (oe : Bool) (rc : Bool) : Statement (.divdux rd ra rb oe rc) := by
  have := rd.isLt
  have := ra.isLt
  have := rb.isLt
  have := toNat_lt_two oe
  have := toNat_lt_two rc
  simp only [Statement, encodeNat]; omega

theorem EncodeFits.cmpi (crfd : BitVec 3) (l : Bool) (ra : BitVec 5) (simm : BitVec 16) : Statement (.cmpi crfd l ra simm) := by
  have := crfd.isLt
  have := toNat_lt_two l
  have := ra.isLt
  have := simm.isLt
  simp only [Statement, encodeNat]; omega

theorem EncodeFits.cmp (crfd : BitVec 3) (l : Bool) (ra : BitVec 5) (rb : BitVec 5) : Statement (.cmp crfd l ra rb) := by
  have := crfd.isLt
  have := toNat_lt_two l
  have := ra.isLt
  have := rb.isLt
  simp only [Statement, encodeNat]; omega

theorem EncodeFits.cmpli (crfd : BitVec 3) (l : Bool) (ra : BitVec 5) (uimm : BitVec 16) : Statement (.cmpli crfd l ra uimm) := by
  have := crfd.isLt
  have := toNat_lt_two l
  have := ra.isLt
  have := uimm.isLt
  simp only [Statement, encodeNat]; omega

theorem EncodeFits.cmpl (crfd : BitVec 3) (l : Bool) (ra : BitVec 5) (rb : BitVec 5) : Statement (.cmpl crfd l ra rb) := by
  have := crfd.isLt
  have := toNat_lt_two l
  have := ra.isLt
  have := rb.isLt
  simp only [Statement, encodeNat]; omega

theorem EncodeFits.andiDot (rs : BitVec 5) (ra : BitVec 5) (uimm : BitVec 16) : Statement (.andiDot rs ra uimm) := by
  have := rs.isLt
  have := ra.isLt
  have := uimm.isLt
  simp only [Statement, encodeNat]; omega

theorem EncodeFits.andisDot (rs : BitVec 5) (ra : BitVec 5) (uimm : BitVec 16) : Statement (.andisDot rs ra uimm) := by
  have := rs.isLt
  have := ra.isLt
  have := uimm.isLt
  simp only [Statement, encodeNat]; omega

theorem EncodeFits.ori (rs : BitVec 5) (ra : BitVec 5) (uimm : BitVec 16) : Statement (.ori rs ra uimm) := by
  have := rs.isLt
  have := ra.isLt
  have := uimm.isLt
  simp only [Statement, encodeNat]; omega

theorem EncodeFits.oris (rs : BitVec 5) (ra : BitVec 5) (uimm : BitVec 16) : Statement (.oris rs ra uimm) := by
  have := rs.isLt
  have := ra.isLt
  have := uimm.isLt
  simp only [Statement, encodeNat]; omega

theorem EncodeFits.xori (rs : BitVec 5) (ra : BitVec 5) (uimm : BitVec 16) : Statement (.xori rs ra uimm) := by
  have := rs.isLt
  have := ra.isLt
  have := uimm.isLt
  simp only [Statement, encodeNat]; omega

theorem EncodeFits.xoris (rs : BitVec 5) (ra : BitVec 5) (uimm : BitVec 16) : Statement (.xoris rs ra uimm) := by
  have := rs.isLt
  have := ra.isLt
  have := uimm.isLt
  simp only [Statement, encodeNat]; omega

theorem EncodeFits.andx (rs : BitVec 5) (ra : BitVec 5) (rb : BitVec 5) (rc : Bool) : Statement (.andx rs ra rb rc) := by
  have := rs.isLt
  have := ra.isLt
  have := rb.isLt
  have := toNat_lt_two rc
  simp only [Statement, encodeNat]; omega

theorem EncodeFits.orx (rs : BitVec 5) (ra : BitVec 5) (rb : BitVec 5) (rc : Bool) : Statement (.orx rs ra rb rc) := by
  have := rs.isLt
  have := ra.isLt
  have := rb.isLt
  have := toNat_lt_two rc
  simp only [Statement, encodeNat]; omega

theorem EncodeFits.xorx (rs : BitVec 5) (ra : BitVec 5) (rb : BitVec 5) (rc : Bool) : Statement (.xorx rs ra rb rc) := by
  have := rs.isLt
  have := ra.isLt
  have := rb.isLt
  have := toNat_lt_two rc
  simp only [Statement, encodeNat]; omega

theorem EncodeFits.nandx (rs : BitVec 5) (ra : BitVec 5) (rb : BitVec 5) (rc : Bool) : Statement (.nandx rs ra rb rc) := by
  have := rs.isLt
  have := ra.isLt
  have := rb.isLt
  have := toNat_lt_two rc
  simp only [Statement, encodeNat]; omega

theorem EncodeFits.norx (rs : BitVec 5) (ra : BitVec 5) (rb : BitVec 5) (rc : Bool) : Statement (.norx rs ra rb rc) := by
  have := rs.isLt
  have := ra.isLt
  have := rb.isLt
  have := toNat_lt_two rc
  simp only [Statement, encodeNat]; omega

theorem EncodeFits.eqvx (rs : BitVec 5) (ra : BitVec 5) (rb : BitVec 5) (rc : Bool) : Statement (.eqvx rs ra rb rc) := by
  have := rs.isLt
  have := ra.isLt
  have := rb.isLt
  have := toNat_lt_two rc
  simp only [Statement, encodeNat]; omega

theorem EncodeFits.andcx (rs : BitVec 5) (ra : BitVec 5) (rb : BitVec 5) (rc : Bool) : Statement (.andcx rs ra rb rc) := by
  have := rs.isLt
  have := ra.isLt
  have := rb.isLt
  have := toNat_lt_two rc
  simp only [Statement, encodeNat]; omega

theorem EncodeFits.orcx (rs : BitVec 5) (ra : BitVec 5) (rb : BitVec 5) (rc : Bool) : Statement (.orcx rs ra rb rc) := by
  have := rs.isLt
  have := ra.isLt
  have := rb.isLt
  have := toNat_lt_two rc
  simp only [Statement, encodeNat]; omega

theorem EncodeFits.extsbx (rs : BitVec 5) (ra : BitVec 5) (rc : Bool) : Statement (.extsbx rs ra rc) := by
  have := rs.isLt
  have := ra.isLt
  have := toNat_lt_two rc
  simp only [Statement, encodeNat]; omega

theorem EncodeFits.extshx (rs : BitVec 5) (ra : BitVec 5) (rc : Bool) : Statement (.extshx rs ra rc) := by
  have := rs.isLt
  have := ra.isLt
  have := toNat_lt_two rc
  simp only [Statement, encodeNat]; omega

theorem EncodeFits.extswx (rs : BitVec 5) (ra : BitVec 5) (rc : Bool) : Statement (.extswx rs ra rc) := by
  have := rs.isLt
  have := ra.isLt
  have := toNat_lt_two rc
  simp only [Statement, encodeNat]; omega

theorem EncodeFits.cntlzwx (rs : BitVec 5) (ra : BitVec 5) (rc : Bool) : Statement (.cntlzwx rs ra rc) := by
  have := rs.isLt
  have := ra.isLt
  have := toNat_lt_two rc
  simp only [Statement, encodeNat]; omega

theorem EncodeFits.cntlzdx (rs : BitVec 5) (ra : BitVec 5) (rc : Bool) : Statement (.cntlzdx rs ra rc) := by
  have := rs.isLt
  have := ra.isLt
  have := toNat_lt_two rc
  simp only [Statement, encodeNat]; omega

theorem EncodeFits.rlwinmx (rs : BitVec 5) (ra : BitVec 5) (sh : BitVec 5) (mb : BitVec 5) (me : BitVec 5) (rc : Bool) : Statement (.rlwinmx rs ra sh mb me rc) := by
  have := rs.isLt
  have := ra.isLt
  have := sh.isLt
  have := mb.isLt
  have := me.isLt
  have := toNat_lt_two rc
  simp only [Statement, encodeNat]; omega

theorem EncodeFits.rlwnmx (rs : BitVec 5) (ra : BitVec 5) (rb : BitVec 5) (mb : BitVec 5) (me : BitVec 5) (rc : Bool) : Statement (.rlwnmx rs ra rb mb me rc) := by
  have := rs.isLt
  have := ra.isLt
  have := rb.isLt
  have := mb.isLt
  have := me.isLt
  have := toNat_lt_two rc
  simp only [Statement, encodeNat]; omega

theorem EncodeFits.rlwimix (rs : BitVec 5) (ra : BitVec 5) (sh : BitVec 5) (mb : BitVec 5) (me : BitVec 5) (rc : Bool) : Statement (.rlwimix rs ra sh mb me rc) := by
  have := rs.isLt
  have := ra.isLt
  have := sh.isLt
  have := mb.isLt
  have := me.isLt
  have := toNat_lt_two rc
  simp only [Statement, encodeNat]; omega

theorem EncodeFits.rldiclx (rs : BitVec 5) (ra : BitVec 5) (sh : BitVec 6) (mb : BitVec 6) (rc : Bool) : Statement (.rldiclx rs ra sh mb rc) := by
  have := rs.isLt
  have := ra.isLt
  have := sh.isLt
  have := mb.isLt
  have := toNat_lt_two rc
  simp only [Statement, encodeNat]; omega

theorem EncodeFits.rldicrx (rs : BitVec 5) (ra : BitVec 5) (sh : BitVec 6) (me : BitVec 6) (rc : Bool) : Statement (.rldicrx rs ra sh me rc) := by
  have := rs.isLt
  have := ra.isLt
  have := sh.isLt
  have := me.isLt
  have := toNat_lt_two rc
  simp only [Statement, encodeNat]; omega

theorem EncodeFits.rldicx (rs : BitVec 5) (ra : BitVec 5) (sh : BitVec 6) (mb : BitVec 6) (rc : Bool) : Statement (.rldicx rs ra sh mb rc) := by
  have := rs.isLt
  have := ra.isLt
  have := sh.isLt
  have := mb.isLt
  have := toNat_lt_two rc
  simp only [Statement, encodeNat]; omega

theorem EncodeFits.rldimix (rs : BitVec 5) (ra : BitVec 5) (sh : BitVec 6) (mb : BitVec 6) (rc : Bool) : Statement (.rldimix rs ra sh mb rc) := by
  have := rs.isLt
  have := ra.isLt
  have := sh.isLt
  have := mb.isLt
  have := toNat_lt_two rc
  simp only [Statement, encodeNat]; omega

theorem EncodeFits.rldclx (rs : BitVec 5) (ra : BitVec 5) (rb : BitVec 5) (mb : BitVec 6) (rc : Bool) : Statement (.rldclx rs ra rb mb rc) := by
  have := rs.isLt
  have := ra.isLt
  have := rb.isLt
  have := mb.isLt
  have := toNat_lt_two rc
  simp only [Statement, encodeNat]; omega

theorem EncodeFits.rldcrx (rs : BitVec 5) (ra : BitVec 5) (rb : BitVec 5) (me : BitVec 6) (rc : Bool) : Statement (.rldcrx rs ra rb me rc) := by
  have := rs.isLt
  have := ra.isLt
  have := rb.isLt
  have := me.isLt
  have := toNat_lt_two rc
  simp only [Statement, encodeNat]; omega

theorem EncodeFits.slwx (rs : BitVec 5) (ra : BitVec 5) (rb : BitVec 5) (rc : Bool) : Statement (.slwx rs ra rb rc) := by
  have := rs.isLt
  have := ra.isLt
  have := rb.isLt
  have := toNat_lt_two rc
  simp only [Statement, encodeNat]; omega

theorem EncodeFits.srwx (rs : BitVec 5) (ra : BitVec 5) (rb : BitVec 5) (rc : Bool) : Statement (.srwx rs ra rb rc) := by
  have := rs.isLt
  have := ra.isLt
  have := rb.isLt
  have := toNat_lt_two rc
  simp only [Statement, encodeNat]; omega

theorem EncodeFits.srawx (rs : BitVec 5) (ra : BitVec 5) (rb : BitVec 5) (rc : Bool) : Statement (.srawx rs ra rb rc) := by
  have := rs.isLt
  have := ra.isLt
  have := rb.isLt
  have := toNat_lt_two rc
  simp only [Statement, encodeNat]; omega

theorem EncodeFits.srawix (rs : BitVec 5) (ra : BitVec 5) (sh : BitVec 5) (rc : Bool) : Statement (.srawix rs ra sh rc) := by
  have := rs.isLt
  have := ra.isLt
  have := sh.isLt
  have := toNat_lt_two rc
  simp only [Statement, encodeNat]; omega

theorem EncodeFits.sldx (rs : BitVec 5) (ra : BitVec 5) (rb : BitVec 5) (rc : Bool) : Statement (.sldx rs ra rb rc) := by
  have := rs.isLt
  have := ra.isLt
  have := rb.isLt
  have := toNat_lt_two rc
  simp only [Statement, encodeNat]; omega

theorem EncodeFits.srdx (rs : BitVec 5) (ra : BitVec 5) (rb : BitVec 5) (rc : Bool) : Statement (.srdx rs ra rb rc) := by
  have := rs.isLt
  have := ra.isLt
  have := rb.isLt
  have := toNat_lt_two rc
  simp only [Statement, encodeNat]; omega

theorem EncodeFits.sradx (rs : BitVec 5) (ra : BitVec 5) (rb : BitVec 5) (rc : Bool) : Statement (.sradx rs ra rb rc) := by
  have := rs.isLt
  have := ra.isLt
  have := rb.isLt
  have := toNat_lt_two rc
  simp only [Statement, encodeNat]; omega

theorem EncodeFits.sradix (rs : BitVec 5) (ra : BitVec 5) (sh : BitVec 6) (rc : Bool) : Statement (.sradix rs ra sh rc) := by
  have := rs.isLt
  have := ra.isLt
  have := sh.isLt
  have := toNat_lt_two rc
  simp only [Statement, encodeNat]; omega

theorem EncodeFits.faddx (frd : BitVec 5) (fra : BitVec 5) (frb : BitVec 5) (rc : Bool) : Statement (.faddx frd fra frb rc) := by
  have := frd.isLt
  have := fra.isLt
  have := frb.isLt
  have := toNat_lt_two rc
  simp only [Statement, encodeNat]; omega

theorem EncodeFits.faddsx (frd : BitVec 5) (fra : BitVec 5) (frb : BitVec 5) (rc : Bool) : Statement (.faddsx frd fra frb rc) := by
  have := frd.isLt
  have := fra.isLt
  have := frb.isLt
  have := toNat_lt_two rc
  simp only [Statement, encodeNat]; omega

theorem EncodeFits.fsubx (frd : BitVec 5) (fra : BitVec 5) (frb : BitVec 5) (rc : Bool) : Statement (.fsubx frd fra frb rc) := by
  have := frd.isLt
  have := fra.isLt
  have := frb.isLt
  have := toNat_lt_two rc
  simp only [Statement, encodeNat]; omega

theorem EncodeFits.fsubsx (frd : BitVec 5) (fra : BitVec 5) (frb : BitVec 5) (rc : Bool) : Statement (.fsubsx frd fra frb rc) := by
  have := frd.isLt
  have := fra.isLt
  have := frb.isLt
  have := toNat_lt_two rc
  simp only [Statement, encodeNat]; omega

theorem EncodeFits.fmulx (frd : BitVec 5) (fra : BitVec 5) (frc : BitVec 5) (rc : Bool) : Statement (.fmulx frd fra frc rc) := by
  have := frd.isLt
  have := fra.isLt
  have := frc.isLt
  have := toNat_lt_two rc
  simp only [Statement, encodeNat]; omega

theorem EncodeFits.fmulsx (frd : BitVec 5) (fra : BitVec 5) (frc : BitVec 5) (rc : Bool) : Statement (.fmulsx frd fra frc rc) := by
  have := frd.isLt
  have := fra.isLt
  have := frc.isLt
  have := toNat_lt_two rc
  simp only [Statement, encodeNat]; omega

theorem EncodeFits.fdivx (frd : BitVec 5) (fra : BitVec 5) (frb : BitVec 5) (rc : Bool) : Statement (.fdivx frd fra frb rc) := by
  have := frd.isLt
  have := fra.isLt
  have := frb.isLt
  have := toNat_lt_two rc
  simp only [Statement, encodeNat]; omega

theorem EncodeFits.fdivsx (frd : BitVec 5) (fra : BitVec 5) (frb : BitVec 5) (rc : Bool) : Statement (.fdivsx frd fra frb rc) := by
  have := frd.isLt
  have := fra.isLt
  have := frb.isLt
  have := toNat_lt_two rc
  simp only [Statement, encodeNat]; omega

theorem EncodeFits.fsqrtx (frd : BitVec 5) (frb : BitVec 5) (rc : Bool) : Statement (.fsqrtx frd frb rc) := by
  have := frd.isLt
  have := frb.isLt
  have := toNat_lt_two rc
  simp only [Statement, encodeNat]; omega

theorem EncodeFits.fsqrtsx (frd : BitVec 5) (frb : BitVec 5) (rc : Bool) : Statement (.fsqrtsx frd frb rc) := by
  have := frd.isLt
  have := frb.isLt
  have := toNat_lt_two rc
  simp only [Statement, encodeNat]; omega

theorem EncodeFits.fresx (frd : BitVec 5) (frb : BitVec 5) (rc : Bool) : Statement (.fresx frd frb rc) := by
  have := frd.isLt
  have := frb.isLt
  have := toNat_lt_two rc
  simp only [Statement, encodeNat]; omega

theorem EncodeFits.frsqrtex (frd : BitVec 5) (frb : BitVec 5) (rc : Bool) : Statement (.frsqrtex frd frb rc) := by
  have := frd.isLt
  have := frb.isLt
  have := toNat_lt_two rc
  simp only [Statement, encodeNat]; omega

theorem EncodeFits.fselx (frd : BitVec 5) (fra : BitVec 5) (frb : BitVec 5) (frc : BitVec 5) (rc : Bool) : Statement (.fselx frd fra frb frc rc) := by
  have := frd.isLt
  have := fra.isLt
  have := frb.isLt
  have := frc.isLt
  have := toNat_lt_two rc
  simp only [Statement, encodeNat]; omega

theorem EncodeFits.fmaddx (frd : BitVec 5) (fra : BitVec 5) (frb : BitVec 5) (frc : BitVec 5) (rc : Bool) : Statement (.fmaddx frd fra frb frc rc) := by
  have := frd.isLt
  have := fra.isLt
  have := frb.isLt
  have := frc.isLt
  have := toNat_lt_two rc
  simp only [Statement, encodeNat]; omega

theorem EncodeFits.fmaddsx (frd : BitVec 5) (fra : BitVec 5) (frb : BitVec 5) (frc : BitVec 5) (rc : Bool) : Statement (.fmaddsx frd fra frb frc rc) := by
  have := frd.isLt
  have := fra.isLt
  have := frb.isLt
  have := frc.isLt
  have := toNat_lt_two rc
  simp only [Statement, encodeNat]; omega

theorem EncodeFits.fmsubx (frd : BitVec 5) (fra : BitVec 5) (frb : BitVec 5) (frc : BitVec 5) (rc : Bool) : Statement (.fmsubx frd fra frb frc rc) := by
  have := frd.isLt
  have := fra.isLt
  have := frb.isLt
  have := frc.isLt
  have := toNat_lt_two rc
  simp only [Statement, encodeNat]; omega

theorem EncodeFits.fmsubsx (frd : BitVec 5) (fra : BitVec 5) (frb : BitVec 5) (frc : BitVec 5) (rc : Bool) : Statement (.fmsubsx frd fra frb frc rc) := by
  have := frd.isLt
  have := fra.isLt
  have := frb.isLt
  have := frc.isLt
  have := toNat_lt_two rc
  simp only [Statement, encodeNat]; omega

theorem EncodeFits.fnmaddx (frd : BitVec 5) (fra : BitVec 5) (frb : BitVec 5) (frc : BitVec 5) (rc : Bool) : Statement (.fnmaddx frd fra frb frc rc) := by
  have := frd.isLt
  have := fra.isLt
  have := frb.isLt
  have := frc.isLt
  have := toNat_lt_two rc
  simp only [Statement, encodeNat]; omega

theorem EncodeFits.fnmaddsx (frd : BitVec 5) (fra : BitVec 5) (frb : BitVec 5) (frc : BitVec 5) (rc : Bool) : Statement (.fnmaddsx frd fra frb frc rc) := by
  have := frd.isLt
  have := fra.isLt
  have := frb.isLt
  have := frc.isLt
  have := toNat_lt_two rc
  simp only [Statement, encodeNat]; omega

theorem EncodeFits.fnmsubx (frd : BitVec 5) (fra : BitVec 5) (frb : BitVec 5) (frc : BitVec 5) (rc : Bool) : Statement (.fnmsubx frd fra frb frc rc) := by
  have := frd.isLt
  have := fra.isLt
  have := frb.isLt
  have := frc.isLt
  have := toNat_lt_two rc
  simp only [Statement, encodeNat]; omega

theorem EncodeFits.fnmsubsx (frd : BitVec 5) (fra : BitVec 5) (frb : BitVec 5) (frc : BitVec 5) (rc : Bool) : Statement (.fnmsubsx frd fra frb frc rc) := by
  have := frd.isLt
  have := fra.isLt
  have := frb.isLt
  have := frc.isLt
  have := toNat_lt_two rc
  simp only [Statement, encodeNat]; omega

theorem EncodeFits.fmrx (frd : BitVec 5) (frb : BitVec 5) (rc : Bool) : Statement (.fmrx frd frb rc) := by
  have := frd.isLt
  have := frb.isLt
  have := toNat_lt_two rc
  simp only [Statement, encodeNat]; omega

theorem EncodeFits.fnegx (frd : BitVec 5) (frb : BitVec 5) (rc : Bool) : Statement (.fnegx frd frb rc) := by
  have := frd.isLt
  have := frb.isLt
  have := toNat_lt_two rc
  simp only [Statement, encodeNat]; omega

theorem EncodeFits.fabsx (frd : BitVec 5) (frb : BitVec 5) (rc : Bool) : Statement (.fabsx frd frb rc) := by
  have := frd.isLt
  have := frb.isLt
  have := toNat_lt_two rc
  simp only [Statement, encodeNat]; omega

theorem EncodeFits.fnabsx (frd : BitVec 5) (frb : BitVec 5) (rc : Bool) : Statement (.fnabsx frd frb rc) := by
  have := frd.isLt
  have := frb.isLt
  have := toNat_lt_two rc
  simp only [Statement, encodeNat]; omega

theorem EncodeFits.frspx (frd : BitVec 5) (frb : BitVec 5) (rc : Bool) : Statement (.frspx frd frb rc) := by
  have := frd.isLt
  have := frb.isLt
  have := toNat_lt_two rc
  simp only [Statement, encodeNat]; omega

theorem EncodeFits.fctiwx (frd : BitVec 5) (frb : BitVec 5) (rc : Bool) : Statement (.fctiwx frd frb rc) := by
  have := frd.isLt
  have := frb.isLt
  have := toNat_lt_two rc
  simp only [Statement, encodeNat]; omega

theorem EncodeFits.fctiwzx (frd : BitVec 5) (frb : BitVec 5) (rc : Bool) : Statement (.fctiwzx frd frb rc) := by
  have := frd.isLt
  have := frb.isLt
  have := toNat_lt_two rc
  simp only [Statement, encodeNat]; omega

theorem EncodeFits.fctidx (frd : BitVec 5) (frb : BitVec 5) (rc : Bool) : Statement (.fctidx frd frb rc) := by
  have := frd.isLt
  have := frb.isLt
  have := toNat_lt_two rc
  simp only [Statement, encodeNat]; omega

theorem EncodeFits.fctidzx (frd : BitVec 5) (frb : BitVec 5) (rc : Bool) : Statement (.fctidzx frd frb rc) := by
  have := frd.isLt
  have := frb.isLt
  have := toNat_lt_two rc
  simp only [Statement, encodeNat]; omega

theorem EncodeFits.fcfidx (frd : BitVec 5) (frb : BitVec 5) (rc : Bool) : Statement (.fcfidx frd frb rc) := by
  have := frd.isLt
  have := frb.isLt
  have := toNat_lt_two rc
  simp only [Statement, encodeNat]; omega

theorem EncodeFits.fcmpu (crfd : BitVec 3) (fra : BitVec 5) (frb : BitVec 5) : Statement (.fcmpu crfd fra frb) := by
  have := crfd.isLt
  have := fra.isLt
  have := frb.isLt
  simp only [Statement, encodeNat]; omega

theorem EncodeFits.fcmpo (crfd : BitVec 3) (fra : BitVec 5) (frb : BitVec 5) : Statement (.fcmpo crfd fra frb) := by
  have := crfd.isLt
  have := fra.isLt
  have := frb.isLt
  simp only [Statement, encodeNat]; omega

theorem EncodeFits.mffsx (frd : BitVec 5) (rc : Bool) : Statement (.mffsx frd rc) := by
  have := frd.isLt
  have := toNat_lt_two rc
  simp only [Statement, encodeNat]; omega

theorem EncodeFits.mcrfs (crfd : BitVec 3) (crfs : BitVec 3) : Statement (.mcrfs crfd crfs) := by
  have := crfd.isLt
  have := crfs.isLt
  simp only [Statement, encodeNat]; omega

theorem EncodeFits.mtfsfx (fm : BitVec 8) (frb : BitVec 5) (rc : Bool) : Statement (.mtfsfx fm frb rc) := by
  have := fm.isLt
  have := frb.isLt
  have := toNat_lt_two rc
  simp only [Statement, encodeNat]; omega

theorem EncodeFits.mtfsfix (crfd : BitVec 3) (imm : BitVec 4) (rc : Bool) : Statement (.mtfsfix crfd imm rc) := by
  have := crfd.isLt
  have := imm.isLt
  have := toNat_lt_two rc
  simp only [Statement, encodeNat]; omega

theorem EncodeFits.mtfsb0x (crbd : BitVec 5) (rc : Bool) : Statement (.mtfsb0x crbd rc) := by
  have := crbd.isLt
  have := toNat_lt_two rc
  simp only [Statement, encodeNat]; omega

theorem EncodeFits.mtfsb1x (crbd : BitVec 5) (rc : Bool) : Statement (.mtfsb1x crbd rc) := by
  have := crbd.isLt
  have := toNat_lt_two rc
  simp only [Statement, encodeNat]; omega

theorem EncodeFits.lbz (rd : BitVec 5) (ra : BitVec 5) (d : BitVec 16) : Statement (.lbz rd ra d) := by
  have := rd.isLt
  have := ra.isLt
  have := d.isLt
  simp only [Statement, encodeNat]; omega

theorem EncodeFits.lbzu (rd : BitVec 5) (ra : BitVec 5) (d : BitVec 16) : Statement (.lbzu rd ra d) := by
  have := rd.isLt
  have := ra.isLt
  have := d.isLt
  simp only [Statement, encodeNat]; omega

theorem EncodeFits.lbzx (rd : BitVec 5) (ra : BitVec 5) (rb : BitVec 5) : Statement (.lbzx rd ra rb) := by
  have := rd.isLt
  have := ra.isLt
  have := rb.isLt
  simp only [Statement, encodeNat]; omega

theorem EncodeFits.lbzux (rd : BitVec 5) (ra : BitVec 5) (rb : BitVec 5) : Statement (.lbzux rd ra rb) := by
  have := rd.isLt
  have := ra.isLt
  have := rb.isLt
  simp only [Statement, encodeNat]; omega

theorem EncodeFits.lhz (rd : BitVec 5) (ra : BitVec 5) (d : BitVec 16) : Statement (.lhz rd ra d) := by
  have := rd.isLt
  have := ra.isLt
  have := d.isLt
  simp only [Statement, encodeNat]; omega

theorem EncodeFits.lhzu (rd : BitVec 5) (ra : BitVec 5) (d : BitVec 16) : Statement (.lhzu rd ra d) := by
  have := rd.isLt
  have := ra.isLt
  have := d.isLt
  simp only [Statement, encodeNat]; omega

theorem EncodeFits.lhzx (rd : BitVec 5) (ra : BitVec 5) (rb : BitVec 5) : Statement (.lhzx rd ra rb) := by
  have := rd.isLt
  have := ra.isLt
  have := rb.isLt
  simp only [Statement, encodeNat]; omega

theorem EncodeFits.lhzux (rd : BitVec 5) (ra : BitVec 5) (rb : BitVec 5) : Statement (.lhzux rd ra rb) := by
  have := rd.isLt
  have := ra.isLt
  have := rb.isLt
  simp only [Statement, encodeNat]; omega

theorem EncodeFits.lha (rd : BitVec 5) (ra : BitVec 5) (d : BitVec 16) : Statement (.lha rd ra d) := by
  have := rd.isLt
  have := ra.isLt
  have := d.isLt
  simp only [Statement, encodeNat]; omega

theorem EncodeFits.lhau (rd : BitVec 5) (ra : BitVec 5) (d : BitVec 16) : Statement (.lhau rd ra d) := by
  have := rd.isLt
  have := ra.isLt
  have := d.isLt
  simp only [Statement, encodeNat]; omega

theorem EncodeFits.lhax (rd : BitVec 5) (ra : BitVec 5) (rb : BitVec 5) : Statement (.lhax rd ra rb) := by
  have := rd.isLt
  have := ra.isLt
  have := rb.isLt
  simp only [Statement, encodeNat]; omega

theorem EncodeFits.lhaux (rd : BitVec 5) (ra : BitVec 5) (rb : BitVec 5) : Statement (.lhaux rd ra rb) := by
  have := rd.isLt
  have := ra.isLt
  have := rb.isLt
  simp only [Statement, encodeNat]; omega

theorem EncodeFits.lwz (rd : BitVec 5) (ra : BitVec 5) (d : BitVec 16) : Statement (.lwz rd ra d) := by
  have := rd.isLt
  have := ra.isLt
  have := d.isLt
  simp only [Statement, encodeNat]; omega

theorem EncodeFits.lwzu (rd : BitVec 5) (ra : BitVec 5) (d : BitVec 16) : Statement (.lwzu rd ra d) := by
  have := rd.isLt
  have := ra.isLt
  have := d.isLt
  simp only [Statement, encodeNat]; omega

theorem EncodeFits.lwzx (rd : BitVec 5) (ra : BitVec 5) (rb : BitVec 5) : Statement (.lwzx rd ra rb) := by
  have := rd.isLt
  have := ra.isLt
  have := rb.isLt
  simp only [Statement, encodeNat]; omega

theorem EncodeFits.lwzux (rd : BitVec 5) (ra : BitVec 5) (rb : BitVec 5) : Statement (.lwzux rd ra rb) := by
  have := rd.isLt
  have := ra.isLt
  have := rb.isLt
  simp only [Statement, encodeNat]; omega

theorem EncodeFits.lwa (rd : BitVec 5) (ra : BitVec 5) (ds : BitVec 14) : Statement (.lwa rd ra ds) := by
  have := rd.isLt
  have := ra.isLt
  have := ds.isLt
  simp only [Statement, encodeNat]; omega

theorem EncodeFits.lwax (rd : BitVec 5) (ra : BitVec 5) (rb : BitVec 5) : Statement (.lwax rd ra rb) := by
  have := rd.isLt
  have := ra.isLt
  have := rb.isLt
  simp only [Statement, encodeNat]; omega

theorem EncodeFits.lwaux (rd : BitVec 5) (ra : BitVec 5) (rb : BitVec 5) : Statement (.lwaux rd ra rb) := by
  have := rd.isLt
  have := ra.isLt
  have := rb.isLt
  simp only [Statement, encodeNat]; omega

theorem EncodeFits.ld (rd : BitVec 5) (ra : BitVec 5) (ds : BitVec 14) : Statement (.ld rd ra ds) := by
  have := rd.isLt
  have := ra.isLt
  have := ds.isLt
  simp only [Statement, encodeNat]; omega

theorem EncodeFits.ldu (rd : BitVec 5) (ra : BitVec 5) (ds : BitVec 14) : Statement (.ldu rd ra ds) := by
  have := rd.isLt
  have := ra.isLt
  have := ds.isLt
  simp only [Statement, encodeNat]; omega

theorem EncodeFits.ldx (rd : BitVec 5) (ra : BitVec 5) (rb : BitVec 5) : Statement (.ldx rd ra rb) := by
  have := rd.isLt
  have := ra.isLt
  have := rb.isLt
  simp only [Statement, encodeNat]; omega

theorem EncodeFits.ldux (rd : BitVec 5) (ra : BitVec 5) (rb : BitVec 5) : Statement (.ldux rd ra rb) := by
  have := rd.isLt
  have := ra.isLt
  have := rb.isLt
  simp only [Statement, encodeNat]; omega

theorem EncodeFits.stb (rs : BitVec 5) (ra : BitVec 5) (d : BitVec 16) : Statement (.stb rs ra d) := by
  have := rs.isLt
  have := ra.isLt
  have := d.isLt
  simp only [Statement, encodeNat]; omega

theorem EncodeFits.stbu (rs : BitVec 5) (ra : BitVec 5) (d : BitVec 16) : Statement (.stbu rs ra d) := by
  have := rs.isLt
  have := ra.isLt
  have := d.isLt
  simp only [Statement, encodeNat]; omega

theorem EncodeFits.stbx (rs : BitVec 5) (ra : BitVec 5) (rb : BitVec 5) : Statement (.stbx rs ra rb) := by
  have := rs.isLt
  have := ra.isLt
  have := rb.isLt
  simp only [Statement, encodeNat]; omega

theorem EncodeFits.stbux (rs : BitVec 5) (ra : BitVec 5) (rb : BitVec 5) : Statement (.stbux rs ra rb) := by
  have := rs.isLt
  have := ra.isLt
  have := rb.isLt
  simp only [Statement, encodeNat]; omega

theorem EncodeFits.sth (rs : BitVec 5) (ra : BitVec 5) (d : BitVec 16) : Statement (.sth rs ra d) := by
  have := rs.isLt
  have := ra.isLt
  have := d.isLt
  simp only [Statement, encodeNat]; omega

theorem EncodeFits.sthu (rs : BitVec 5) (ra : BitVec 5) (d : BitVec 16) : Statement (.sthu rs ra d) := by
  have := rs.isLt
  have := ra.isLt
  have := d.isLt
  simp only [Statement, encodeNat]; omega

theorem EncodeFits.sthx (rs : BitVec 5) (ra : BitVec 5) (rb : BitVec 5) : Statement (.sthx rs ra rb) := by
  have := rs.isLt
  have := ra.isLt
  have := rb.isLt
  simp only [Statement, encodeNat]; omega

theorem EncodeFits.sthux (rs : BitVec 5) (ra : BitVec 5) (rb : BitVec 5) : Statement (.sthux rs ra rb) := by
  have := rs.isLt
  have := ra.isLt
  have := rb.isLt
  simp only [Statement, encodeNat]; omega

theorem EncodeFits.stw (rs : BitVec 5) (ra : BitVec 5) (d : BitVec 16) : Statement (.stw rs ra d) := by
  have := rs.isLt
  have := ra.isLt
  have := d.isLt
  simp only [Statement, encodeNat]; omega

theorem EncodeFits.stwu (rs : BitVec 5) (ra : BitVec 5) (d : BitVec 16) : Statement (.stwu rs ra d) := by
  have := rs.isLt
  have := ra.isLt
  have := d.isLt
  simp only [Statement, encodeNat]; omega

theorem EncodeFits.stwx (rs : BitVec 5) (ra : BitVec 5) (rb : BitVec 5) : Statement (.stwx rs ra rb) := by
  have := rs.isLt
  have := ra.isLt
  have := rb.isLt
  simp only [Statement, encodeNat]; omega

theorem EncodeFits.stwux (rs : BitVec 5) (ra : BitVec 5) (rb : BitVec 5) : Statement (.stwux rs ra rb) := by
  have := rs.isLt
  have := ra.isLt
  have := rb.isLt
  simp only [Statement, encodeNat]; omega

theorem EncodeFits.std (rs : BitVec 5) (ra : BitVec 5) (ds : BitVec 14) : Statement (.std rs ra ds) := by
  have := rs.isLt
  have := ra.isLt
  have := ds.isLt
  simp only [Statement, encodeNat]; omega

theorem EncodeFits.stdu (rs : BitVec 5) (ra : BitVec 5) (ds : BitVec 14) : Statement (.stdu rs ra ds) := by
  have := rs.isLt
  have := ra.isLt
  have := ds.isLt
  simp only [Statement, encodeNat]; omega

theorem EncodeFits.stdx (rs : BitVec 5) (ra : BitVec 5) (rb : BitVec 5) : Statement (.stdx rs ra rb) := by
  have := rs.isLt
  have := ra.isLt
  have := rb.isLt
  simp only [Statement, encodeNat]; omega

theorem EncodeFits.stdux (rs : BitVec 5) (ra : BitVec 5) (rb : BitVec 5) : Statement (.stdux rs ra rb) := by
  have := rs.isLt
  have := ra.isLt
  have := rb.isLt
  simp only [Statement, encodeNat]; omega

theorem EncodeFits.lhbrx (rd : BitVec 5) (ra : BitVec 5) (rb : BitVec 5) : Statement (.lhbrx rd ra rb) := by
  have := rd.isLt
  have := ra.isLt
  have := rb.isLt
  simp only [Statement, encodeNat]; omega

theorem EncodeFits.lwbrx (rd : BitVec 5) (ra : BitVec 5) (rb : BitVec 5) : Statement (.lwbrx rd ra rb) := by
  have := rd.isLt
  have := ra.isLt
  have := rb.isLt
  simp only [Statement, encodeNat]; omega

theorem EncodeFits.sthbrx (rs : BitVec 5) (ra : BitVec 5) (rb : BitVec 5) : Statement (.sthbrx rs ra rb) := by
  have := rs.isLt
  have := ra.isLt
  have := rb.isLt
  simp only [Statement, encodeNat]; omega

theorem EncodeFits.stwbrx (rs : BitVec 5) (ra : BitVec 5) (rb : BitVec 5) : Statement (.stwbrx rs ra rb) := by
  have := rs.isLt
  have := ra.isLt
  have := rb.isLt
  simp only [Statement, encodeNat]; omega

theorem EncodeFits.lmw (rd : BitVec 5) (ra : BitVec 5) (d : BitVec 16) : Statement (.lmw rd ra d) := by
  have := rd.isLt
  have := ra.isLt
  have := d.isLt
  simp only [Statement, encodeNat]; omega

theorem EncodeFits.stmw (rs : BitVec 5) (ra : BitVec 5) (d : BitVec 16) : Statement (.stmw rs ra d) := by
  have := rs.isLt
  have := ra.isLt
  have := d.isLt
  simp only [Statement, encodeNat]; omega

theorem EncodeFits.lswi (rd : BitVec 5) (ra : BitVec 5) (nb : BitVec 5) : Statement (.lswi rd ra nb) := by
  have := rd.isLt
  have := ra.isLt
  have := nb.isLt
  simp only [Statement, encodeNat]; omega

theorem EncodeFits.lswx (rd : BitVec 5) (ra : BitVec 5) (rb : BitVec 5) : Statement (.lswx rd ra rb) := by
  have := rd.isLt
  have := ra.isLt
  have := rb.isLt
  simp only [Statement, encodeNat]; omega

theorem EncodeFits.stswi (rs : BitVec 5) (ra : BitVec 5) (nb : BitVec 5) : Statement (.stswi rs ra nb) := by
  have := rs.isLt
  have := ra.isLt
  have := nb.isLt
  simp only [Statement, encodeNat]; omega

theorem EncodeFits.stswx (rs : BitVec 5) (ra : BitVec 5) (rb : BitVec 5) : Statement (.stswx rs ra rb) := by
  have := rs.isLt
  have := ra.isLt
  have := rb.isLt
  simp only [Statement, encodeNat]; omega

theorem EncodeFits.lfs (frd : BitVec 5) (ra : BitVec 5) (d : BitVec 16) : Statement (.lfs frd ra d) := by
  have := frd.isLt
  have := ra.isLt
  have := d.isLt
  simp only [Statement, encodeNat]; omega

theorem EncodeFits.lfsu (frd : BitVec 5) (ra : BitVec 5) (d : BitVec 16) : Statement (.lfsu frd ra d) := by
  have := frd.isLt
  have := ra.isLt
  have := d.isLt
  simp only [Statement, encodeNat]; omega

theorem EncodeFits.lfsx (frd : BitVec 5) (ra : BitVec 5) (rb : BitVec 5) : Statement (.lfsx frd ra rb) := by
  have := frd.isLt
  have := ra.isLt
  have := rb.isLt
  simp only [Statement, encodeNat]; omega

theorem EncodeFits.lfsux (frd : BitVec 5) (ra : BitVec 5) (rb : BitVec 5) : Statement (.lfsux frd ra rb) := by
  have := frd.isLt
  have := ra.isLt
  have := rb.isLt
  simp only [Statement, encodeNat]; omega

theorem EncodeFits.lfd (frd : BitVec 5) (ra : BitVec 5) (d : BitVec 16) : Statement (.lfd frd ra d) := by
  have := frd.isLt
  have := ra.isLt
  have := d.isLt
  simp only [Statement, encodeNat]; omega

theorem EncodeFits.lfdu (frd : BitVec 5) (ra : BitVec 5) (d : BitVec 16) : Statement (.lfdu frd ra d) := by
  have := frd.isLt
  have := ra.isLt
  have := d.isLt
  simp only [Statement, encodeNat]; omega

theorem EncodeFits.lfdx (frd : BitVec 5) (ra : BitVec 5) (rb : BitVec 5) : Statement (.lfdx frd ra rb) := by
  have := frd.isLt
  have := ra.isLt
  have := rb.isLt
  simp only [Statement, encodeNat]; omega

theorem EncodeFits.lfdux (frd : BitVec 5) (ra : BitVec 5) (rb : BitVec 5) : Statement (.lfdux frd ra rb) := by
  have := frd.isLt
  have := ra.isLt
  have := rb.isLt
  simp only [Statement, encodeNat]; omega

theorem EncodeFits.stfs (frs : BitVec 5) (ra : BitVec 5) (d : BitVec 16) : Statement (.stfs frs ra d) := by
  have := frs.isLt
  have := ra.isLt
  have := d.isLt
  simp only [Statement, encodeNat]; omega

theorem EncodeFits.stfsu (frs : BitVec 5) (ra : BitVec 5) (d : BitVec 16) : Statement (.stfsu frs ra d) := by
  have := frs.isLt
  have := ra.isLt
  have := d.isLt
  simp only [Statement, encodeNat]; omega

theorem EncodeFits.stfsx (frs : BitVec 5) (ra : BitVec 5) (rb : BitVec 5) : Statement (.stfsx frs ra rb) := by
  have := frs.isLt
  have := ra.isLt
  have := rb.isLt
  simp only [Statement, encodeNat]; omega

theorem EncodeFits.stfsux (frs : BitVec 5) (ra : BitVec 5) (rb : BitVec 5) : Statement (.stfsux frs ra rb) := by
  have := frs.isLt
  have := ra.isLt
  have := rb.isLt
  simp only [Statement, encodeNat]; omega

theorem EncodeFits.stfd (frs : BitVec 5) (ra : BitVec 5) (d : BitVec 16) : Statement (.stfd frs ra d) := by
  have := frs.isLt
  have := ra.isLt
  have := d.isLt
  simp only [Statement, encodeNat]; omega

theorem EncodeFits.stfdu (frs : BitVec 5) (ra : BitVec 5) (d : BitVec 16) : Statement (.stfdu frs ra d) := by
  have := frs.isLt
  have := ra.isLt
  have := d.isLt
  simp only [Statement, encodeNat]; omega

theorem EncodeFits.stfdx (frs : BitVec 5) (ra : BitVec 5) (rb : BitVec 5) : Statement (.stfdx frs ra rb) := by
  have := frs.isLt
  have := ra.isLt
  have := rb.isLt
  simp only [Statement, encodeNat]; omega

theorem EncodeFits.stfdux (frs : BitVec 5) (ra : BitVec 5) (rb : BitVec 5) : Statement (.stfdux frs ra rb) := by
  have := frs.isLt
  have := ra.isLt
  have := rb.isLt
  simp only [Statement, encodeNat]; omega

theorem EncodeFits.stfiwx (frs : BitVec 5) (ra : BitVec 5) (rb : BitVec 5) : Statement (.stfiwx frs ra rb) := by
  have := frs.isLt
  have := ra.isLt
  have := rb.isLt
  simp only [Statement, encodeNat]; omega

theorem EncodeFits.bx (li : BitVec 24) (aa : Bool) (lk : Bool) : Statement (.bx li aa lk) := by
  have := li.isLt
  have := toNat_lt_two aa
  have := toNat_lt_two lk
  simp only [Statement, encodeNat]; omega

theorem EncodeFits.bcx (bo : BitVec 5) (bi : BitVec 5) (bd : BitVec 14) (aa : Bool) (lk : Bool) : Statement (.bcx bo bi bd aa lk) := by
  have := bo.isLt
  have := bi.isLt
  have := bd.isLt
  have := toNat_lt_two aa
  have := toNat_lt_two lk
  simp only [Statement, encodeNat]; omega

theorem EncodeFits.bclrx (bo : BitVec 5) (bi : BitVec 5) (lk : Bool) : Statement (.bclrx bo bi lk) := by
  have := bo.isLt
  have := bi.isLt
  have := toNat_lt_two lk
  simp only [Statement, encodeNat]; omega

theorem EncodeFits.bcctrx (bo : BitVec 5) (bi : BitVec 5) (lk : Bool) : Statement (.bcctrx bo bi lk) := by
  have := bo.isLt
  have := bi.isLt
  have := toNat_lt_two lk
  simp only [Statement, encodeNat]; omega

theorem EncodeFits.crand (crbd : BitVec 5) (crba : BitVec 5) (crbb : BitVec 5) : Statement (.crand crbd crba crbb) := by
  have := crbd.isLt
  have := crba.isLt
  have := crbb.isLt
  simp only [Statement, encodeNat]; omega

theorem EncodeFits.cror (crbd : BitVec 5) (crba : BitVec 5) (crbb : BitVec 5) : Statement (.cror crbd crba crbb) := by
  have := crbd.isLt
  have := crba.isLt
  have := crbb.isLt
  simp only [Statement, encodeNat]; omega

theorem EncodeFits.crxor (crbd : BitVec 5) (crba : BitVec 5) (crbb : BitVec 5) : Statement (.crxor crbd crba crbb) := by
  have := crbd.isLt
  have := crba.isLt
  have := crbb.isLt
  simp only [Statement, encodeNat]; omega

theorem EncodeFits.crnand (crbd : BitVec 5) (crba : BitVec 5) (crbb : BitVec 5) : Statement (.crnand crbd crba crbb) := by
  have := crbd.isLt
  have := crba.isLt
  have := crbb.isLt
  simp only [Statement, encodeNat]; omega

theorem EncodeFits.crnor (crbd : BitVec 5) (crba : BitVec 5) (crbb : BitVec 5) : Statement (.crnor crbd crba crbb) := by
  have := crbd.isLt
  have := crba.isLt
  have := crbb.isLt
  simp only [Statement, encodeNat]; omega

theorem EncodeFits.creqv (crbd : BitVec 5) (crba : BitVec 5) (crbb : BitVec 5) : Statement (.creqv crbd crba crbb) := by
  have := crbd.isLt
  have := crba.isLt
  have := crbb.isLt
  simp only [Statement, encodeNat]; omega

theorem EncodeFits.crandc (crbd : BitVec 5) (crba : BitVec 5) (crbb : BitVec 5) : Statement (.crandc crbd crba crbb) := by
  have := crbd.isLt
  have := crba.isLt
  have := crbb.isLt
  simp only [Statement, encodeNat]; omega

theorem EncodeFits.crorc (crbd : BitVec 5) (crba : BitVec 5) (crbb : BitVec 5) : Statement (.crorc crbd crba crbb) := by
  have := crbd.isLt
  have := crba.isLt
  have := crbb.isLt
  simp only [Statement, encodeNat]; omega

theorem EncodeFits.mcrf (crfd : BitVec 3) (crfs : BitVec 3) : Statement (.mcrf crfd crfs) := by
  have := crfd.isLt
  have := crfs.isLt
  simp only [Statement, encodeNat]; omega

theorem EncodeFits.sc : Statement .sc := by
  simp only [Statement, encodeNat]; omega

theorem EncodeFits.rfi : Statement .rfi := by
  simp only [Statement, encodeNat]; omega

theorem EncodeFits.rfid : Statement .rfid := by
  simp only [Statement, encodeNat]; omega

theorem EncodeFits.tw (tof : BitVec 5) (ra : BitVec 5) (rb : BitVec 5) : Statement (.tw tof ra rb) := by
  have := tof.isLt
  have := ra.isLt
  have := rb.isLt
  simp only [Statement, encodeNat]; omega

theorem EncodeFits.twi (tof : BitVec 5) (ra : BitVec 5) (simm : BitVec 16) : Statement (.twi tof ra simm) := by
  have := tof.isLt
  have := ra.isLt
  have := simm.isLt
  simp only [Statement, encodeNat]; omega

theorem EncodeFits.td (tof : BitVec 5) (ra : BitVec 5) (rb : BitVec 5) : Statement (.td tof ra rb) := by
  have := tof.isLt
  have := ra.isLt
  have := rb.isLt
  simp only [Statement, encodeNat]; omega

theorem EncodeFits.tdi (tof : BitVec 5) (ra : BitVec 5) (simm : BitVec 16) : Statement (.tdi tof ra simm) := by
  have := tof.isLt
  have := ra.isLt
  have := simm.isLt
  simp only [Statement, encodeNat]; omega

theorem EncodeFits.mfcr (rd : BitVec 5) : Statement (.mfcr rd) := by
  have := rd.isLt
  simp only [Statement, encodeNat]; omega

theorem EncodeFits.mtcrf (rs : BitVec 5) (crm : BitVec 8) : Statement (.mtcrf rs crm) := by
  have := rs.isLt
  have := crm.isLt
  simp only [Statement, encodeNat]; omega

theorem EncodeFits.mcrxr (crfd : BitVec 3) : Statement (.mcrxr crfd) := by
  have := crfd.isLt
  simp only [Statement, encodeNat]; omega

theorem EncodeFits.mfmsr (rd : BitVec 5) : Statement (.mfmsr rd) := by
  have := rd.isLt
  simp only [Statement, encodeNat]; omega

theorem EncodeFits.mtmsr (rs : BitVec 5) : Statement (.mtmsr rs) := by
  have := rs.isLt
  simp only [Statement, encodeNat]; omega

theorem EncodeFits.mtmsrd (rs : BitVec 5) : Statement (.mtmsrd rs) := by
  have := rs.isLt
  simp only [Statement, encodeNat]; omega

theorem EncodeFits.mfspr (rd : BitVec 5) (spr : BitVec 10) : Statement (.mfspr rd spr) := by
  have := rd.isLt
  have := spr.isLt
  simp only [Statement, encodeNat]; omega

theorem EncodeFits.mtspr (rs : BitVec 5) (spr : BitVec 10) : Statement (.mtspr rs spr) := by
  have := rs.isLt
  have := spr.isLt
  simp only [Statement, encodeNat]; omega

theorem EncodeFits.mftb (rd : BitVec 5) (tbr : BitVec 10) : Statement (.mftb rd tbr) := by
  have := rd.isLt
  have := tbr.isLt
  simp only [Statement, encodeNat]; omega

theorem EncodeFits.sync : Statement .sync := by
  simp only [Statement, encodeNat]; omega

theorem EncodeFits.isync : Statement .isync := by
  simp only [Statement, encodeNat]; omega

theorem EncodeFits.eieio : Statement .eieio := by
  simp only [Statement, encodeNat]; omega

theorem EncodeFits.lwarx (rd : BitVec 5) (ra : BitVec 5) (rb : BitVec 5) : Statement (.lwarx rd ra rb) := by
  have := rd.isLt
  have := ra.isLt
  have := rb.isLt
  simp only [Statement, encodeNat]; omega

theorem EncodeFits.ldarx (rd : BitVec 5) (ra : BitVec 5) (rb : BitVec 5) : Statement (.ldarx rd ra rb) := by
  have := rd.isLt
  have := ra.isLt
  have := rb.isLt
  simp only [Statement, encodeNat]; omega

theorem EncodeFits.stwcxDot (rs : BitVec 5) (ra : BitVec 5) (rb : BitVec 5) : Statement (.stwcxDot rs ra rb) := by
  have := rs.isLt
  have := ra.isLt
  have := rb.isLt
  simp only [Statement, encodeNat]; omega

theorem EncodeFits.stdcxDot (rs : BitVec 5) (ra : BitVec 5) (rb : BitVec 5) : Statement (.stdcxDot rs ra rb) := by
  have := rs.isLt
  have := ra.isLt
  have := rb.isLt
  simp only [Statement, encodeNat]; omega

theorem EncodeFits.dcbt (ra : BitVec 5) (rb : BitVec 5) : Statement (.dcbt ra rb) := by
  have := ra.isLt
  have := rb.isLt
  simp only [Statement, encodeNat]; omega

theorem EncodeFits.dcbtst (ra : BitVec 5) (rb : BitVec 5) : Statement (.dcbtst ra rb) := by
  have := ra.isLt
  have := rb.isLt
  simp only [Statement, encodeNat]; omega

theorem EncodeFits.dcbst (ra : BitVec 5) (rb : BitVec 5) : Statement (.dcbst ra rb) := by
  have := ra.isLt
  have := rb.isLt
  simp only [Statement, encodeNat]; omega

theorem EncodeFits.dcbf (ra : BitVec 5) (rb : BitVec 5) : Statement (.dcbf ra rb) := by
  have := ra.isLt
  have := rb.isLt
  simp only [Statement, encodeNat]; omega

theorem EncodeFits.dcbi (ra : BitVec 5) (rb : BitVec 5) : Statement (.dcbi ra rb) := by
  have := ra.isLt
  have := rb.isLt
  simp only [Statement, encodeNat]; omega

theorem EncodeFits.dcba (ra : BitVec 5) (rb : BitVec 5) : Statement (.dcba ra rb) := by
  have := ra.isLt
  have := rb.isLt
  simp only [Statement, encodeNat]; omega

theorem EncodeFits.dcbz (ra : BitVec 5) (rb : BitVec 5) : Statement (.dcbz ra rb) := by
  have := ra.isLt
  have := rb.isLt
  simp only [Statement, encodeNat]; omega

theorem EncodeFits.icbi (ra : BitVec 5) (rb : BitVec 5) : Statement (.icbi ra rb) := by
  have := ra.isLt
  have := rb.isLt
  simp only [Statement, encodeNat]; omega

theorem EncodeFits.eciwx (rd : BitVec 5) (ra : BitVec 5) (rb : BitVec 5) : Statement (.eciwx rd ra rb) := by
  have := rd.isLt
  have := ra.isLt
  have := rb.isLt
  simp only [Statement, encodeNat]; omega

theorem EncodeFits.ecowx (rs : BitVec 5) (ra : BitVec 5) (rb : BitVec 5) : Statement (.ecowx rs ra rb) := by
  have := rs.isLt
  have := ra.isLt
  have := rb.isLt
  simp only [Statement, encodeNat]; omega

theorem EncodeFits.mfsr (rd : BitVec 5) (sr : BitVec 4) : Statement (.mfsr rd sr) := by
  have := rd.isLt
  have := sr.isLt
  simp only [Statement, encodeNat]; omega

theorem EncodeFits.mfsrin (rd : BitVec 5) (rb : BitVec 5) : Statement (.mfsrin rd rb) := by
  have := rd.isLt
  have := rb.isLt
  simp only [Statement, encodeNat]; omega

theorem EncodeFits.mtsr (rs : BitVec 5) (sr : BitVec 4) : Statement (.mtsr rs sr) := by
  have := rs.isLt
  have := sr.isLt
  simp only [Statement, encodeNat]; omega

theorem EncodeFits.mtsrin (rs : BitVec 5) (rb : BitVec 5) : Statement (.mtsrin rs rb) := by
  have := rs.isLt
  have := rb.isLt
  simp only [Statement, encodeNat]; omega

theorem EncodeFits.mtsrd (rs : BitVec 5) (sr : BitVec 4) : Statement (.mtsrd rs sr) := by
  have := rs.isLt
  have := sr.isLt
  simp only [Statement, encodeNat]; omega

theorem EncodeFits.mtsrdin (rs : BitVec 5) (rb : BitVec 5) : Statement (.mtsrdin rs rb) := by
  have := rs.isLt
  have := rb.isLt
  simp only [Statement, encodeNat]; omega

theorem EncodeFits.slbia : Statement .slbia := by
  simp only [Statement, encodeNat]; omega

theorem EncodeFits.slbie (rb : BitVec 5) : Statement (.slbie rb) := by
  have := rb.isLt
  simp only [Statement, encodeNat]; omega

theorem EncodeFits.tlbia : Statement .tlbia := by
  simp only [Statement, encodeNat]; omega

theorem EncodeFits.tlbie (rb : BitVec 5) : Statement (.tlbie rb) := by
  have := rb.isLt
  simp only [Statement, encodeNat]; omega

theorem EncodeFits.tlbsync : Statement .tlbsync := by
  simp only [Statement, encodeNat]; omega

end Sys2Proof.Laws
end

