-- ==== Sys2Proof/Tests/Slice0.lean ====
section
/-!
SUPPORT. Tests. Expected results come from the spec: the encodings of 30_encoding and the opcode table, the vectors of
95, 96 and 97, or the rule a comment names. The witnesses at the end show states and operands that
meet the premises of the statements.
-/

namespace Sys2Proof.Tests

set_option Elab.async false

open Sys2Proof Sys2Proof.Machine

/-! ## Ill-formed instructions (30 R165): one for each check -/

/-- Update loads, rA = 0. -/
theorem test_ill_formed_update_load_ra0 : Instr.wellFormed true (.lbzu 3 0 4) = false := by decide

/-- Update loads, rA = rD. -/
theorem test_ill_formed_update_load_ra_rd : Instr.wellFormed true (.ldux 3 3 4) = false := by decide

/-- Update stores, rA = 0. -/
theorem test_ill_formed_update_store_ra0 : Instr.wellFormed true (.stwux 3 0 4) = false := by decide

/-- Floating-point update loads, rA = 0. -/
theorem test_ill_formed_float_update_load_ra0 : Instr.wellFormed true (.lfsu 1 0 4) = false := by decide

/-- Floating-point update stores, rA = 0. -/
theorem test_ill_formed_float_update_store_ra0 : Instr.wellFormed true (.stfdux 1 0 4) = false := by decide

/-- Lmw, rA in the range loaded. -/
theorem test_ill_formed_lmw_range : Instr.wellFormed true (.lmw 3 31 0) = false := by decide

/-- Lmw, rA = rD = 0. -/
theorem test_ill_formed_lmw_ra0 : Instr.wellFormed true (.lmw 0 0 0) = false := by decide

/-- Lswi, rA in the range, which wraps. -/
theorem test_ill_formed_lswi_range : Instr.wellFormed true (.lswi 31 0 5) = false := by decide

/-- Lswx, rB = rD. -/
theorem test_ill_formed_lswx_rb : Instr.wellFormed true (.lswx 3 4 3) = false := by decide

/-- Bcctr, BO[2] = 0. -/
theorem test_ill_formed_bcctr : Instr.wellFormed true (.bcctrx 16 0 false) = false := by decide

/-- Compares with L = 1 on a 32-bit implementation; they are well formed on a 64-bit one. -/
theorem test_ill_formed_compare :
    Instr.wellFormed false (.cmpi 0 true 3 5) = false ∧ Instr.wellFormed false (.cmp 0 true 3 5) = false ∧
      Instr.wellFormed false (.cmpli 0 true 3 5) = false ∧ Instr.wellFormed false (.cmpl 0 true 3 5) = false ∧
      Instr.wellFormed true (.cmpl 0 true 3 5) = true := by decide

/-! ## Decoding: a word for every constructor, put together from the row's opcode and the places of its fields -/

/-- 40_integer_arithmetic.md. -/
theorem test_decode_integer_arithmetic :
    decode 0x7C71F615 = .ok (.addx 3 17 30 true true) ∧
    decode 0x7C71F415 = .ok (.addcx 3 17 30 true true) ∧
    decode 0x7C71F515 = .ok (.addex 3 17 30 true true) ∧
    decode 0x38718001 = .ok (.addi 3 17 32769) ∧
    decode 0x30718001 = .ok (.addic 3 17 32769) ∧
    decode 0x34718001 = .ok (.addicDot 3 17 32769) ∧
    decode 0x3C718001 = .ok (.addis 3 17 32769) ∧
    decode 0x7C7105D5 = .ok (.addmex 3 17 true true) ∧
    decode 0x7C710595 = .ok (.addzex 3 17 true true) ∧
    decode 0x7C71F451 = .ok (.subfx 3 17 30 true true) ∧
    decode 0x7C71F411 = .ok (.subfcx 3 17 30 true true) ∧
    decode 0x7C71F511 = .ok (.subfex 3 17 30 true true) ∧
    decode 0x20718001 = .ok (.subfic 3 17 32769) ∧
    decode 0x7C7105D1 = .ok (.subfmex 3 17 true true) ∧
    decode 0x7C710591 = .ok (.subfzex 3 17 true true) ∧
    decode 0x7C7104D1 = .ok (.negx 3 17 true true) ∧
    decode 0x1C718001 = .ok (.mulli 3 17 32769) ∧
    decode 0x7C71F5D7 = .ok (.mullwx 3 17 30 true true) ∧
    decode 0x7C71F097 = .ok (.mulhwx 3 17 30 true) ∧
    decode 0x7C71F017 = .ok (.mulhwux 3 17 30 true) := by
  decide +kernel

/-- 40_integer_arithmetic.md. -/
theorem test_decode_integer_arithmetic_2 :
    decode 0x7C71F5D3 = .ok (.mulldx 3 17 30 true true) ∧
    decode 0x7C71F093 = .ok (.mulhdx 3 17 30 true) ∧
    decode 0x7C71F013 = .ok (.mulhdux 3 17 30 true) ∧
    decode 0x7C71F7D7 = .ok (.divwx 3 17 30 true true) ∧
    decode 0x7C71F797 = .ok (.divwux 3 17 30 true true) ∧
    decode 0x7C71F7D3 = .ok (.divdx 3 17 30 true true) ∧
    decode 0x7C71F793 = .ok (.divdux 3 17 30 true true) := by
  decide +kernel

/-- 41_integer_compare_logical.md. -/
theorem test_decode_integer_compare_logical :
    decode 0x2EA38001 = .ok (.cmpi 5 true 3 32769) ∧
    decode 0x7EA38800 = .ok (.cmp 5 true 3 17) ∧
    decode 0x2AA38001 = .ok (.cmpli 5 true 3 32769) ∧
    decode 0x7EA38840 = .ok (.cmpl 5 true 3 17) ∧
    decode 0x70718001 = .ok (.andiDot 3 17 32769) ∧
    decode 0x74718001 = .ok (.andisDot 3 17 32769) ∧
    decode 0x60718001 = .ok (.ori 3 17 32769) ∧
    decode 0x64718001 = .ok (.oris 3 17 32769) ∧
    decode 0x68718001 = .ok (.xori 3 17 32769) ∧
    decode 0x6C718001 = .ok (.xoris 3 17 32769) ∧
    decode 0x7C71F039 = .ok (.andx 3 17 30 true) ∧
    decode 0x7C71F379 = .ok (.orx 3 17 30 true) ∧
    decode 0x7C71F279 = .ok (.xorx 3 17 30 true) ∧
    decode 0x7C71F3B9 = .ok (.nandx 3 17 30 true) ∧
    decode 0x7C71F0F9 = .ok (.norx 3 17 30 true) ∧
    decode 0x7C71F239 = .ok (.eqvx 3 17 30 true) ∧
    decode 0x7C71F079 = .ok (.andcx 3 17 30 true) ∧
    decode 0x7C71F339 = .ok (.orcx 3 17 30 true) ∧
    decode 0x7C710775 = .ok (.extsbx 3 17 true) ∧
    decode 0x7C710735 = .ok (.extshx 3 17 true) := by
  decide +kernel

/-- 41_integer_compare_logical.md. -/
theorem test_decode_integer_compare_logical_2 :
    decode 0x7C7107B5 = .ok (.extswx 3 17 true) ∧
    decode 0x7C710035 = .ok (.cntlzwx 3 17 true) ∧
    decode 0x7C710075 = .ok (.cntlzdx 3 17 true) := by
  decide +kernel

/-- 42_integer_rotate_shift.md. -/
theorem test_decode_integer_rotate_shift :
    decode 0x5471F26B = .ok (.rlwinmx 3 17 30 9 21 true) ∧
    decode 0x5C71F26B = .ok (.rlwnmx 3 17 30 9 21 true) ∧
    decode 0x5071F26B = .ok (.rlwimix 3 17 30 9 21 true) ∧
    decode 0x78716CE3 = .ok (.rldiclx 3 17 45 51 true) ∧
    decode 0x78716CE7 = .ok (.rldicrx 3 17 45 51 true) ∧
    decode 0x78716CEB = .ok (.rldicx 3 17 45 51 true) ∧
    decode 0x78716CEF = .ok (.rldimix 3 17 45 51 true) ∧
    decode 0x7871F4F1 = .ok (.rldclx 3 17 30 51 true) ∧
    decode 0x7871F4F3 = .ok (.rldcrx 3 17 30 51 true) ∧
    decode 0x7C71F031 = .ok (.slwx 3 17 30 true) ∧
    decode 0x7C71F431 = .ok (.srwx 3 17 30 true) ∧
    decode 0x7C71F631 = .ok (.srawx 3 17 30 true) ∧
    decode 0x7C71F671 = .ok (.srawix 3 17 30 true) ∧
    decode 0x7C71F037 = .ok (.sldx 3 17 30 true) ∧
    decode 0x7C71F437 = .ok (.srdx 3 17 30 true) ∧
    decode 0x7C71F635 = .ok (.sradx 3 17 30 true) ∧
    decode 0x7C716E77 = .ok (.sradix 3 17 45 true) := by
  decide +kernel

/-- 43_float_arithmetic.md. -/
theorem test_decode_float_arithmetic :
    decode 0xFC71F02B = .ok (.faddx 3 17 30 true) ∧
    decode 0xEC71F02B = .ok (.faddsx 3 17 30 true) ∧
    decode 0xFC71F029 = .ok (.fsubx 3 17 30 true) ∧
    decode 0xEC71F029 = .ok (.fsubsx 3 17 30 true) ∧
    decode 0xFC7107B3 = .ok (.fmulx 3 17 30 true) ∧
    decode 0xEC7107B3 = .ok (.fmulsx 3 17 30 true) ∧
    decode 0xFC71F025 = .ok (.fdivx 3 17 30 true) ∧
    decode 0xEC71F025 = .ok (.fdivsx 3 17 30 true) ∧
    decode 0xFC60882D = .ok (.fsqrtx 3 17 true) ∧
    decode 0xEC60882D = .ok (.fsqrtsx 3 17 true) ∧
    decode 0xEC608831 = .ok (.fresx 3 17 true) ∧
    decode 0xFC608835 = .ok (.frsqrtex 3 17 true) ∧
    decode 0xFC71F26F = .ok (.fselx 3 17 30 9 true) ∧
    decode 0xFC71F27B = .ok (.fmaddx 3 17 30 9 true) ∧
    decode 0xEC71F27B = .ok (.fmaddsx 3 17 30 9 true) ∧
    decode 0xFC71F279 = .ok (.fmsubx 3 17 30 9 true) ∧
    decode 0xEC71F279 = .ok (.fmsubsx 3 17 30 9 true) ∧
    decode 0xFC71F27F = .ok (.fnmaddx 3 17 30 9 true) ∧
    decode 0xEC71F27F = .ok (.fnmaddsx 3 17 30 9 true) ∧
    decode 0xFC71F27D = .ok (.fnmsubx 3 17 30 9 true) := by
  decide +kernel

/-- 43_float_arithmetic.md. -/
theorem test_decode_float_arithmetic_2 :
    decode 0xEC71F27D = .ok (.fnmsubsx 3 17 30 9 true) := by
  decide +kernel

/-- 44_float_move_convert_fpscr.md. -/
theorem test_decode_float_move_convert_fpscr :
    decode 0xFC608891 = .ok (.fmrx 3 17 true) ∧
    decode 0xFC608851 = .ok (.fnegx 3 17 true) ∧
    decode 0xFC608A11 = .ok (.fabsx 3 17 true) ∧
    decode 0xFC608911 = .ok (.fnabsx 3 17 true) ∧
    decode 0xFC608819 = .ok (.frspx 3 17 true) ∧
    decode 0xFC60881D = .ok (.fctiwx 3 17 true) ∧
    decode 0xFC60881F = .ok (.fctiwzx 3 17 true) ∧
    decode 0xFC608E5D = .ok (.fctidx 3 17 true) ∧
    decode 0xFC608E5F = .ok (.fctidzx 3 17 true) ∧
    decode 0xFC608E9D = .ok (.fcfidx 3 17 true) ∧
    decode 0xFE838800 = .ok (.fcmpu 5 3 17) ∧
    decode 0xFE838840 = .ok (.fcmpo 5 3 17) ∧
    decode 0xFC60048F = .ok (.mffsx 3 true) ∧
    decode 0xFE880080 = .ok (.mcrfs 5 2) ∧
    decode 0xFCB41D8F = .ok (.mtfsfx 90 3 true) ∧
    decode 0xFE80B10D = .ok (.mtfsfix 5 11 true) ∧
    decode 0xFC60008D = .ok (.mtfsb0x 3 true) ∧
    decode 0xFC60004D = .ok (.mtfsb1x 3 true) := by
  decide +kernel

/-- 45_load_store_integer.md. -/
theorem test_decode_load_store_integer :
    decode 0x88718001 = .ok (.lbz 3 17 32769) ∧
    decode 0x8C718001 = .ok (.lbzu 3 17 32769) ∧
    decode 0x7C71F0AE = .ok (.lbzx 3 17 30) ∧
    decode 0x7C71F0EE = .ok (.lbzux 3 17 30) ∧
    decode 0xA0718001 = .ok (.lhz 3 17 32769) ∧
    decode 0xA4718001 = .ok (.lhzu 3 17 32769) ∧
    decode 0x7C71F22E = .ok (.lhzx 3 17 30) ∧
    decode 0x7C71F26E = .ok (.lhzux 3 17 30) ∧
    decode 0xA8718001 = .ok (.lha 3 17 32769) ∧
    decode 0xAC718001 = .ok (.lhau 3 17 32769) ∧
    decode 0x7C71F2AE = .ok (.lhax 3 17 30) ∧
    decode 0x7C71F2EE = .ok (.lhaux 3 17 30) ∧
    decode 0x80718001 = .ok (.lwz 3 17 32769) ∧
    decode 0x84718001 = .ok (.lwzu 3 17 32769) ∧
    decode 0x7C71F02E = .ok (.lwzx 3 17 30) ∧
    decode 0x7C71F06E = .ok (.lwzux 3 17 30) ∧
    decode 0xE871A8F6 = .ok (.lwa 3 17 10813) ∧
    decode 0x7C71F2AA = .ok (.lwax 3 17 30) ∧
    decode 0x7C71F2EA = .ok (.lwaux 3 17 30) ∧
    decode 0xE871A8F4 = .ok (.ld 3 17 10813) := by
  decide +kernel

/-- 45_load_store_integer.md. -/
theorem test_decode_load_store_integer_2 :
    decode 0xE871A8F5 = .ok (.ldu 3 17 10813) ∧
    decode 0x7C71F02A = .ok (.ldx 3 17 30) ∧
    decode 0x7C71F06A = .ok (.ldux 3 17 30) ∧
    decode 0x98718001 = .ok (.stb 3 17 32769) ∧
    decode 0x9C718001 = .ok (.stbu 3 17 32769) ∧
    decode 0x7C71F1AE = .ok (.stbx 3 17 30) ∧
    decode 0x7C71F1EE = .ok (.stbux 3 17 30) ∧
    decode 0xB0718001 = .ok (.sth 3 17 32769) ∧
    decode 0xB4718001 = .ok (.sthu 3 17 32769) ∧
    decode 0x7C71F32E = .ok (.sthx 3 17 30) ∧
    decode 0x7C71F36E = .ok (.sthux 3 17 30) ∧
    decode 0x90718001 = .ok (.stw 3 17 32769) ∧
    decode 0x94718001 = .ok (.stwu 3 17 32769) ∧
    decode 0x7C71F12E = .ok (.stwx 3 17 30) ∧
    decode 0x7C71F16E = .ok (.stwux 3 17 30) ∧
    decode 0xF871A8F4 = .ok (.std 3 17 10813) ∧
    decode 0xF871A8F5 = .ok (.stdu 3 17 10813) ∧
    decode 0x7C71F12A = .ok (.stdx 3 17 30) ∧
    decode 0x7C71F16A = .ok (.stdux 3 17 30) ∧
    decode 0x7C71F62C = .ok (.lhbrx 3 17 30) := by
  decide +kernel

/-- 45_load_store_integer.md. -/
theorem test_decode_load_store_integer_3 :
    decode 0x7C71F42C = .ok (.lwbrx 3 17 30) ∧
    decode 0x7C71F72C = .ok (.sthbrx 3 17 30) ∧
    decode 0x7C71F52C = .ok (.stwbrx 3 17 30) ∧
    decode 0xB8718001 = .ok (.lmw 3 17 32769) ∧
    decode 0xBC718001 = .ok (.stmw 3 17 32769) ∧
    decode 0x7C71F4AA = .ok (.lswi 3 17 30) ∧
    decode 0x7C71F42A = .ok (.lswx 3 17 30) ∧
    decode 0x7C71F5AA = .ok (.stswi 3 17 30) ∧
    decode 0x7C71F52A = .ok (.stswx 3 17 30) := by
  decide +kernel

/-- 46_load_store_float.md. -/
theorem test_decode_load_store_float :
    decode 0xC0718001 = .ok (.lfs 3 17 32769) ∧
    decode 0xC4718001 = .ok (.lfsu 3 17 32769) ∧
    decode 0x7C71F42E = .ok (.lfsx 3 17 30) ∧
    decode 0x7C71F46E = .ok (.lfsux 3 17 30) ∧
    decode 0xC8718001 = .ok (.lfd 3 17 32769) ∧
    decode 0xCC718001 = .ok (.lfdu 3 17 32769) ∧
    decode 0x7C71F4AE = .ok (.lfdx 3 17 30) ∧
    decode 0x7C71F4EE = .ok (.lfdux 3 17 30) ∧
    decode 0xD0718001 = .ok (.stfs 3 17 32769) ∧
    decode 0xD4718001 = .ok (.stfsu 3 17 32769) ∧
    decode 0x7C71F52E = .ok (.stfsx 3 17 30) ∧
    decode 0x7C71F56E = .ok (.stfsux 3 17 30) ∧
    decode 0xD8718001 = .ok (.stfd 3 17 32769) ∧
    decode 0xDC718001 = .ok (.stfdu 3 17 32769) ∧
    decode 0x7C71F5AE = .ok (.stfdx 3 17 30) ∧
    decode 0x7C71F5EE = .ok (.stfdux 3 17 30) ∧
    decode 0x7C71F7AE = .ok (.stfiwx 3 17 30) := by
  decide +kernel

/-- 47_branch_cr_trap.md. -/
theorem test_decode_branch_cr_trap :
    decode 0x4A000017 = .ok (.bx 8388613 true true) ∧
    decode 0x4071A8F7 = .ok (.bcx 3 17 10813 true true) ∧
    decode 0x4C710021 = .ok (.bclrx 3 17 true) ∧
    decode 0x4C710421 = .ok (.bcctrx 3 17 true) ∧
    decode 0x4C71F202 = .ok (.crand 3 17 30) ∧
    decode 0x4C71F382 = .ok (.cror 3 17 30) ∧
    decode 0x4C71F182 = .ok (.crxor 3 17 30) ∧
    decode 0x4C71F1C2 = .ok (.crnand 3 17 30) ∧
    decode 0x4C71F042 = .ok (.crnor 3 17 30) ∧
    decode 0x4C71F242 = .ok (.creqv 3 17 30) ∧
    decode 0x4C71F102 = .ok (.crandc 3 17 30) ∧
    decode 0x4C71F342 = .ok (.crorc 3 17 30) ∧
    decode 0x4E880000 = .ok (.mcrf 5 2) ∧
    decode 0x44000002 = .ok .sc ∧
    decode 0x4C000064 = .ok .rfi ∧
    decode 0x4C000024 = .ok .rfid ∧
    decode 0x7C71F008 = .ok (.tw 3 17 30) ∧
    decode 0x0C718001 = .ok (.twi 3 17 32769) ∧
    decode 0x7C71F088 = .ok (.td 3 17 30) ∧
    decode 0x08718001 = .ok (.tdi 3 17 32769) := by
  decide +kernel

/-- 48_processor_control.md. -/
theorem test_decode_processor_control :
    decode 0x7C600026 = .ok (.mfcr 3) ∧
    decode 0x7C65A120 = .ok (.mtcrf 3 90) ∧
    decode 0x7E800400 = .ok (.mcrxr 5) ∧
    decode 0x7C6000A6 = .ok (.mfmsr 3) ∧
    decode 0x7C600124 = .ok (.mtmsr 3) ∧
    decode 0x7C600164 = .ok (.mtmsrd 3) ∧
    decode 0x7C7982A6 = .ok (.mfspr 3 537) ∧
    decode 0x7C7983A6 = .ok (.mtspr 3 537) ∧
    decode 0x7C6D42E6 = .ok (.mftb 3 269) := by
  decide +kernel

/-- 49_sync_cache_segment_tlb.md. -/
theorem test_decode_sync_cache_segment_tlb :
    decode 0x7C0004AC = .ok .sync ∧
    decode 0x4C00012C = .ok .isync ∧
    decode 0x7C0006AC = .ok .eieio ∧
    decode 0x7C71F028 = .ok (.lwarx 3 17 30) ∧
    decode 0x7C71F0A8 = .ok (.ldarx 3 17 30) ∧
    decode 0x7C71F12D = .ok (.stwcxDot 3 17 30) ∧
    decode 0x7C71F1AD = .ok (.stdcxDot 3 17 30) ∧
    decode 0x7C038A2C = .ok (.dcbt 3 17) ∧
    decode 0x7C0389EC = .ok (.dcbtst 3 17) ∧
    decode 0x7C03886C = .ok (.dcbst 3 17) ∧
    decode 0x7C0388AC = .ok (.dcbf 3 17) ∧
    decode 0x7C038BAC = .ok (.dcbi 3 17) ∧
    decode 0x7C038DEC = .ok (.dcba 3 17) ∧
    decode 0x7C038FEC = .ok (.dcbz 3 17) ∧
    decode 0x7C038FAC = .ok (.icbi 3 17) ∧
    decode 0x7C71F26C = .ok (.eciwx 3 17 30) ∧
    decode 0x7C71F36C = .ok (.ecowx 3 17 30) ∧
    decode 0x7C6B04A6 = .ok (.mfsr 3 11) ∧
    decode 0x7C608D26 = .ok (.mfsrin 3 17) ∧
    decode 0x7C6B01A4 = .ok (.mtsr 3 11) := by
  decide +kernel

/-- 49_sync_cache_segment_tlb.md. -/
theorem test_decode_sync_cache_segment_tlb_2 :
    decode 0x7C6089E4 = .ok (.mtsrin 3 17) ∧
    decode 0x7C6B00A4 = .ok (.mtsrd 3 11) ∧
    decode 0x7C6088E4 = .ok (.mtsrdin 3 17) ∧
    decode 0x7C0003E4 = .ok .slbia ∧
    decode 0x7C001B64 = .ok (.slbie 3) ∧
    decode 0x7C0002E4 = .ok .tlbia ∧
    decode 0x7C001A64 = .ok (.tlbie 3) ∧
    decode 0x7C00046C = .ok .tlbsync := by
  decide +kernel

/-- Reserved bits (30 R164): `cmpi` bit 9, `sync` bit 6, `mfcr` bit 11, `sc` bit 31, `fadd` bits 21 to 25. -/
theorem test_decode_reserved :
    decode 0x2C430005 = .reserved (.cmpi 0 false 3 5) ∧ decode 0x7E0004AC = .reserved .sync ∧
      decode 0x7C700026 = .reserved (.mfcr 3) ∧ decode 0x44000003 = .reserved .sc ∧
      decode 0xFC6110EA = .reserved (.faddx 3 1 2 false) := by decide +kernel

/-- Words of no row (30 R163): primary opcodes 0, 1 and 6, `stwcx.` without its record bit, an empty extended opcode. -/
theorem test_decode_illegal :
    decode 0x00000000 = .illegal ∧ decode 0x04000000 = .illegal ∧ decode 0x18000000 = .illegal ∧ decode 0x7CC0192C = .illegal ∧
      decode 0x7C0007FE = .illegal ∧ decode 0x4C000002 = .illegal := by decide +kernel

/-! ## Small states -/

/-- Memory that holds these runs of bytes. -/
def memOf (l : List (Nat × List Byte)) : Memory :=
  l.foldl (fun m x => (x.2.foldl (fun (p : Memory × Nat) b => (p.1.write p.2 b, p.2 + 1)) (m, x.1)).1) []

/-- A 64-bit implementation at 0x1000 with these registers and this memory. -/
def bS (msr : Dword) (cr xer : Word) (lr ctr : Dword) (g f : List (BitVec 5 × Dword)) (m : List (Nat × List Byte)) : State :=
  let s := { State.reset with msr := msr, nia := 0x1000, cr := cr, xer := xer, lr := lr, ctr := ctr, mem := memOf m }
  f.foldl (fun s x => s.setFpr x.1 x.2 false) (g.foldl (fun s x => s.setGpr x.1 x.2) s)

/-- The same in 64-bit supervisor mode with floating point on. -/
def gS (g : List (BitVec 5 × Dword)) : State := bS 0x8000000000002000 0 0 0 0 g [] []

/-- A 32-bit implementation at 0x1000, in supervisor mode with floating point on. -/
def nS (g : List (BitVec 5 × Dword)) : State :=
  g.foldl (fun s x => s.setGpr x.1 x.2)
    { State.resetOf { State.resetConfig with impl64 := false } with msr := 0x2000, nia := 0x1000 }

/-- A state with this FPSCR and these floating-point registers. -/
def fpS (f : Word) (l : List (BitVec 5 × Dword)) : State :=
  l.foldl (fun s x => s.setFpr x.1 x.2 false) { State.reset with fpscr := f, msr := 0x8000000000002000 }

/-- The instruction that the word decodes to, executed. -/
def runW (w : Word) (s : State) : Result :=
  match decode w with
  | .ok i => exec i s
  | .reserved _ => .fault .reservedBitsNonZero
  | .illegal => .fault .invalidForm

/-- The result is a next state of which `p` holds. -/
def gives (r : Result) (p : State → Bool) : Bool :=
  match r with
  | .next t => p t
  | .fault _ => false
  | .refused _ => false

/-- The result is this fault. -/
def faultsWith (r : Result) (f : Fault) : Bool :=
  match r with
  | .next _ => false
  | .fault g => g == f
  | .refused _ => false

/-! ## Vectors of 96_test_vectors_integer and 97_test_vectors_float_system: the text before each theorem is theirs -/

/-- `addi r3,r4,-1` 0x3864FFFF r4 = 0x0000_0000_0000_0000 => r3 = 0xFFFF_FFFF_FFFF_FFFF
  `addis r3,r4,0x8000` 0x3C648000 r4 = 0x0000_0000_0000_0001 => r3 = 0xFFFF_FFFF_8000_0001
  `add r3,r4,r5` 0x7C642A14 r4 = 0xFFFF_FFFF_FFFF_FFFF; r5 = 0x0000_0000_0000_0001 => r3 = 0x0000_0000_0000_0000
  `addo r3,r4,r5` 0x7C642E14 r4 = 0x0000_0000_0000_0001; r5 = 0x0000_0000_0000_0001; XER = 0xC000_0000 => r3 = 0x0000_0000_0000_0002; XER = 0x8000_0000
  `addc r3,r4,r5` 0x7C642814 r4 = 0xFFFF_FFFF_FFFF_FFFF; r5 = 0x0000_0000_0000_0001 => r3 = 0x0000_0000_0000_0000; XER = 0x2000_0000
  `addc r3,r4,r5` 0x7C642814 r4 = 0x0000_0000_FFFF_FFFF; r5 = 0x0000_0000_0000_0001 => r3 = 0x0000_0001_0000_0000; XER = 0x2000_0000
  `adde r3,r4,r5` 0x7C642914 r4 = 0xFFFF_FFFF_FFFF_FFFF; r5 = 0x0000_0000_0000_0000; XER = 0x2000_0000 => r3 = 0x0000_0000_0000_0000; XER = 0x2000_0000
  `adde r3,r4,r5` 0x7C642914 r4 = 0x0000_0000_0000_0002; r5 = 0x0000_0000_0000_0003; XER = 0x2000_0000 => r3 = 0x0000_0000_0000_0006; XER = 0x0000_0000
  `addic r3,r4,-1` 0x3064FFFF r4 = 0x0000_0000_0000_0000 => r3 = 0xFFFF_FFFF_FFFF_FFFF; XER = 0x0000_0000
  `addic r3,r4,-1` 0x3064FFFF r4 = 0x0000_0000_0000_0001 => r3 = 0x0000_0000_0000_0000; XER = 0x2000_0000
  `addic. r3,r4,1` 0x34640001 r4 = 0xFFFF_FFFF_FFFF_FFFF => r3 = 0x0000_0000_0000_0000; CR = 0x2000_0000; XER = 0x2000_0000
  `addme r3,r4` 0x7C6401D4 r4 = 0x0000_0000_0000_0000; XER = 0x0000_0000 => r3 = 0xFFFF_FFFF_FFFF_FFFF; XER = 0x0000_0000
  `addze r3,r4` 0x7C640194 r4 = 0xFFFF_FFFF_FFFF_FFFF; XER = 0x2000_0000 => r3 = 0x0000_0000_0000_0000; XER = 0x2000_0000 -/
theorem test_add :
    (gives (runW 0x3864FFFF (gS [(4,0x0000000000000000)]))
      (fun t => t.getGpr 3 == 0xFFFFFFFFFFFFFFFF && t.nia == 0x1004) &&
    gives (runW 0x3C648000 (gS [(4,0x0000000000000001)]))
      (fun t => t.getGpr 3 == 0xFFFFFFFF80000001 && t.nia == 0x1004) &&
    gives (runW 0x7C642A14 (gS [(4,0xFFFFFFFFFFFFFFFF),(5,0x0000000000000001)]))
      (fun t => t.getGpr 3 == 0x0000000000000000 && t.nia == 0x1004) &&
    gives (runW 0x7C642E14 (bS 0x8000000000002000 0 0xC0000000 0 0 [(4,0x0000000000000001),(5,0x0000000000000001)] [] []))
      (fun t => t.getGpr 3 == 0x0000000000000002 && t.xer == 0x80000000 && t.nia == 0x1004) &&
    gives (runW 0x7C642814 (gS [(4,0xFFFFFFFFFFFFFFFF),(5,0x0000000000000001)]))
      (fun t => t.getGpr 3 == 0x0000000000000000 && t.xer == 0x20000000 && t.nia == 0x1004) &&
    gives (runW 0x7C642814 (bS 0x2000 0 0 0 0 [(4,0x00000000FFFFFFFF),(5,0x0000000000000001)] [] []))
      (fun t => t.getGpr 3 == 0x0000000100000000 && t.xer == 0x20000000 && t.nia == 0x1004) &&
    gives (runW 0x7C642914 (bS 0x8000000000002000 0 0x20000000 0 0 [(4,0xFFFFFFFFFFFFFFFF),(5,0x0000000000000000)] [] []))
      (fun t => t.getGpr 3 == 0x0000000000000000 && t.xer == 0x20000000 && t.nia == 0x1004) &&
    gives (runW 0x7C642914 (bS 0x8000000000002000 0 0x20000000 0 0 [(4,0x0000000000000002),(5,0x0000000000000003)] [] []))
      (fun t => t.getGpr 3 == 0x0000000000000006 && t.xer == 0x00000000 && t.nia == 0x1004) &&
    gives (runW 0x3064FFFF (gS [(4,0x0000000000000000)]))
      (fun t => t.getGpr 3 == 0xFFFFFFFFFFFFFFFF && t.xer == 0x00000000 && t.nia == 0x1004) &&
    gives (runW 0x3064FFFF (gS [(4,0x0000000000000001)]))
      (fun t => t.getGpr 3 == 0x0000000000000000 && t.xer == 0x20000000 && t.nia == 0x1004) &&
    gives (runW 0x34640001 (gS [(4,0xFFFFFFFFFFFFFFFF)]))
      (fun t => t.getGpr 3 == 0x0000000000000000 && t.cr == 0x20000000 && t.xer == 0x20000000 && t.nia == 0x1004) &&
    gives (runW 0x7C6401D4 (bS 0x8000000000002000 0 0x00000000 0 0 [(4,0x0000000000000000)] [] []))
      (fun t => t.getGpr 3 == 0xFFFFFFFFFFFFFFFF && t.xer == 0x00000000 && t.nia == 0x1004) &&
    gives (runW 0x7C640194 (bS 0x8000000000002000 0 0x20000000 0 0 [(4,0xFFFFFFFFFFFFFFFF)] [] []))
      (fun t => t.getGpr 3 == 0x0000000000000000 && t.xer == 0x20000000 && t.nia == 0x1004)) = true := by decide +kernel

/-- `subf r3,r4,r5` 0x7C642850 r4 = 0x0000_0000_0000_0003; r5 = 0x0000_0000_0000_000A => r3 = 0x0000_0000_0000_0007
  `subfo r3,r4,r5` 0x7C642C50 r4 = 0x0000_0000_0000_0001; r5 = 0x8000_0000_0000_0000 => r3 = 0x7FFF_FFFF_FFFF_FFFF; XER = 0xC000_0000
  `subfc r3,r4,r5` 0x7C642810 r4 = 0x0000_0000_0000_0003; r5 = 0x0000_0000_0000_000A => r3 = 0x0000_0000_0000_0007; XER = 0x2000_0000
  `subfc r3,r4,r5` 0x7C642810 r4 = 0x0000_0000_0000_0005; r5 = 0x0000_0000_0000_0005 => r3 = 0x0000_0000_0000_0000; XER = 0x2000_0000
  `subfe r3,r4,r5` 0x7C642910 r4 = 0x0000_0000_0000_0003; r5 = 0x0000_0000_0000_000A; XER = 0x0000_0000 => r3 = 0x0000_0000_0000_0006; XER = 0x2000_0000
  `subfic r3,r4,0` 0x20640000 r4 = 0x0000_0000_0000_0001 => r3 = 0xFFFF_FFFF_FFFF_FFFF; XER = 0x0000_0000
  `subfme r3,r4` 0x7C6401D0 r4 = 0x0000_0000_0000_0005; XER = 0x2000_0000 => r3 = 0xFFFF_FFFF_FFFF_FFFA; XER = 0x2000_0000
  `subfze r3,r4` 0x7C640190 r4 = 0x0000_0000_0000_0000; XER = 0x2000_0000 => r3 = 0x0000_0000_0000_0000; XER = 0x2000_0000
  `neg r3,r4` 0x7C6400D0 r4 = 0x0000_0000_0000_0005 => r3 = 0xFFFF_FFFF_FFFF_FFFB
  `nego r3,r4` 0x7C6404D0 r4 = 0xFFFF_FFFF_8000_0000 => r3 = 0x0000_0000_8000_0000; XER = 0x0000_0000 -/
theorem test_subtract :
    (gives (runW 0x7C642850 (gS [(4,0x0000000000000003),(5,0x000000000000000A)]))
      (fun t => t.getGpr 3 == 0x0000000000000007 && t.nia == 0x1004) &&
    gives (runW 0x7C642C50 (gS [(4,0x0000000000000001),(5,0x8000000000000000)]))
      (fun t => t.getGpr 3 == 0x7FFFFFFFFFFFFFFF && t.xer == 0xC0000000 && t.nia == 0x1004) &&
    gives (runW 0x7C642810 (gS [(4,0x0000000000000003),(5,0x000000000000000A)]))
      (fun t => t.getGpr 3 == 0x0000000000000007 && t.xer == 0x20000000 && t.nia == 0x1004) &&
    gives (runW 0x7C642810 (gS [(4,0x0000000000000005),(5,0x0000000000000005)]))
      (fun t => t.getGpr 3 == 0x0000000000000000 && t.xer == 0x20000000 && t.nia == 0x1004) &&
    gives (runW 0x7C642910 (bS 0x8000000000002000 0 0x00000000 0 0 [(4,0x0000000000000003),(5,0x000000000000000A)] [] []))
      (fun t => t.getGpr 3 == 0x0000000000000006 && t.xer == 0x20000000 && t.nia == 0x1004) &&
    gives (runW 0x20640000 (gS [(4,0x0000000000000001)]))
      (fun t => t.getGpr 3 == 0xFFFFFFFFFFFFFFFF && t.xer == 0x00000000 && t.nia == 0x1004) &&
    gives (runW 0x7C6401D0 (bS 0x8000000000002000 0 0x20000000 0 0 [(4,0x0000000000000005)] [] []))
      (fun t => t.getGpr 3 == 0xFFFFFFFFFFFFFFFA && t.xer == 0x20000000 && t.nia == 0x1004) &&
    gives (runW 0x7C640190 (bS 0x8000000000002000 0 0x20000000 0 0 [(4,0x0000000000000000)] [] []))
      (fun t => t.getGpr 3 == 0x0000000000000000 && t.xer == 0x20000000 && t.nia == 0x1004) &&
    gives (runW 0x7C6400D0 (gS [(4,0x0000000000000005)]))
      (fun t => t.getGpr 3 == 0xFFFFFFFFFFFFFFFB && t.nia == 0x1004) &&
    gives (runW 0x7C6404D0 (gS [(4,0xFFFFFFFF80000000)]))
      (fun t => t.getGpr 3 == 0x0000000080000000 && t.xer == 0x00000000 && t.nia == 0x1004)) = true := by decide +kernel

/-- `mulli r3,r4,-3` 0x1C64FFFD r4 = 0x0000_0000_0000_0007 => r3 = 0xFFFF_FFFF_FFFF_FFEB
  `mullw r3,r4,r5` 0x7C6429D6 r4 = 0xFFFF_FFFF_FFFF_FFFF; r5 = 0x1234_5678_FFFF_FFFE => r3 = 0x0000_0000_0000_0002
  `mullwo r3,r4,r5` 0x7C642DD6 r4 = 0x0000_0000_0001_0000; r5 = 0x0000_0000_0000_7FFF; XER = 0x4000_0000 => r3 = 0x0000_0000_7FFF_0000; XER = 0x0000_0000
  `mulld r3,r4,r5` 0x7C6429D2 r4 = 0x0000_0001_0000_0000; r5 = 0x0000_0001_0000_0000 => r3 = 0x0000_0000_0000_0000
  `mulhd r3,r4,r5` 0x7C642892 r4 = 0xFFFF_FFFF_FFFF_FFFF; r5 = 0x0000_0000_0000_0003 => r3 = 0xFFFF_FFFF_FFFF_FFFF
  `mulhdu r3,r4,r5` 0x7C642812 r4 = 0xFFFF_FFFF_FFFF_FFFF; r5 = 0x0000_0000_0000_0003 => r3 = 0x0000_0000_0000_0002 -/
theorem test_multiply :
    (gives (runW 0x1C64FFFD (gS [(4,0x0000000000000007)]))
      (fun t => t.getGpr 3 == 0xFFFFFFFFFFFFFFEB && t.nia == 0x1004) &&
    gives (runW 0x7C6429D6 (gS [(4,0xFFFFFFFFFFFFFFFF),(5,0x12345678FFFFFFFE)]))
      (fun t => t.getGpr 3 == 0x0000000000000002 && t.nia == 0x1004) &&
    gives (runW 0x7C642DD6 (bS 0x8000000000002000 0 0x40000000 0 0 [(4,0x0000000000010000),(5,0x0000000000007FFF)] [] []))
      (fun t => t.getGpr 3 == 0x000000007FFF0000 && t.xer == 0x00000000 && t.nia == 0x1004) &&
    gives (runW 0x7C6429D2 (gS [(4,0x0000000100000000),(5,0x0000000100000000)]))
      (fun t => t.getGpr 3 == 0x0000000000000000 && t.nia == 0x1004) &&
    gives (runW 0x7C642892 (gS [(4,0xFFFFFFFFFFFFFFFF),(5,0x0000000000000003)]))
      (fun t => t.getGpr 3 == 0xFFFFFFFFFFFFFFFF && t.nia == 0x1004) &&
    gives (runW 0x7C642812 (gS [(4,0xFFFFFFFFFFFFFFFF),(5,0x0000000000000003)]))
      (fun t => t.getGpr 3 == 0x0000000000000002 && t.nia == 0x1004)) = true := by decide +kernel

/-- `divwo r3,r4,r5` 0x7C642FD6 r4 = 0x0000_0000_0000_0007; r5 = 0x0000_0000_0000_0000 => r3 = UNDEF(64); XER = 0xC000_0000 (rD is UNDEF(64), D29)
  `divd r3,r4,r5` 0x7C642BD2 r4 = 0xFFFF_FFFF_FFFF_FFF9; r5 = 0x0000_0000_0000_0002 => r3 = 0xFFFF_FFFF_FFFF_FFFD
  `divdu r3,r4,r5` 0x7C642B92 r4 = 0xFFFF_FFFF_FFFF_FFFF; r5 = 0x0000_0000_0000_0002 => r3 = 0x7FFF_FFFF_FFFF_FFFF -/
theorem test_divide :
    (gives (runW 0x7C642FD6 (gS [(4,0x0000000000000007),(5,0x0000000000000000)]))
      (fun t => t.xer == 0xC0000000 && t.nia == 0x1004) &&
    gives (runW 0x7C642BD2 (gS [(4,0xFFFFFFFFFFFFFFF9),(5,0x0000000000000002)]))
      (fun t => t.getGpr 3 == 0xFFFFFFFFFFFFFFFD && t.nia == 0x1004) &&
    gives (runW 0x7C642B92 (gS [(4,0xFFFFFFFFFFFFFFFF),(5,0x0000000000000002)]))
      (fun t => t.getGpr 3 == 0x7FFFFFFFFFFFFFFF && t.nia == 0x1004)) = true := by decide +kernel

/-- `cmpwi cr0,r3,0 (cmpi 0,0,r3,0)` 0x2C030000 r3 = 0x0000_0000_8000_0000 => CR = 0x8000_0000
  `cmpdi cr7,r3,-1` 0x2FA3FFFF r3 = 0x0000_0000_FFFF_FFFF => CR = 0x0000_0004
  `cmpw cr1,r3,r4 (cmp 1,0,r3,r4)` 0x7C832000 r3 = 0x0000_0001_FFFF_FFFF; r4 = 0x0000_0000_0000_0000 => CR = 0x0800_0000
  `cmpd cr1,r3,r4 (cmp 1,1,r3,r4)` 0x7CA32000 r3 = 0x0000_0001_FFFF_FFFF; r4 = 0x0000_0000_0000_0000 => CR = 0x0400_0000
  `cmplwi cr2,r3,0xFFFF` 0x2903FFFF r3 = 0xFFFF_FFFF_FFFF_FFFF => CR = 0x0040_0000
  `cmplw cr0,r3,r4` 0x7C032040 r3 = 0x0000_0000_FFFF_FFFF; r4 = 0x0000_0000_0000_0001 => CR = 0x4000_0000 -/
theorem test_compare :
    (gives (runW 0x2C030000 (gS [(3,0x0000000080000000)]))
      (fun t => t.cr == 0x80000000 && t.nia == 0x1004) &&
    gives (runW 0x2FA3FFFF (gS [(3,0x00000000FFFFFFFF)]))
      (fun t => t.cr == 0x00000004 && t.nia == 0x1004) &&
    gives (runW 0x7C832000 (gS [(3,0x00000001FFFFFFFF),(4,0x0000000000000000)]))
      (fun t => t.cr == 0x08000000 && t.nia == 0x1004) &&
    gives (runW 0x7CA32000 (gS [(3,0x00000001FFFFFFFF),(4,0x0000000000000000)]))
      (fun t => t.cr == 0x04000000 && t.nia == 0x1004) &&
    gives (runW 0x2903FFFF (gS [(3,0xFFFFFFFFFFFFFFFF)]))
      (fun t => t.cr == 0x00400000 && t.nia == 0x1004) &&
    gives (runW 0x7C032040 (gS [(3,0x00000000FFFFFFFF),(4,0x0000000000000001)]))
      (fun t => t.cr == 0x40000000 && t.nia == 0x1004)) = true := by decide +kernel

/-- `andi. r3,r4,0xFF00` 0x7083FF00 r4 = 0x1234_5678_9ABC_DEF0 => r3 = 0x0000_0000_0000_DE00; CR = 0x4000_0000
  `andis. r3,r4,0x8000` 0x74838000 r4 = 0xFFFF_FFFF_FFFF_FFFF => r3 = 0x0000_0000_8000_0000; CR = 0x4000_0000
  `ori r3,r4,0xFFFF` 0x6083FFFF r4 = 0x1234_5678_9ABC_0000 => r3 = 0x1234_5678_9ABC_FFFF
  `oris r3,r4,0x8000` 0x64838000 r4 = 0x0000_0000_0000_0000 => r3 = 0x0000_0000_8000_0000
  `xori r3,r4,0xFFFF` 0x6883FFFF r4 = 0x0000_0000_0000_FFFF => r3 = 0x0000_0000_0000_0000
  `xoris r3,r4,0xFFFF` 0x6C83FFFF r4 = 0x0000_0000_0000_0000 => r3 = 0x0000_0000_FFFF_0000 -/
theorem test_logical_immediate :
    (gives (runW 0x7083FF00 (gS [(4,0x123456789ABCDEF0)]))
      (fun t => t.getGpr 3 == 0x000000000000DE00 && t.cr == 0x40000000 && t.nia == 0x1004) &&
    gives (runW 0x74838000 (gS [(4,0xFFFFFFFFFFFFFFFF)]))
      (fun t => t.getGpr 3 == 0x0000000080000000 && t.cr == 0x40000000 && t.nia == 0x1004) &&
    gives (runW 0x6083FFFF (gS [(4,0x123456789ABC0000)]))
      (fun t => t.getGpr 3 == 0x123456789ABCFFFF && t.nia == 0x1004) &&
    gives (runW 0x64838000 (gS [(4,0x0000000000000000)]))
      (fun t => t.getGpr 3 == 0x0000000080000000 && t.nia == 0x1004) &&
    gives (runW 0x6883FFFF (gS [(4,0x000000000000FFFF)]))
      (fun t => t.getGpr 3 == 0x0000000000000000 && t.nia == 0x1004) &&
    gives (runW 0x6C83FFFF (gS [(4,0x0000000000000000)]))
      (fun t => t.getGpr 3 == 0x00000000FFFF0000 && t.nia == 0x1004)) = true := by decide +kernel

/-- `and. r3,r4,r5` 0x7C832839 r4 = 0x0000_0000_0000_F0F0; r5 = 0x0000_0000_0000_0F0F => r3 = 0x0000_0000_0000_0000; CR = 0x2000_0000
  `or r3,r4,r4 (mr r3,r4)` 0x7C832378 r4 = 0x0000_0000_DEAD_BEEF => r3 = 0x0000_0000_DEAD_BEEF
  `xor r3,r4,r4` 0x7C832278 r4 = 0x0000_0000_DEAD_BEEF; r3 = 0x0000_0000_0000_0007 => r3 = 0x0000_0000_0000_0000
  `nand r3,r4,r5` 0x7C832BB8 r4 = 0x0000_0000_0000_00FF; r5 = 0x0000_0000_0000_000F => r3 = 0xFFFF_FFFF_FFFF_FFF0
  `nor r3,r4,r4 (not r3,r4)` 0x7C8320F8 r4 = 0x0000_0000_0000_0000 => r3 = 0xFFFF_FFFF_FFFF_FFFF
  `eqv r3,r4,r5` 0x7C832A38 r4 = 0x0000_0000_0000_FF00; r5 = 0x0000_0000_0000_F0F0 => r3 = 0xFFFF_FFFF_FFFF_F00F
  `andc r3,r4,r5` 0x7C832878 r4 = 0x0000_0000_0000_FFFF; r5 = 0x0000_0000_0000_0FF0 => r3 = 0x0000_0000_0000_F00F
  `orc r3,r4,r5` 0x7C832B38 r4 = 0x0000_0000_0000_0000; r5 = 0x0000_0000_0000_00FF => r3 = 0xFFFF_FFFF_FFFF_FF00 -/
theorem test_logical :
    (gives (runW 0x7C832839 (gS [(4,0x000000000000F0F0),(5,0x0000000000000F0F)]))
      (fun t => t.getGpr 3 == 0x0000000000000000 && t.cr == 0x20000000 && t.nia == 0x1004) &&
    gives (runW 0x7C832378 (gS [(4,0x00000000DEADBEEF)]))
      (fun t => t.getGpr 3 == 0x00000000DEADBEEF && t.nia == 0x1004) &&
    gives (runW 0x7C832278 (gS [(4,0x00000000DEADBEEF),(3,0x0000000000000007)]))
      (fun t => t.getGpr 3 == 0x0000000000000000 && t.nia == 0x1004) &&
    gives (runW 0x7C832BB8 (gS [(4,0x00000000000000FF),(5,0x000000000000000F)]))
      (fun t => t.getGpr 3 == 0xFFFFFFFFFFFFFFF0 && t.nia == 0x1004) &&
    gives (runW 0x7C8320F8 (gS [(4,0x0000000000000000)]))
      (fun t => t.getGpr 3 == 0xFFFFFFFFFFFFFFFF && t.nia == 0x1004) &&
    gives (runW 0x7C832A38 (gS [(4,0x000000000000FF00),(5,0x000000000000F0F0)]))
      (fun t => t.getGpr 3 == 0xFFFFFFFFFFFFF00F && t.nia == 0x1004) &&
    gives (runW 0x7C832878 (gS [(4,0x000000000000FFFF),(5,0x0000000000000FF0)]))
      (fun t => t.getGpr 3 == 0x000000000000F00F && t.nia == 0x1004) &&
    gives (runW 0x7C832B38 (gS [(4,0x0000000000000000),(5,0x00000000000000FF)]))
      (fun t => t.getGpr 3 == 0xFFFFFFFFFFFFFF00 && t.nia == 0x1004)) = true := by decide +kernel

/-- `extsb r3,r4` 0x7C830774 r4 = 0x0000_0000_0000_1280 => r3 = 0xFFFF_FFFF_FFFF_FF80
  `extsh r3,r4` 0x7C830734 r4 = 0x0000_0000_0001_8000 => r3 = 0xFFFF_FFFF_FFFF_8000
  `extsw r3,r4` 0x7C8307B4 r4 = 0x0000_0001_8000_0000 => r3 = 0xFFFF_FFFF_8000_0000
  `cntlzw r3,r4` 0x7C830034 r4 = 0xFFFF_FFFF_0000_0000 => r3 = 0x0000_0000_0000_0020
  `cntlzd r3,r4` 0x7C830074 r4 = 0x0000_0000_0000_0000; r3 = 0x0000_0000_0000_0001 => r3 = 0x0000_0000_0000_0040 -/
theorem test_extend_and_count :
    (gives (runW 0x7C830774 (gS [(4,0x0000000000001280)]))
      (fun t => t.getGpr 3 == 0xFFFFFFFFFFFFFF80 && t.nia == 0x1004) &&
    gives (runW 0x7C830734 (gS [(4,0x0000000000018000)]))
      (fun t => t.getGpr 3 == 0xFFFFFFFFFFFF8000 && t.nia == 0x1004) &&
    gives (runW 0x7C8307B4 (gS [(4,0x0000000180000000)]))
      (fun t => t.getGpr 3 == 0xFFFFFFFF80000000 && t.nia == 0x1004) &&
    gives (runW 0x7C830034 (gS [(4,0xFFFFFFFF00000000)]))
      (fun t => t.getGpr 3 == 0x0000000000000020 && t.nia == 0x1004) &&
    gives (runW 0x7C830074 (gS [(4,0x0000000000000000),(3,0x0000000000000001)]))
      (fun t => t.getGpr 3 == 0x0000000000000040 && t.nia == 0x1004)) = true := by decide +kernel

/-- `rlwinm r3,r4,4,0,27 (slwi r3,r4,4)` 0x54832036 r4 = 0x1234_5678_9ABC_DEF0 => r3 = 0x0000_0000_ABCD_EF00
  `rlwinm. r3,r4,0,0,0` 0x54830001 r4 = 0x1234_5678_9ABC_DEF0 => r3 = 0x0000_0000_8000_0000; CR = 0x4000_0000
  `rlwnm r3,r4,r5,0,31 (rotlw r3,r4,r5)` 0x5C83283E r4 = 0x1234_5678_9ABC_DEF0; r5 = 0xFFFF_FFFF_FFFF_FFE8 => r3 = 0x0000_0000_BCDE_F09A
  `rlwimi r3,r4,16,0,15 (inslwi r3,r4,16,0)` 0x5083801E r4 = 0x1111_1111_2222_5678; r3 = 0xAAAA_AAAA_BBBB_BBBB => r3 = 0xAAAA_AAAA_5678_BBBB
  `rlwimi r3,r4,0,16,31` 0x5083043E r4 = 0x0000_0000_0000_1234; r3 = 0xAAAA_AAAA_BBBB_BBBB => r3 = 0xAAAA_AAAA_BBBB_1234 -/
theorem test_rotate_word :
    (gives (runW 0x54832036 (gS [(4,0x123456789ABCDEF0)]))
      (fun t => t.getGpr 3 == 0x00000000ABCDEF00 && t.nia == 0x1004) &&
    gives (runW 0x54830001 (gS [(4,0x123456789ABCDEF0)]))
      (fun t => t.getGpr 3 == 0x0000000080000000 && t.cr == 0x40000000 && t.nia == 0x1004) &&
    gives (runW 0x5C83283E (gS [(4,0x123456789ABCDEF0),(5,0xFFFFFFFFFFFFFFE8)]))
      (fun t => t.getGpr 3 == 0x00000000BCDEF09A && t.nia == 0x1004) &&
    gives (runW 0x5083801E (gS [(4,0x1111111122225678),(3,0xAAAAAAAABBBBBBBB)]))
      (fun t => t.getGpr 3 == 0xAAAAAAAA5678BBBB && t.nia == 0x1004) &&
    gives (runW 0x5083043E (gS [(4,0x0000000000001234),(3,0xAAAAAAAABBBBBBBB)]))
      (fun t => t.getGpr 3 == 0xAAAAAAAABBBB1234 && t.nia == 0x1004)) = true := by decide +kernel

/-- `rldicl r3,r4,0,32 (clrldi r3,r4,32)` 0x78830020 r4 = 0x1234_5678_9ABC_DEF0 => r3 = 0x0000_0000_9ABC_DEF0
  `rldicl r3,r4,8,0 (rotldi r3,r4,8)` 0x78834000 r4 = 0x1234_5678_9ABC_DEF0 => r3 = 0x3456_789A_BCDE_F012
  `rldicr r3,r4,3,60 (sldi r3,r4,3)` 0x78831F24 r4 = 0x1234_5678_9ABC_DEF0 => r3 = 0x91A2_B3C4_D5E6_F780
  `rldic r3,r4,8,40 (clrlsldi r3,r4,48,8)` 0x78834228 r4 = 0x1234_5678_9ABC_DEF0 => r3 = 0x0000_0000_00DE_F000
  `rldcl r3,r4,r5,0 (rotld r3,r4,r5)` 0x78832810 r4 = 0x1234_5678_9ABC_DEF0; r5 = 0x0000_0000_0000_0044 => r3 = 0x2345_6789_ABCD_EF01
  `rldcr r3,r4,r5,7` 0x788329D2 r4 = 0x1234_5678_9ABC_DEF0; r5 = 0x0000_0000_0000_0008 => r3 = 0x3400_0000_0000_0000
  `rldimi r3,r4,32,24 (insrdi r3,r4,8,24)` 0x7883060E r4 = 0x0000_0000_0000_0012; r3 = 0xFFFF_FFFF_FFFF_FFFF => r3 = 0xFFFF_FF12_FFFF_FFFF -/
theorem test_rotate_double :
    (gives (runW 0x78830020 (gS [(4,0x123456789ABCDEF0)]))
      (fun t => t.getGpr 3 == 0x000000009ABCDEF0 && t.nia == 0x1004) &&
    gives (runW 0x78834000 (gS [(4,0x123456789ABCDEF0)]))
      (fun t => t.getGpr 3 == 0x3456789ABCDEF012 && t.nia == 0x1004) &&
    gives (runW 0x78831F24 (gS [(4,0x123456789ABCDEF0)]))
      (fun t => t.getGpr 3 == 0x91A2B3C4D5E6F780 && t.nia == 0x1004) &&
    gives (runW 0x78834228 (gS [(4,0x123456789ABCDEF0)]))
      (fun t => t.getGpr 3 == 0x0000000000DEF000 && t.nia == 0x1004) &&
    gives (runW 0x78832810 (gS [(4,0x123456789ABCDEF0),(5,0x0000000000000044)]))
      (fun t => t.getGpr 3 == 0x23456789ABCDEF01 && t.nia == 0x1004) &&
    gives (runW 0x788329D2 (gS [(4,0x123456789ABCDEF0),(5,0x0000000000000008)]))
      (fun t => t.getGpr 3 == 0x3400000000000000 && t.nia == 0x1004) &&
    gives (runW 0x7883060E (gS [(4,0x0000000000000012),(3,0xFFFFFFFFFFFFFFFF)]))
      (fun t => t.getGpr 3 == 0xFFFFFF12FFFFFFFF && t.nia == 0x1004)) = true := by decide +kernel

/-- `slw r3,r4,r5` 0x7C832830 r4 = 0xFFFF_FFFF_8000_0001; r5 = 0x0000_0000_0000_0001 => r3 = 0x0000_0000_0000_0002
  `slw r3,r4,r5` 0x7C832830 r4 = 0xFFFF_FFFF_8000_0001; r5 = 0x0000_0000_0000_0040 => r3 = 0x0000_0000_8000_0001
  `srw r3,r4,r5` 0x7C832C30 r4 = 0xFFFF_FFFF_8000_0000; r5 = 0x0000_0000_0000_001F => r3 = 0x0000_0000_0000_0001
  `srw r3,r4,r5` 0x7C832C30 r4 = 0xFFFF_FFFF_8000_0000; r5 = 0x0000_0000_0000_003F => r3 = 0x0000_0000_0000_0000
  `sraw r3,r4,r5` 0x7C832E30 r4 = 0x0000_0000_8000_0001; r5 = 0x0000_0000_0000_0001 => r3 = 0xFFFF_FFFF_C000_0000; XER = 0x2000_0000
  `sraw r3,r4,r5` 0x7C832E30 r4 = 0xFFFF_FFFF_7FFF_FFFF; r5 = 0x0000_0000_0000_0000; r3 = 0x0000_0000_0000_0009 => r3 = 0x0000_0000_7FFF_FFFF; XER = 0x0000_0000
  `srawi r3,r4,1` 0x7C830E70 r4 = 0x0000_0000_FFFF_FFFD => r3 = 0xFFFF_FFFF_FFFF_FFFE; XER = 0x2000_0000
  `srawi. r3,r4,31` 0x7C83FE71 r4 = 0x0000_0000_8000_0000 => r3 = 0xFFFF_FFFF_FFFF_FFFF; CR = 0x8000_0000; XER = 0x0000_0000 -/
theorem test_shift_word :
    (gives (runW 0x7C832830 (gS [(4,0xFFFFFFFF80000001),(5,0x0000000000000001)]))
      (fun t => t.getGpr 3 == 0x0000000000000002 && t.nia == 0x1004) &&
    gives (runW 0x7C832830 (gS [(4,0xFFFFFFFF80000001),(5,0x0000000000000040)]))
      (fun t => t.getGpr 3 == 0x0000000080000001 && t.nia == 0x1004) &&
    gives (runW 0x7C832C30 (gS [(4,0xFFFFFFFF80000000),(5,0x000000000000001F)]))
      (fun t => t.getGpr 3 == 0x0000000000000001 && t.nia == 0x1004) &&
    gives (runW 0x7C832C30 (gS [(4,0xFFFFFFFF80000000),(5,0x000000000000003F)]))
      (fun t => t.getGpr 3 == 0x0000000000000000 && t.nia == 0x1004) &&
    gives (runW 0x7C832E30 (gS [(4,0x0000000080000001),(5,0x0000000000000001)]))
      (fun t => t.getGpr 3 == 0xFFFFFFFFC0000000 && t.xer == 0x20000000 && t.nia == 0x1004) &&
    gives (runW 0x7C832E30 (gS [(4,0xFFFFFFFF7FFFFFFF),(5,0x0000000000000000),(3,0x0000000000000009)]))
      (fun t => t.getGpr 3 == 0x000000007FFFFFFF && t.xer == 0x00000000 && t.nia == 0x1004) &&
    gives (runW 0x7C830E70 (gS [(4,0x00000000FFFFFFFD)]))
      (fun t => t.getGpr 3 == 0xFFFFFFFFFFFFFFFE && t.xer == 0x20000000 && t.nia == 0x1004) &&
    gives (runW 0x7C83FE71 (gS [(4,0x0000000080000000)]))
      (fun t => t.getGpr 3 == 0xFFFFFFFFFFFFFFFF && t.cr == 0x80000000 && t.xer == 0x00000000 && t.nia == 0x1004)) = true := by decide +kernel

/-- `sld r3,r4,r5` 0x7C832836 r4 = 0x1234_5678_9ABC_DEF0; r5 = 0x0000_0000_0000_0004 => r3 = 0x2345_6789_ABCD_EF00
  `sld r3,r4,r5` 0x7C832836 r4 = 0x1234_5678_9ABC_DEF0; r5 = 0x0000_0000_0000_0080 => r3 = 0x1234_5678_9ABC_DEF0
  `srd r3,r4,r5` 0x7C832C36 r4 = 0x8000_0000_0000_0000; r5 = 0x0000_0000_0000_003F => r3 = 0x0000_0000_0000_0001
  `srad r3,r4,r5` 0x7C832E34 r4 = 0xFFFF_FFFF_FFFF_FFFD; r5 = 0x0000_0000_0000_0001 => r3 = 0xFFFF_FFFF_FFFF_FFFE; XER = 0x2000_0000
  `srad r3,r4,r5` 0x7C832E34 r4 = 0x7FFF_FFFF_FFFF_FFFF; r5 = 0x0000_0000_0000_0040; r3 = 0x0000_0000_0000_0001; XER = 0x2000_0000 => r3 = 0x0000_0000_0000_0000; XER = 0x0000_0000
  `sradi r3,r4,33` 0x7C830E76 r4 = 0xFFFF_FFFF_0000_0001 => r3 = 0xFFFF_FFFF_FFFF_FFFF; XER = 0x2000_0000 -/
theorem test_shift_double :
    (gives (runW 0x7C832836 (gS [(4,0x123456789ABCDEF0),(5,0x0000000000000004)]))
      (fun t => t.getGpr 3 == 0x23456789ABCDEF00 && t.nia == 0x1004) &&
    gives (runW 0x7C832836 (gS [(4,0x123456789ABCDEF0),(5,0x0000000000000080)]))
      (fun t => t.getGpr 3 == 0x123456789ABCDEF0 && t.nia == 0x1004) &&
    gives (runW 0x7C832C36 (gS [(4,0x8000000000000000),(5,0x000000000000003F)]))
      (fun t => t.getGpr 3 == 0x0000000000000001 && t.nia == 0x1004) &&
    gives (runW 0x7C832E34 (gS [(4,0xFFFFFFFFFFFFFFFD),(5,0x0000000000000001)]))
      (fun t => t.getGpr 3 == 0xFFFFFFFFFFFFFFFE && t.xer == 0x20000000 && t.nia == 0x1004) &&
    gives (runW 0x7C832E34 (bS 0x8000000000002000 0 0x20000000 0 0 [(4,0x7FFFFFFFFFFFFFFF),(5,0x0000000000000040),(3,0x0000000000000001)] [] []))
      (fun t => t.getGpr 3 == 0x0000000000000000 && t.xer == 0x00000000 && t.nia == 0x1004) &&
    gives (runW 0x7C830E76 (gS [(4,0xFFFFFFFF00000001)]))
      (fun t => t.getGpr 3 == 0xFFFFFFFFFFFFFFFF && t.xer == 0x20000000 && t.nia == 0x1004)) = true := by decide +kernel

/-- fadd f3,f1,f2 | frA = 0x3FF0_0000_0000_0000; frB = 0x4000_0000_0000_0000; FPSCR = 0x0000_0000 | frD = 0x4008_0000_0000_0000; FPSCR = 0x0000_4000 (no flag; FPRF = 0b00100)
  fadd f3,f1,f2 | frA = 0x7FEF_FFFF_FFFF_FFFF; frB = 0x7FEF_FFFF_FFFF_FFFF; FPSCR = 0x0000_0001 | frD = 0x7FEF_FFFF_FFFF_FFFF; FPSCR = 0x9202_4001 (FX, OX, XX, FI; FPRF = 0b00100)
  fadds f3,f1,f2 | frA = 0x3FF0_0000_0000_0000; frB = 0x3E70_0000_0000_0000; FPSCR = 0x0000_0000 | frD = 0x3FF0_0000_0000_0000; FPSCR = 0x8202_4000 (FX, XX, FI; FPRF = 0b00100)
  fadds f3,f1,f2 | frA = 0x3FF0_0000_0000_0000; frB = 0x3E70_0000_0000_0000; FPSCR = 0x0000_0002 | frD = 0x3FF0_0000_2000_0000; FPSCR = 0x8206_4002 (FX, XX, FR, FI; FPRF = 0b00100)
  fsub f3,f1,f2 | frA = 0x3FF0_0000_0000_0000; frB = 0x3FF0_0000_0000_0000; FPSCR = 0x0000_0000 | frD = 0x0000_0000_0000_0000; FPSCR = 0x0000_2000 (no flag; FPRF = 0b00010)
  fsub f3,f1,f2 | frA = 0x7FF0_0000_0000_0000; frB = 0x7FF0_0000_0000_0000; FPSCR = 0x0000_0000 | frD = 0x7FF8_0000_0000_0000; FPSCR = 0xA081_1000 (FX, VX, VXISI; FPRF = 0b10001)
  fsubs f3,f1,f2 | frA = 0x4008_0000_0000_0000; frB = 0x3FF0_0000_0000_0000; FPSCR = 0x0000_0000 | frD = 0x4000_0000_0000_0000; FPSCR = 0x0000_4000 (no flag; FPRF = 0b00100) -/
theorem test_float_add :
    (gives (runW 0xFC61102A (fpS 0x00000000 [(1, 0x3FF0000000000000), (2, 0x4000000000000000)]))
      (fun t => t.fpscr == 0x00004000 && t.getFpr 3 == 0x4008000000000000) &&
    gives (runW 0xFC61102A (fpS 0x00000001 [(1, 0x7FEFFFFFFFFFFFFF), (2, 0x7FEFFFFFFFFFFFFF)]))
      (fun t => t.fpscr == 0x92024001 && t.getFpr 3 == 0x7FEFFFFFFFFFFFFF) &&
    gives (runW 0xEC61102A (fpS 0x00000000 [(1, 0x3FF0000000000000), (2, 0x3E70000000000000)]))
      (fun t => t.fpscr == 0x82024000 && t.getFpr 3 == 0x3FF0000000000000) &&
    gives (runW 0xEC61102A (fpS 0x00000002 [(1, 0x3FF0000000000000), (2, 0x3E70000000000000)]))
      (fun t => t.fpscr == 0x82064002 && t.getFpr 3 == 0x3FF0000020000000) &&
    gives (runW 0xFC611028 (fpS 0x00000000 [(1, 0x3FF0000000000000), (2, 0x3FF0000000000000)]))
      (fun t => t.fpscr == 0x00002000 && t.getFpr 3 == 0x0000000000000000) &&
    gives (runW 0xFC611028 (fpS 0x00000000 [(1, 0x7FF0000000000000), (2, 0x7FF0000000000000)]))
      (fun t => t.fpscr == 0xA0811000 && t.getFpr 3 == 0x7FF8000000000000) &&
    gives (runW 0xEC611028 (fpS 0x00000000 [(1, 0x4008000000000000), (2, 0x3FF0000000000000)]))
      (fun t => t.fpscr == 0x00004000 && t.getFpr 3 == 0x4000000000000000)) = true := by decide +kernel

/-- fmul f3,f1,f2 | frA = 0x4000_0000_0000_0000; frC = 0x4008_0000_0000_0000; FPSCR = 0x0000_0000 | frD = 0x4018_0000_0000_0000; FPSCR = 0x0000_4000 (no flag; FPRF = 0b00100)
  fmul f3,f1,f2 | frA = 0x0010_0000_0000_0001; frC = 0x3FE0_0000_0000_0000; FPSCR = 0x0000_0000 | frD = 0x0008_0000_0000_0000; FPSCR = 0x8A03_4000 (FX, UX, XX, FI; FPRF = 0b10100)
  fmuls f3,f1,f2 | frA = 0x3FF8_0000_0000_0000; frC = 0x3FF8_0000_0000_0000; FPSCR = 0x0000_0000 | frD = 0x4002_0000_0000_0000; FPSCR = 0x0000_4000 (no flag; FPRF = 0b00100) -/
theorem test_float_multiply :
    (gives (runW 0xFC6100B2 (fpS 0x00000000 [(1, 0x4000000000000000), (2, 0x4008000000000000)]))
      (fun t => t.fpscr == 0x00004000 && t.getFpr 3 == 0x4018000000000000) &&
    gives (runW 0xFC6100B2 (fpS 0x00000000 [(1, 0x0010000000000001), (2, 0x3FE0000000000000)]))
      (fun t => t.fpscr == 0x8A034000 && t.getFpr 3 == 0x0008000000000000) &&
    gives (runW 0xEC6100B2 (fpS 0x00000000 [(1, 0x3FF8000000000000), (2, 0x3FF8000000000000)]))
      (fun t => t.fpscr == 0x00004000 && t.getFpr 3 == 0x4002000000000000)) = true := by decide +kernel

/-- fdiv f3,f1,f2 | frA = 0x4018_0000_0000_0000; frB = 0x4000_0000_0000_0000; FPSCR = 0x0000_0000 | frD = 0x4008_0000_0000_0000; FPSCR = 0x0000_4000 (no flag; FPRF = 0b00100)
  fdiv f3,f1,f2 | frA = 0x3FF0_0000_0000_0000; frB = 0x4008_0000_0000_0000; FPSCR = 0x0000_0002 | frD = 0x3FD5_5555_5555_5556; FPSCR = 0x8206_4002 (FX, XX, FR, FI; FPRF = 0b00100)
  fdivs f3,f1,f2 | frA = 0x3FF0_0000_0000_0000; frB = 0x4008_0000_0000_0000; FPSCR = 0x0000_0000 | frD = 0x3FD5_5555_6000_0000; FPSCR = 0x8206_4000 (FX, XX, FR, FI; FPRF = 0b00100)
  fsqrt f3,f2 | frB = 0x4010_0000_0000_0000; FPSCR = 0x0000_0000 | frD = 0x4000_0000_0000_0000; FPSCR = 0x0000_4000 (no flag; FPRF = 0b00100)
  fsqrts f3,f2 | frB = 0x4022_0000_0000_0000; FPSCR = 0x0000_0000 | frD = 0x4008_0000_0000_0000; FPSCR = 0x0000_4000 (no flag; FPRF = 0b00100) -/
theorem test_float_divide_and_root :
    (gives (runW 0xFC611024 (fpS 0x00000000 [(1, 0x4018000000000000), (2, 0x4000000000000000)]))
      (fun t => t.fpscr == 0x00004000 && t.getFpr 3 == 0x4008000000000000) &&
    gives (runW 0xFC611024 (fpS 0x00000002 [(1, 0x3FF0000000000000), (2, 0x4008000000000000)]))
      (fun t => t.fpscr == 0x82064002 && t.getFpr 3 == 0x3FD5555555555556) &&
    gives (runW 0xEC611024 (fpS 0x00000000 [(1, 0x3FF0000000000000), (2, 0x4008000000000000)]))
      (fun t => t.fpscr == 0x82064000 && t.getFpr 3 == 0x3FD5555560000000) &&
    gives (runW 0xFC60102C (fpS 0x00000000 [(2, 0x4010000000000000)]))
      (fun t => t.fpscr == 0x00004000 && t.getFpr 3 == 0x4000000000000000) &&
    gives (runW 0xEC60102C (fpS 0x00000000 [(2, 0x4022000000000000)]))
      (fun t => t.fpscr == 0x00004000 && t.getFpr 3 == 0x4008000000000000)) = true := by decide +kernel

/-- fmadd f1,f2,f3,f4 | frA = 0x4000_0000_0000_0000; frC = 0x4008_0000_0000_0000; frB = 0x3FF0_0000_0000_0000; FPSCR = 0x0000_0000 | frD = 0x401C_0000_0000_0000; FPSCR = 0x0000_4000 (no flag; FPRF = 0b00100)
  fmadd f1,f2,f3,f4 | frA = 0x7FF0_0000_0000_0000; frC = 0x3FF0_0000_0000_0000; frB = 0xFFF0_0000_0000_0000; FPSCR = 0x0000_0000 | frD = 0x7FF8_0000_0000_0000; FPSCR = 0xA081_1000 (FX, VX, VXISI; FPRF = 0b10001)
  fmadds f1,f2,f3,f4 | frA = 0x4000_0000_0000_0000; frC = 0x4008_0000_0000_0000; frB = 0x3FF0_0000_0000_0000; FPSCR = 0x0000_0000 | frD = 0x401C_0000_0000_0000; FPSCR = 0x0000_4000 (no flag; FPRF = 0b00100)
  fmsub f1,f2,f3,f4 | frA = 0x4000_0000_0000_0000; frC = 0x4008_0000_0000_0000; frB = 0x3FF0_0000_0000_0000; FPSCR = 0x0000_0000 | frD = 0x4014_0000_0000_0000; FPSCR = 0x0000_4000 (no flag; FPRF = 0b00100)
  fmsubs f1,f2,f3,f4 | frA = 0x4000_0000_0000_0000; frC = 0x4008_0000_0000_0000; frB = 0x3FF0_0000_0000_0000; FPSCR = 0x0000_0000 | frD = 0x4014_0000_0000_0000; FPSCR = 0x0000_4000 (no flag; FPRF = 0b00100) -/
theorem test_float_multiply_add :
    (gives (runW 0xFC2220FA (fpS 0x00000000 [(2, 0x4000000000000000), (3, 0x4008000000000000), (4, 0x3FF0000000000000)]))
      (fun t => t.fpscr == 0x00004000 && t.getFpr 1 == 0x401C000000000000) &&
    gives (runW 0xFC2220FA (fpS 0x00000000 [(2, 0x7FF0000000000000), (3, 0x3FF0000000000000), (4, 0xFFF0000000000000)]))
      (fun t => t.fpscr == 0xA0811000 && t.getFpr 1 == 0x7FF8000000000000) &&
    gives (runW 0xEC2220FA (fpS 0x00000000 [(2, 0x4000000000000000), (3, 0x4008000000000000), (4, 0x3FF0000000000000)]))
      (fun t => t.fpscr == 0x00004000 && t.getFpr 1 == 0x401C000000000000) &&
    gives (runW 0xFC2220F8 (fpS 0x00000000 [(2, 0x4000000000000000), (3, 0x4008000000000000), (4, 0x3FF0000000000000)]))
      (fun t => t.fpscr == 0x00004000 && t.getFpr 1 == 0x4014000000000000) &&
    gives (runW 0xEC2220F8 (fpS 0x00000000 [(2, 0x4000000000000000), (3, 0x4008000000000000), (4, 0x3FF0000000000000)]))
      (fun t => t.fpscr == 0x00004000 && t.getFpr 1 == 0x4014000000000000)) = true := by decide +kernel

/-- fnmadd f1,f2,f3,f4 | frA = 0x4000_0000_0000_0000; frC = 0x4008_0000_0000_0000; frB = 0x3FF0_0000_0000_0000; FPSCR = 0x0000_0000 | frD = 0xC01C_0000_0000_0000; FPSCR = 0x0000_8000 (no flag; FPRF = 0b01000)
  fnmadd f1,f2,f3,f4 | frA = 0x3FF0_0000_0000_0000; frC = 0x3FF0_0000_0000_0000; frB = 0x7FF8_0000_0000_0055; FPSCR = 0x0000_0000 | frD = 0x7FF8_0000_0000_0055; FPSCR = 0x0001_1000 (no flag; FPRF = 0b10001)
  fnmadds f1,f2,f3,f4 | frA = 0x4000_0000_0000_0000; frC = 0x4008_0000_0000_0000; frB = 0x3FF0_0000_0000_0000; FPSCR = 0x0000_0000 | frD = 0xC01C_0000_0000_0000; FPSCR = 0x0000_8000 (no flag; FPRF = 0b01000)
  fnmsub f1,f2,f3,f4 | frA = 0x4000_0000_0000_0000; frC = 0x4008_0000_0000_0000; frB = 0x3FF0_0000_0000_0000; FPSCR = 0x0000_0000 | frD = 0xC014_0000_0000_0000; FPSCR = 0x0000_8000 (no flag; FPRF = 0b01000)
  fnmsubs f1,f2,f3,f4 | frA = 0x4000_0000_0000_0000; frC = 0x4008_0000_0000_0000; frB = 0x3FF0_0000_0000_0000; FPSCR = 0x0000_0000 | frD = 0xC014_0000_0000_0000; FPSCR = 0x0000_8000 (no flag; FPRF = 0b01000) -/
theorem test_float_negative_multiply_add :
    (gives (runW 0xFC2220FE (fpS 0x00000000 [(2, 0x4000000000000000), (3, 0x4008000000000000), (4, 0x3FF0000000000000)]))
      (fun t => t.fpscr == 0x00008000 && t.getFpr 1 == 0xC01C000000000000) &&
    gives (runW 0xFC2220FE (fpS 0x00000000 [(2, 0x3FF0000000000000), (3, 0x3FF0000000000000), (4, 0x7FF8000000000055)]))
      (fun t => t.fpscr == 0x00011000 && t.getFpr 1 == 0x7FF8000000000055) &&
    gives (runW 0xEC2220FE (fpS 0x00000000 [(2, 0x4000000000000000), (3, 0x4008000000000000), (4, 0x3FF0000000000000)]))
      (fun t => t.fpscr == 0x00008000 && t.getFpr 1 == 0xC01C000000000000) &&
    gives (runW 0xFC2220FC (fpS 0x00000000 [(2, 0x4000000000000000), (3, 0x4008000000000000), (4, 0x3FF0000000000000)]))
      (fun t => t.fpscr == 0x00008000 && t.getFpr 1 == 0xC014000000000000) &&
    gives (runW 0xEC2220FC (fpS 0x00000000 [(2, 0x4000000000000000), (3, 0x4008000000000000), (4, 0x3FF0000000000000)]))
      (fun t => t.fpscr == 0x00008000 && t.getFpr 1 == 0xC014000000000000)) = true := by decide +kernel

/-- fmr f1,f2 | f2 = 0x7FF0_0000_0000_0001 | f1 = 0x7FF0_0000_0000_0001; FPSCR unchanged
  fneg f1,f2 | f2 = 0x3FF0_0000_0000_0000 | f1 = 0xBFF0_0000_0000_0000; FPSCR unchanged
  fabs f1,f2 | f2 = 0xFFF8_0000_0000_0000 | f1 = 0x7FF8_0000_0000_0000; FPSCR unchanged
  fnabs f1,f2 | f2 = 0x4000_0000_0000_0000 | f1 = 0xC000_0000_0000_0000; FPSCR unchanged -/
theorem test_float_move :
    (gives (runW 0xFC201090 (fpS 0 [(2, 0x7FF0000000000001)]))
      (fun t => t.fpscr == 0 && t.getFpr 1 == 0x7FF0000000000001) &&
    gives (runW 0xFC201050 (fpS 0 [(2, 0x3FF0000000000000)]))
      (fun t => t.fpscr == 0 && t.getFpr 1 == 0xBFF0000000000000) &&
    gives (runW 0xFC201210 (fpS 0 [(2, 0xFFF8000000000000)]))
      (fun t => t.fpscr == 0 && t.getFpr 1 == 0x7FF8000000000000) &&
    gives (runW 0xFC201110 (fpS 0 [(2, 0x4000000000000000)]))
      (fun t => t.fpscr == 0 && t.getFpr 1 == 0xC000000000000000)) = true := by decide +kernel

/-- frsp f1,f2 | frB = 0x3FF0_0000_1000_0000; FPSCR = 0x0000_0000 | frD = 0x3FF0_0000_0000_0000; FPSCR = 0x8202_4000 (FX, XX, FI; FPRF = 0b00100)
  frsp f1,f2 | frB = 0x7FF8_0000_1234_5678; FPSCR = 0x0000_0000 | frD = 0x7FF8_0000_0000_0000; FPSCR = 0x0001_1000 (no flag; FPRF = 0b10001)
  fctiw f1,f2 | frB = 0x7FF0_0000_0000_0001; FPSCR = 0x0000_0080 | frD unchanged; FPSCR = 0xE100_0180 (FX, FEX, VX, VXSNAN, VXCVI; FPRF unchanged)
  fcfid f1,f2 | frB = 0x0000_0000_0000_0001; FPSCR = 0x0000_0000 | frD = 0x3FF0_0000_0000_0000; FPSCR = 0x0000_4000 (no flag; FPRF = 0b00100) -/
theorem test_float_convert :
    (gives (runW 0xFC201018 (fpS 0x00000000 [(2, 0x3FF0000010000000)]))
      (fun t => t.fpscr == 0x82024000 && t.getFpr 1 == 0x3FF0000000000000) &&
    gives (runW 0xFC201018 (fpS 0x00000000 [(2, 0x7FF8000012345678)]))
      (fun t => t.fpscr == 0x00011000 && t.getFpr 1 == 0x7FF8000000000000) &&
    gives (runW 0xFC20101C (fpS 0x00000080 [(2, 0x7FF0000000000001)]))
      (fun t => t.fpscr == 0xE1000180) &&
    gives (runW 0xFC20169C (fpS 0x00000000 [(2, 0x0000000000000001)]))
      (fun t => t.fpscr == 0x00004000 && t.getFpr 1 == 0x3FF0000000000000)) = true := by decide +kernel

/-- fcmpu cr1,f1,f2 | frA = 0x3FF0_0000_0000_0000; frB = 0x4000_0000_0000_0000; FPSCR = 0x0000_0000; CR = 0x0000_0000 | CR = 0x0800_0000; FPSCR = 0x0000_8000 (no flag; FPCC = 0b1000)
  fcmpu cr7,f1,f2 | frA = 0xFFF0_0000_0000_0000; frB = 0xFFE1_CCF3_85EB_C8A0; FPSCR = 0x0000_0000; CR = 0x0000_0000 | CR = 0x0000_0008; FPSCR = 0x0000_8000 (no flag; FPCC = 0b1000)
  fcmpo cr1,f1,f2 | frA = 0x7FF8_0000_0000_0000; frB = 0x3FF0_0000_0000_0000; FPSCR = 0x0000_0000; CR = 0x0000_0000 | CR = 0x0100_0000; FPSCR = 0xA008_1000 (FX, VX, VXVC; FPCC = 0b0001)
  fcmpo cr1,f1,f2 | frA = 0x3FF0_0000_0000_0000; frB = 0x3FF0_0000_0000_0000; FPSCR = 0x0000_0000; CR = 0x0000_0000 | CR = 0x0200_0000; FPSCR = 0x0000_2000 (no flag; FPCC = 0b0010) -/
theorem test_float_compare :
    (gives (runW 0xFC811000 (fpS 0x00000000 [(1, 0x3FF0000000000000), (2, 0x4000000000000000)]))
      (fun t => t.fpscr == 0x00008000 && t.cr == 0x08000000) &&
    gives (runW 0xFF811000 (fpS 0x00000000 [(1, 0xFFF0000000000000), (2, 0xFFE1CCF385EBC8A0)]))
      (fun t => t.fpscr == 0x00008000 && t.cr == 0x00000008) &&
    gives (runW 0xFC811040 (fpS 0x00000000 [(1, 0x7FF8000000000000), (2, 0x3FF0000000000000)]))
      (fun t => t.fpscr == 0xA0081000 && t.cr == 0x01000000) &&
    gives (runW 0xFC811040 (fpS 0x00000000 [(1, 0x3FF0000000000000), (2, 0x3FF0000000000000)]))
      (fun t => t.fpscr == 0x00002000 && t.cr == 0x02000000)) = true := by decide +kernel

/-- mcrfs cr0,1 | FPSCR = 0x8200_0000; CR = 0x0000_0000 | CR = 0x2000_0000; FPSCR = 0x8000_0000
  mcrfs cr1,7 | FPSCR = 0x0000_00F3; CR = 0x0000_0000 | CR = 0x0300_0000; FPSCR = 0x0000_00F3
  mtfsf 0xFF,f1 | f1 = 0x0000_0000_6000_00F8; FPSCR = 0x0000_0000 | FPSCR = 0x0000_00F8 (no flag)
  mtfsfi 7,1 | FPSCR = 0x0000_0000 | FPSCR = 0x0000_0001 (no flag)
  mtfsfi 6,8 | FPSCR = 0x2080_0000 | FPSCR = 0x6080_0080 (FEX, VX, VXISI)
  mtfsb0 23 | FPSCR = 0xA000_0100 | FPSCR = 0x8000_0000 (FX)
  mtfsb0 0 | FPSCR = 0xA000_0100 | FPSCR = 0x2000_0100 (VX, VXCVI)
  mtfsb1 30 | FPSCR = 0x0000_0000 | FPSCR = 0x0000_0002 (no flag)
  mtfsb1 24 | FPSCR = 0xA080_0000 | FPSCR = 0xE080_0080 (FX, FEX, VX, VXISI) -/
theorem test_float_status :
    (gives (runW 0xFC040080 (fpS 0x82000000 []))
      (fun t => t.fpscr == 0x80000000 && t.cr == 0x20000000) &&
    gives (runW 0xFC9C0080 (fpS 0x000000F3 []))
      (fun t => t.fpscr == 0x000000F3 && t.cr == 0x03000000) &&
    gives (runW 0xFDFE0D8E (fpS 0x00000000 [(1, 0x00000000600000F8)]))
      (fun t => t.fpscr == 0x000000F8) &&
    gives (runW 0xFF80110C (fpS 0x00000000 []))
      (fun t => t.fpscr == 0x00000001) &&
    gives (runW 0xFF00810C (fpS 0x20800000 []))
      (fun t => t.fpscr == 0x60800080) &&
    gives (runW 0xFEE0008C (fpS 0xA0000100 []))
      (fun t => t.fpscr == 0x80000000) &&
    gives (runW 0xFC00008C (fpS 0xA0000100 []))
      (fun t => t.fpscr == 0x20000100) &&
    gives (runW 0xFFC0004C (fpS 0x00000000 []))
      (fun t => t.fpscr == 0x00000002) &&
    gives (runW 0xFF00004C (fpS 0xA0800000 []))
      (fun t => t.fpscr == 0xE0800080)) = true := by decide +kernel

/-- `lbz r3,0(r4)` 0x88640000 r4 = 0x0000_0000_0000_2000; r3 = 0xFFFF_FFFF_FFFF_FFFF; memory M0 => r3 = 0x0000_0000_0000_0080
  `lbzu r3,1(r4)` 0x8C640001 r4 = 0x0000_0000_0000_2000; memory M0 => r3 = 0x0000_0000_0000_0001; r4 = 0x0000_0000_0000_2001
  `lbzu r3,1(0)` 0x8C600001 memory M0 => fault InvalidForm
  `lbzx r3,r4,r5` 0x7C6428AE r4 = 0x0000_0000_0000_2000; r5 = 0x0000_0000_0000_0003; memory M0 => r3 = 0x0000_0000_0000_00FE
  `lbzux r3,r4,r5` 0x7C6428EE r4 = 0x0000_0000_0000_2000; r5 = 0xFFFF_FFFF_FFFF_FFFF; memory M0 => r3 = 0x0000_0000_0000_0088; r4 = 0x0000_0000_0000_1FFF -/
theorem test_load_byte :
    (gives (runW 0x88640000 (bS 0x8000000000002000 0 0 0 0 [(4,0x0000000000002000),(3,0xFFFFFFFFFFFFFFFF)] [] [(0x1FF8, [0x11,0x22,0x33,0x44,0x55,0x66,0x77,0x88]),(0x2000, [0x80,0x01,0xFF,0xFE,0xDE,0xAD,0xBE,0xEF,1,2,3,4,5,6,7,8])]))
      (fun t => t.getGpr 3 == 0x0000000000000080 && t.nia == 0x1004) &&
    gives (runW 0x8C640001 (bS 0x8000000000002000 0 0 0 0 [(4,0x0000000000002000)] [] [(0x1FF8, [0x11,0x22,0x33,0x44,0x55,0x66,0x77,0x88]),(0x2000, [0x80,0x01,0xFF,0xFE,0xDE,0xAD,0xBE,0xEF,1,2,3,4,5,6,7,8])]))
      (fun t => t.getGpr 3 == 0x0000000000000001 && t.getGpr 4 == 0x0000000000002001 && t.nia == 0x1004) &&
    faultsWith (runW 0x8C600001 (bS 0x8000000000002000 0 0 0 0 [] [] [(0x1FF8, [0x11,0x22,0x33,0x44,0x55,0x66,0x77,0x88]),(0x2000, [0x80,0x01,0xFF,0xFE,0xDE,0xAD,0xBE,0xEF,1,2,3,4,5,6,7,8])])) .invalidForm &&
    gives (runW 0x7C6428AE (bS 0x8000000000002000 0 0 0 0 [(4,0x0000000000002000),(5,0x0000000000000003)] [] [(0x1FF8, [0x11,0x22,0x33,0x44,0x55,0x66,0x77,0x88]),(0x2000, [0x80,0x01,0xFF,0xFE,0xDE,0xAD,0xBE,0xEF,1,2,3,4,5,6,7,8])]))
      (fun t => t.getGpr 3 == 0x00000000000000FE && t.nia == 0x1004) &&
    gives (runW 0x7C6428EE (bS 0x8000000000002000 0 0 0 0 [(4,0x0000000000002000),(5,0xFFFFFFFFFFFFFFFF)] [] [(0x1FF8, [0x11,0x22,0x33,0x44,0x55,0x66,0x77,0x88]),(0x2000, [0x80,0x01,0xFF,0xFE,0xDE,0xAD,0xBE,0xEF,1,2,3,4,5,6,7,8])]))
      (fun t => t.getGpr 3 == 0x0000000000000088 && t.getGpr 4 == 0x0000000000001FFF && t.nia == 0x1004)) = true := by decide +kernel

/-- `lhz r3,2(r4)` 0xA0640002 r4 = 0x0000_0000_0000_2000; memory M0 => r3 = 0x0000_0000_0000_FFFE
  `lhzx r3,0,r5` 0x7C602A2E r0 = 0x0000_0000_0000_0040; r5 = 0x0000_0000_0000_2000; memory M0 => r3 = 0x0000_0000_0000_8001
  `lha r3,2(r4)` 0xA8640002 r4 = 0x0000_0000_0000_2000; memory M0 => r3 = 0xFFFF_FFFF_FFFF_FFFE
  `lhau r3,-8(r4)` 0xAC64FFF8 r4 = 0x0000_0000_0000_2000; memory M0 => r3 = 0x0000_0000_0000_1122; r4 = 0x0000_0000_0000_1FF8
  `lhax r3,r4,r5` 0x7C642AAE r4 = 0x0000_0000_0000_2000; r5 = 0x0000_0000_0000_0000; memory M0 => r3 = 0xFFFF_FFFF_FFFF_8001
  `lhbrx r3,0,r4` 0x7C60262C r4 = 0x0000_0000_0000_2000; memory M0 => r3 = 0x0000_0000_0000_0180 -/
theorem test_load_half :
    (gives (runW 0xA0640002 (bS 0x8000000000002000 0 0 0 0 [(4,0x0000000000002000)] [] [(0x1FF8, [0x11,0x22,0x33,0x44,0x55,0x66,0x77,0x88]),(0x2000, [0x80,0x01,0xFF,0xFE,0xDE,0xAD,0xBE,0xEF,1,2,3,4,5,6,7,8])]))
      (fun t => t.getGpr 3 == 0x000000000000FFFE && t.nia == 0x1004) &&
    gives (runW 0x7C602A2E (bS 0x8000000000002000 0 0 0 0 [(0,0x0000000000000040),(5,0x0000000000002000)] [] [(0x1FF8, [0x11,0x22,0x33,0x44,0x55,0x66,0x77,0x88]),(0x2000, [0x80,0x01,0xFF,0xFE,0xDE,0xAD,0xBE,0xEF,1,2,3,4,5,6,7,8])]))
      (fun t => t.getGpr 3 == 0x0000000000008001 && t.nia == 0x1004) &&
    gives (runW 0xA8640002 (bS 0x8000000000002000 0 0 0 0 [(4,0x0000000000002000)] [] [(0x1FF8, [0x11,0x22,0x33,0x44,0x55,0x66,0x77,0x88]),(0x2000, [0x80,0x01,0xFF,0xFE,0xDE,0xAD,0xBE,0xEF,1,2,3,4,5,6,7,8])]))
      (fun t => t.getGpr 3 == 0xFFFFFFFFFFFFFFFE && t.nia == 0x1004) &&
    gives (runW 0xAC64FFF8 (bS 0x8000000000002000 0 0 0 0 [(4,0x0000000000002000)] [] [(0x1FF8, [0x11,0x22,0x33,0x44,0x55,0x66,0x77,0x88]),(0x2000, [0x80,0x01,0xFF,0xFE,0xDE,0xAD,0xBE,0xEF,1,2,3,4,5,6,7,8])]))
      (fun t => t.getGpr 3 == 0x0000000000001122 && t.getGpr 4 == 0x0000000000001FF8 && t.nia == 0x1004) &&
    gives (runW 0x7C642AAE (bS 0x8000000000002000 0 0 0 0 [(4,0x0000000000002000),(5,0x0000000000000000)] [] [(0x1FF8, [0x11,0x22,0x33,0x44,0x55,0x66,0x77,0x88]),(0x2000, [0x80,0x01,0xFF,0xFE,0xDE,0xAD,0xBE,0xEF,1,2,3,4,5,6,7,8])]))
      (fun t => t.getGpr 3 == 0xFFFFFFFFFFFF8001 && t.nia == 0x1004) &&
    gives (runW 0x7C60262C (bS 0x8000000000002000 0 0 0 0 [(4,0x0000000000002000)] [] [(0x1FF8, [0x11,0x22,0x33,0x44,0x55,0x66,0x77,0x88]),(0x2000, [0x80,0x01,0xFF,0xFE,0xDE,0xAD,0xBE,0xEF,1,2,3,4,5,6,7,8])]))
      (fun t => t.getGpr 3 == 0x0000000000000180 && t.nia == 0x1004)) = true := by decide +kernel

/-- `lwz r3,4(r4)` 0x80640004 r4 = 0x0000_0000_0000_2000; r3 = 0xFFFF_FFFF_FFFF_FFFF; memory M0 => r3 = 0x0000_0000_DEAD_BEEF
  `lwzu r3,4(r4)` 0x84640004 r4 = 0x0000_0000_0000_2000; memory M0 => r3 = 0x0000_0000_DEAD_BEEF; r4 = 0x0000_0000_0000_2004
  `lwzx r3,r4,r5` 0x7C64282E r4 = 0x0000_0000_0000_2000; r5 = 0x0000_0000_0000_0001; memory M0 => r3 = 0x0000_0000_01FF_FEDE
  `lwa r3,4(r4)` 0xE8640006 r4 = 0x0000_0000_0000_2000; memory M0 => r3 = 0xFFFF_FFFF_DEAD_BEEF
  `lwaux r3,r4,r5` 0x7C642AEA r4 = 0x0000_0000_0000_2000; r5 = 0x0000_0000_0000_0004; memory M0 => r3 = 0xFFFF_FFFF_DEAD_BEEF; r4 = 0x0000_0000_0000_2004
  `lwax r3,r4,r5` 0x7C642AAA r4 = 0x0000_0000_0000_2000; r5 = 0x0000_0000_0000_0008; memory M0 => r3 = 0x0000_0000_0102_0304
  `lwbrx r3,0,r4` 0x7C60242C r4 = 0x0000_0000_0000_2004; r3 = 0xFFFF_FFFF_FFFF_FFFF; memory M0 => r3 = 0x0000_0000_EFBE_ADDE -/
theorem test_load_word :
    (gives (runW 0x80640004 (bS 0x8000000000002000 0 0 0 0 [(4,0x0000000000002000),(3,0xFFFFFFFFFFFFFFFF)] [] [(0x1FF8, [0x11,0x22,0x33,0x44,0x55,0x66,0x77,0x88]),(0x2000, [0x80,0x01,0xFF,0xFE,0xDE,0xAD,0xBE,0xEF,1,2,3,4,5,6,7,8])]))
      (fun t => t.getGpr 3 == 0x00000000DEADBEEF && t.nia == 0x1004) &&
    gives (runW 0x84640004 (bS 0x8000000000002000 0 0 0 0 [(4,0x0000000000002000)] [] [(0x1FF8, [0x11,0x22,0x33,0x44,0x55,0x66,0x77,0x88]),(0x2000, [0x80,0x01,0xFF,0xFE,0xDE,0xAD,0xBE,0xEF,1,2,3,4,5,6,7,8])]))
      (fun t => t.getGpr 3 == 0x00000000DEADBEEF && t.getGpr 4 == 0x0000000000002004 && t.nia == 0x1004) &&
    gives (runW 0x7C64282E (bS 0x8000000000002000 0 0 0 0 [(4,0x0000000000002000),(5,0x0000000000000001)] [] [(0x1FF8, [0x11,0x22,0x33,0x44,0x55,0x66,0x77,0x88]),(0x2000, [0x80,0x01,0xFF,0xFE,0xDE,0xAD,0xBE,0xEF,1,2,3,4,5,6,7,8])]))
      (fun t => t.getGpr 3 == 0x0000000001FFFEDE && t.nia == 0x1004) &&
    gives (runW 0xE8640006 (bS 0x8000000000002000 0 0 0 0 [(4,0x0000000000002000)] [] [(0x1FF8, [0x11,0x22,0x33,0x44,0x55,0x66,0x77,0x88]),(0x2000, [0x80,0x01,0xFF,0xFE,0xDE,0xAD,0xBE,0xEF,1,2,3,4,5,6,7,8])]))
      (fun t => t.getGpr 3 == 0xFFFFFFFFDEADBEEF && t.nia == 0x1004) &&
    gives (runW 0x7C642AEA (bS 0x8000000000002000 0 0 0 0 [(4,0x0000000000002000),(5,0x0000000000000004)] [] [(0x1FF8, [0x11,0x22,0x33,0x44,0x55,0x66,0x77,0x88]),(0x2000, [0x80,0x01,0xFF,0xFE,0xDE,0xAD,0xBE,0xEF,1,2,3,4,5,6,7,8])]))
      (fun t => t.getGpr 3 == 0xFFFFFFFFDEADBEEF && t.getGpr 4 == 0x0000000000002004 && t.nia == 0x1004) &&
    gives (runW 0x7C642AAA (bS 0x8000000000002000 0 0 0 0 [(4,0x0000000000002000),(5,0x0000000000000008)] [] [(0x1FF8, [0x11,0x22,0x33,0x44,0x55,0x66,0x77,0x88]),(0x2000, [0x80,0x01,0xFF,0xFE,0xDE,0xAD,0xBE,0xEF,1,2,3,4,5,6,7,8])]))
      (fun t => t.getGpr 3 == 0x0000000001020304 && t.nia == 0x1004) &&
    gives (runW 0x7C60242C (bS 0x8000000000002000 0 0 0 0 [(4,0x0000000000002004),(3,0xFFFFFFFFFFFFFFFF)] [] [(0x1FF8, [0x11,0x22,0x33,0x44,0x55,0x66,0x77,0x88]),(0x2000, [0x80,0x01,0xFF,0xFE,0xDE,0xAD,0xBE,0xEF,1,2,3,4,5,6,7,8])]))
      (fun t => t.getGpr 3 == 0x00000000EFBEADDE && t.nia == 0x1004)) = true := by decide +kernel

/-- `ld r3,-8(r4)` 0xE864FFF8 r4 = 0x0000_0000_0000_2000; memory M0 => r3 = 0x1122_3344_5566_7788
  `ldu r3,8(r4)` 0xE8640009 r4 = 0x0000_0000_0000_2000; memory M0 => r3 = 0x0102_0304_0506_0708; r4 = 0x0000_0000_0000_2008
  `ldux r3,r4,r5` 0x7C64286A r4 = 0x0000_0000_0000_1FF0; r5 = 0x0000_0000_0000_0008; memory M0 => r3 = 0x1122_3344_5566_7788; r4 = 0x0000_0000_0000_1FF8
  `ldx r3,r4,r5` 0x7C64282A r4 = 0x0000_0000_0000_2000; r5 = 0x0000_0000_0000_0000; memory M0 => r3 = 0x8001_FFFE_DEAD_BEEF -/
theorem test_load_double :
    (gives (runW 0xE864FFF8 (bS 0x8000000000002000 0 0 0 0 [(4,0x0000000000002000)] [] [(0x1FF8, [0x11,0x22,0x33,0x44,0x55,0x66,0x77,0x88]),(0x2000, [0x80,0x01,0xFF,0xFE,0xDE,0xAD,0xBE,0xEF,1,2,3,4,5,6,7,8])]))
      (fun t => t.getGpr 3 == 0x1122334455667788 && t.nia == 0x1004) &&
    gives (runW 0xE8640009 (bS 0x8000000000002000 0 0 0 0 [(4,0x0000000000002000)] [] [(0x1FF8, [0x11,0x22,0x33,0x44,0x55,0x66,0x77,0x88]),(0x2000, [0x80,0x01,0xFF,0xFE,0xDE,0xAD,0xBE,0xEF,1,2,3,4,5,6,7,8])]))
      (fun t => t.getGpr 3 == 0x0102030405060708 && t.getGpr 4 == 0x0000000000002008 && t.nia == 0x1004) &&
    gives (runW 0x7C64286A (bS 0x8000000000002000 0 0 0 0 [(4,0x0000000000001FF0),(5,0x0000000000000008)] [] [(0x1FF8, [0x11,0x22,0x33,0x44,0x55,0x66,0x77,0x88]),(0x2000, [0x80,0x01,0xFF,0xFE,0xDE,0xAD,0xBE,0xEF,1,2,3,4,5,6,7,8])]))
      (fun t => t.getGpr 3 == 0x1122334455667788 && t.getGpr 4 == 0x0000000000001FF8 && t.nia == 0x1004) &&
    gives (runW 0x7C64282A (bS 0x8000000000002000 0 0 0 0 [(4,0x0000000000002000),(5,0x0000000000000000)] [] [(0x1FF8, [0x11,0x22,0x33,0x44,0x55,0x66,0x77,0x88]),(0x2000, [0x80,0x01,0xFF,0xFE,0xDE,0xAD,0xBE,0xEF,1,2,3,4,5,6,7,8])]))
      (fun t => t.getGpr 3 == 0x8001FFFEDEADBEEF && t.nia == 0x1004)) = true := by decide +kernel

/-- `stb r3,0(r4)` 0x98640000 r3 = 0x1122_3344_5566_7788; r4 = 0x0000_0000_0000_3000 => mem[0x3000..0x3000] = 88
  `stbu r3,-1(r4)` 0x9C64FFFF r3 = 0x1122_3344_5566_7788; r4 = 0x0000_0000_0000_3000 => r4 = 0x0000_0000_0000_2FFF; mem[0x2FFF..0x2FFF] = 88
  `stbx r3,r4,r5` 0x7C6429AE r3 = 0x1122_3344_5566_7788; r4 = 0x0000_0000_0000_3000; r5 = 0x0000_0000_0000_0002 => mem[0x3002..0x3002] = 88
  `sth r3,2(r4)` 0xB0640002 r3 = 0x1122_3344_5566_7788; r4 = 0x0000_0000_0000_3000 => mem[0x3002..0x3003] = 77 88
  `sthu r3,2(r4)` 0xB4640002 r3 = 0x1122_3344_5566_7788; r4 = 0x0000_0000_0000_3000 => r4 = 0x0000_0000_0000_3002; mem[0x3002..0x3003] = 77 88
  `sthx r3,r4,r5` 0x7C642B2E r3 = 0x1122_3344_5566_7788; r4 = 0x0000_0000_0000_3000; r5 = 0x0000_0000_0000_0006 => mem[0x3006..0x3007] = 77 88
  `sthbrx r3,0,r4` 0x7C60272C r3 = 0x1122_3344_5566_7788; r4 = 0x0000_0000_0000_3000 => mem[0x3000..0x3001] = 88 77 -/
theorem test_store_byte_and_half :
    (gives (runW 0x98640000 (gS [(3,0x1122334455667788),(4,0x0000000000003000)]))
      (fun t => t.nia == 0x1004 && t.mem.read 12288 == some 0x88) &&
    gives (runW 0x9C64FFFF (gS [(3,0x1122334455667788),(4,0x0000000000003000)]))
      (fun t => t.getGpr 4 == 0x0000000000002FFF && t.nia == 0x1004 && t.mem.read 12287 == some 0x88) &&
    gives (runW 0x7C6429AE (gS [(3,0x1122334455667788),(4,0x0000000000003000),(5,0x0000000000000002)]))
      (fun t => t.nia == 0x1004 && t.mem.read 12290 == some 0x88) &&
    gives (runW 0xB0640002 (gS [(3,0x1122334455667788),(4,0x0000000000003000)]))
      (fun t => t.nia == 0x1004 && t.mem.read 12290 == some 0x77 && t.mem.read 12291 == some 0x88) &&
    gives (runW 0xB4640002 (gS [(3,0x1122334455667788),(4,0x0000000000003000)]))
      (fun t => t.getGpr 4 == 0x0000000000003002 && t.nia == 0x1004 && t.mem.read 12290 == some 0x77 && t.mem.read 12291 == some 0x88) &&
    gives (runW 0x7C642B2E (gS [(3,0x1122334455667788),(4,0x0000000000003000),(5,0x0000000000000006)]))
      (fun t => t.nia == 0x1004 && t.mem.read 12294 == some 0x77 && t.mem.read 12295 == some 0x88) &&
    gives (runW 0x7C60272C (gS [(3,0x1122334455667788),(4,0x0000000000003000)]))
      (fun t => t.nia == 0x1004 && t.mem.read 12288 == some 0x88 && t.mem.read 12289 == some 0x77)) = true := by decide +kernel

/-- `stw r3,8(r1)` 0x90610008 r3 = 0x1122_3344_5566_7788; r1 = 0x0000_0000_0000_3000 => mem[0x3008..0x300B] = 55 66 77 88
  `stwu r1,-16(r1)` 0x9421FFF0 r1 = 0x0000_0000_0000_3000 => r1 = 0x0000_0000_0000_2FF0; mem[0x2FF0..0x2FF3] = 00 00 30 00
  `stwux r3,r4,r5` 0x7C64296E r3 = 0x1122_3344_5566_7788; r4 = 0x0000_0000_0000_3000; r5 = 0x0000_0000_0000_0004 => r4 = 0x0000_0000_0000_3004; mem[0x3004..0x3007] = 55 66 77 88
  `stwux r3,0,r5` 0x7C60296E r3 = 0x1122_3344_5566_7788; r5 = 0x0000_0000_0000_0004 => fault InvalidForm
  `stwx r3,r4,r5` 0x7C64292E r3 = 0x1122_3344_5566_7788; r4 = 0x0000_0000_0000_3000; r5 = 0x0000_0000_0000_0004 => mem[0x3004..0x3007] = 55 66 77 88
  `stwbrx r3,0,r4` 0x7C60252C r3 = 0x1122_3344_5566_7788; r4 = 0x0000_0000_0000_3000 => mem[0x3000..0x3003] = 88 77 66 55 -/
theorem test_store_word :
    (gives (runW 0x90610008 (gS [(3,0x1122334455667788),(1,0x0000000000003000)]))
      (fun t => t.nia == 0x1004 && t.mem.read 12296 == some 0x55 && t.mem.read 12297 == some 0x66 && t.mem.read 12298 == some 0x77 && t.mem.read 12299 == some 0x88) &&
    gives (runW 0x9421FFF0 (gS [(1,0x0000000000003000)]))
      (fun t => t.getGpr 1 == 0x0000000000002FF0 && t.nia == 0x1004 && t.mem.read 12272 == some 0x00 && t.mem.read 12273 == some 0x00 && t.mem.read 12274 == some 0x30 && t.mem.read 12275 == some 0x00) &&
    gives (runW 0x7C64296E (gS [(3,0x1122334455667788),(4,0x0000000000003000),(5,0x0000000000000004)]))
      (fun t => t.getGpr 4 == 0x0000000000003004 && t.nia == 0x1004 && t.mem.read 12292 == some 0x55 && t.mem.read 12293 == some 0x66 && t.mem.read 12294 == some 0x77 && t.mem.read 12295 == some 0x88) &&
    faultsWith (runW 0x7C60296E (gS [(3,0x1122334455667788),(5,0x0000000000000004)])) .invalidForm &&
    gives (runW 0x7C64292E (gS [(3,0x1122334455667788),(4,0x0000000000003000),(5,0x0000000000000004)]))
      (fun t => t.nia == 0x1004 && t.mem.read 12292 == some 0x55 && t.mem.read 12293 == some 0x66 && t.mem.read 12294 == some 0x77 && t.mem.read 12295 == some 0x88) &&
    gives (runW 0x7C60252C (gS [(3,0x1122334455667788),(4,0x0000000000003000)]))
      (fun t => t.nia == 0x1004 && t.mem.read 12288 == some 0x88 && t.mem.read 12289 == some 0x77 && t.mem.read 12290 == some 0x66 && t.mem.read 12291 == some 0x55)) = true := by decide +kernel

/-- `std r3,16(r1)` 0xF8610010 r3 = 0x1122_3344_5566_7788; r1 = 0x0000_0000_0000_3000 => mem[0x3010..0x3017] = 11 22 33 44 55 66 77 88
  `stdu r1,-112(r1)` 0xF821FF91 r1 = 0x0000_0000_0000_3000 => r1 = 0x0000_0000_0000_2F90; mem[0x2F90..0x2F97] = 00 00 00 00 00 00 30 00
  `stdux r3,r4,r5` 0x7C64296A r3 = 0x1122_3344_5566_7788; r4 = 0x0000_0000_0000_3000; r5 = 0x0000_0000_0000_0008 => r4 = 0x0000_0000_0000_3008; mem[0x3008..0x300F] = 11 22 33 44 55 66 77 88
  `stdx r3,r4,r5` 0x7C64292A r3 = 0x1122_3344_5566_7788; r4 = 0x0000_0000_0000_3000; r5 = 0x0000_0000_0000_0008 => mem[0x3008..0x300F] = 11 22 33 44 55 66 77 88 -/
theorem test_store_double :
    (gives (runW 0xF8610010 (gS [(3,0x1122334455667788),(1,0x0000000000003000)]))
      (fun t => t.nia == 0x1004 && t.mem.read 12304 == some 0x11 && t.mem.read 12305 == some 0x22 && t.mem.read 12306 == some 0x33 && t.mem.read 12307 == some 0x44 && t.mem.read 12308 == some 0x55 && t.mem.read 12309 == some 0x66 && t.mem.read 12310 == some 0x77 && t.mem.read 12311 == some 0x88) &&
    gives (runW 0xF821FF91 (gS [(1,0x0000000000003000)]))
      (fun t => t.getGpr 1 == 0x0000000000002F90 && t.nia == 0x1004 && t.mem.read 12176 == some 0x00 && t.mem.read 12177 == some 0x00 && t.mem.read 12178 == some 0x00 && t.mem.read 12179 == some 0x00 && t.mem.read 12180 == some 0x00 && t.mem.read 12181 == some 0x00 && t.mem.read 12182 == some 0x30 && t.mem.read 12183 == some 0x00) &&
    gives (runW 0x7C64296A (gS [(3,0x1122334455667788),(4,0x0000000000003000),(5,0x0000000000000008)]))
      (fun t => t.getGpr 4 == 0x0000000000003008 && t.nia == 0x1004 && t.mem.read 12296 == some 0x11 && t.mem.read 12297 == some 0x22 && t.mem.read 12298 == some 0x33 && t.mem.read 12299 == some 0x44 && t.mem.read 12300 == some 0x55 && t.mem.read 12301 == some 0x66 && t.mem.read 12302 == some 0x77 && t.mem.read 12303 == some 0x88) &&
    gives (runW 0x7C64292A (gS [(3,0x1122334455667788),(4,0x0000000000003000),(5,0x0000000000000008)]))
      (fun t => t.nia == 0x1004 && t.mem.read 12296 == some 0x11 && t.mem.read 12297 == some 0x22 && t.mem.read 12298 == some 0x33 && t.mem.read 12299 == some 0x44 && t.mem.read 12300 == some 0x55 && t.mem.read 12301 == some 0x66 && t.mem.read 12302 == some 0x77 && t.mem.read 12303 == some 0x88)) = true := by decide +kernel

/-- `lmw r30,0(r4)` 0xBBC40000 r4 = 0x0000_0000_0000_2000; r30 = 0xFFFF_FFFF_FFFF_FFFF; r31 = 0xFFFF_FFFF_FFFF_FFFF; memory M0 => r30 = 0x0000_0000_8001_FFFE; r31 = 0x0000_0000_DEAD_BEEF
  `lmw r3,0(r4)` 0xB8640000 r4 = 0x0000_0000_0000_2000; memory M0 => fault InvalidForm
  `stmw r30,8(r1)` 0xBFC10008 r1 = 0x0000_0000_0000_3000; r30 = 0xAAAA_AAAA_1111_1111; r31 = 0xBBBB_BBBB_2222_2222 => mem[0x3008..0x300F] = 11 11 11 11 22 22 22 22
  `lswi r5,r4,6` 0x7CA434AA r4 = 0x0000_0000_0000_2008; r5 = 0xFFFF_FFFF_FFFF_FFFF; r6 = 0xFFFF_FFFF_FFFF_FFFF; memory M0 => r5 = 0x0000_0000_0102_0304; r6 = 0x0000_0000_0506_0000
  `lswx r5,r4,r3` 0x7CA41C2A r4 = 0x0000_0000_0000_2000; r3 = 0x0000_0000_0000_0008; XER = 0x0000_0003; memory M0 => r5 = 0x0000_0000_0102_0300
  `lswx r4,r4,r6` 0x7C84342A r4 = 0x0000_0000_0000_2000; r6 = 0x0000_0000_0000_0008; XER = 0x0000_0004; memory M0 => fault InvalidForm
  `stswi r5,r4,6` 0x7CA435AA r4 = 0x0000_0000_0000_3000; r5 = 0xFFFF_FFFF_0102_0304; r6 = 0x0000_0000_0506_0708 => mem[0x3000..0x3005] = 01 02 03 04 05 06
  `stswx r5,r4,r3` 0x7CA41D2A r4 = 0x0000_0000_0000_3000; r3 = 0x0000_0000_0000_0001; r5 = 0x0000_0000_A1B2_C3D4; XER = 0x0000_0003 => mem[0x3001..0x3003] = A1 B2 C3 -/
theorem test_multiple_and_string :
    (gives (runW 0xBBC40000 (bS 0x8000000000002000 0 0 0 0 [(4,0x0000000000002000),(30,0xFFFFFFFFFFFFFFFF),(31,0xFFFFFFFFFFFFFFFF)] [] [(0x1FF8, [0x11,0x22,0x33,0x44,0x55,0x66,0x77,0x88]),(0x2000, [0x80,0x01,0xFF,0xFE,0xDE,0xAD,0xBE,0xEF,1,2,3,4,5,6,7,8])]))
      (fun t => t.getGpr 30 == 0x000000008001FFFE && t.getGpr 31 == 0x00000000DEADBEEF && t.nia == 0x1004) &&
    faultsWith (runW 0xB8640000 (bS 0x8000000000002000 0 0 0 0 [(4,0x0000000000002000)] [] [(0x1FF8, [0x11,0x22,0x33,0x44,0x55,0x66,0x77,0x88]),(0x2000, [0x80,0x01,0xFF,0xFE,0xDE,0xAD,0xBE,0xEF,1,2,3,4,5,6,7,8])])) .invalidForm &&
    gives (runW 0xBFC10008 (gS [(1,0x0000000000003000),(30,0xAAAAAAAA11111111),(31,0xBBBBBBBB22222222)]))
      (fun t => t.nia == 0x1004 && t.mem.read 12296 == some 0x11 && t.mem.read 12297 == some 0x11 && t.mem.read 12298 == some 0x11 && t.mem.read 12299 == some 0x11 && t.mem.read 12300 == some 0x22 && t.mem.read 12301 == some 0x22 && t.mem.read 12302 == some 0x22 && t.mem.read 12303 == some 0x22) &&
    gives (runW 0x7CA434AA (bS 0x8000000000002000 0 0 0 0 [(4,0x0000000000002008),(5,0xFFFFFFFFFFFFFFFF),(6,0xFFFFFFFFFFFFFFFF)] [] [(0x1FF8, [0x11,0x22,0x33,0x44,0x55,0x66,0x77,0x88]),(0x2000, [0x80,0x01,0xFF,0xFE,0xDE,0xAD,0xBE,0xEF,1,2,3,4,5,6,7,8])]))
      (fun t => t.getGpr 5 == 0x0000000001020304 && t.getGpr 6 == 0x0000000005060000 && t.nia == 0x1004) &&
    gives (runW 0x7CA41C2A (bS 0x8000000000002000 0 0x00000003 0 0 [(4,0x0000000000002000),(3,0x0000000000000008)] [] [(0x1FF8, [0x11,0x22,0x33,0x44,0x55,0x66,0x77,0x88]),(0x2000, [0x80,0x01,0xFF,0xFE,0xDE,0xAD,0xBE,0xEF,1,2,3,4,5,6,7,8])]))
      (fun t => t.getGpr 5 == 0x0000000001020300 && t.nia == 0x1004) &&
    faultsWith (runW 0x7C84342A (bS 0x8000000000002000 0 0x00000004 0 0 [(4,0x0000000000002000),(6,0x0000000000000008)] [] [(0x1FF8, [0x11,0x22,0x33,0x44,0x55,0x66,0x77,0x88]),(0x2000, [0x80,0x01,0xFF,0xFE,0xDE,0xAD,0xBE,0xEF,1,2,3,4,5,6,7,8])])) .invalidForm &&
    gives (runW 0x7CA435AA (gS [(4,0x0000000000003000),(5,0xFFFFFFFF01020304),(6,0x0000000005060708)]))
      (fun t => t.nia == 0x1004 && t.mem.read 12288 == some 0x01 && t.mem.read 12289 == some 0x02 && t.mem.read 12290 == some 0x03 && t.mem.read 12291 == some 0x04 && t.mem.read 12292 == some 0x05 && t.mem.read 12293 == some 0x06) &&
    gives (runW 0x7CA41D2A (bS 0x8000000000002000 0 0x00000003 0 0 [(4,0x0000000000003000),(3,0x0000000000000001),(5,0x00000000A1B2C3D4)] [] []))
      (fun t => t.nia == 0x1004 && t.mem.read 12289 == some 0xA1 && t.mem.read 12290 == some 0xB2 && t.mem.read 12291 == some 0xC3)) = true := by decide +kernel

/-- `lfs f1,0(r3)` 0xC0230000 r3 = 0x0000_0000_0000_2000; mem[0x2000..0x2003] = 3F 80 00 00 => f1 = 0x3FF0_0000_0000_0000; single_origin(f1) = true; FPSCR unchanged
  `lfsu f1,4(r3)` 0xC4230004 r3 = 0x0000_0000_0000_1FFC; mem[0x2000..0x2003] = 3F 80 00 00 => f1 = 0x3FF0_0000_0000_0000; r3 = 0x0000_0000_0000_2000
  `lfsu f1,4(0)` 0xC4200004 - => fault InvalidForm
  `lfsx f1,r4,r5` 0x7C242C2E r4 = 0x0000_0000_0000_1000; r5 = 0x0000_0000_0000_1000; mem[0x2000..0x2003] = C0 49 0F DB => f1 = 0xC009_21FB_6000_0000
  `lfsux f1,r4,r5` 0x7C242C6E r4 = 0x0000_0000_0000_1000; r5 = 0x0000_0000_0000_1000; mem[0x2000..0x2003] = 3F 80 00 00 => f1 = 0x3FF0_0000_0000_0000; r4 = 0x0000_0000_0000_2000
  `lfd f1,8(r3)` 0xC8230008 r3 = 0x0000_0000_0000_2000; mem[0x2008..0x200F] = 7F F0 00 00 00 00 00 01 => f1 = 0x7FF0_0000_0000_0001 (SNaN copied, no FPSCR change); single_origin(f1) = false
  `lfdu f1,8(r3)` 0xCC230008 r3 = 0x0000_0000_0000_2000; mem[0x2008..0x200F] = 40 09 21 FB 54 44 2D 18 => f1 = 0x4009_21FB_5444_2D18; r3 = 0x0000_0000_0000_2008
  `lfdx f1,0,r5` 0x7C202CAE r0 = 0x0000_0000_0000_0999; r5 = 0x0000_0000_0000_2008; mem[0x2008..0x200F] = 40 09 21 FB 54 44 2D 18 => f1 = 0x4009_21FB_5444_2D18 (rA = 0 reads as the constant 0)
  `lfdux f1,r4,r5` 0x7C242CEE r4 = 0x0000_0000_0000_2000; r5 = 0x0000_0000_0000_0008; mem[0x2008..0x200F] = 40 09 21 FB 54 44 2D 18 => f1 = 0x4009_21FB_5444_2D18; r4 = 0x0000_0000_0000_2008 -/
theorem test_float_load :
    (gives (runW 0xC0230000 (bS 0x8000000000002000 0 0 0 0 [(3,0x0000000000002000)] [] [(0x2000, [0x3F,0x80,0x00,0x00])]))
      (fun t => t.getFpr 1 == 0x3FF0000000000000 && t.isSingle 1 == true && t.nia == 0x1004) &&
    gives (runW 0xC4230004 (bS 0x8000000000002000 0 0 0 0 [(3,0x0000000000001FFC)] [] [(0x2000, [0x3F,0x80,0x00,0x00])]))
      (fun t => t.getGpr 3 == 0x0000000000002000 && t.getFpr 1 == 0x3FF0000000000000 && t.nia == 0x1004) &&
    faultsWith (runW 0xC4200004 (gS [])) .invalidForm &&
    gives (runW 0x7C242C2E (bS 0x8000000000002000 0 0 0 0 [(4,0x0000000000001000),(5,0x0000000000001000)] [] [(0x2000, [0xC0,0x49,0x0F,0xDB])]))
      (fun t => t.getFpr 1 == 0xC00921FB60000000 && t.nia == 0x1004) &&
    gives (runW 0x7C242C6E (bS 0x8000000000002000 0 0 0 0 [(4,0x0000000000001000),(5,0x0000000000001000)] [] [(0x2000, [0x3F,0x80,0x00,0x00])]))
      (fun t => t.getGpr 4 == 0x0000000000002000 && t.getFpr 1 == 0x3FF0000000000000 && t.nia == 0x1004) &&
    gives (runW 0xC8230008 (bS 0x8000000000002000 0 0 0 0 [(3,0x0000000000002000)] [] [(0x2008, [0x7F,0xF0,0x00,0x00,0x00,0x00,0x00,0x01])]))
      (fun t => t.getFpr 1 == 0x7FF0000000000001 && t.isSingle 1 == false && t.nia == 0x1004) &&
    gives (runW 0xCC230008 (bS 0x8000000000002000 0 0 0 0 [(3,0x0000000000002000)] [] [(0x2008, [0x40,0x09,0x21,0xFB,0x54,0x44,0x2D,0x18])]))
      (fun t => t.getGpr 3 == 0x0000000000002008 && t.getFpr 1 == 0x400921FB54442D18 && t.nia == 0x1004) &&
    gives (runW 0x7C202CAE (bS 0x8000000000002000 0 0 0 0 [(0,0x0000000000000999),(5,0x0000000000002008)] [] [(0x2008, [0x40,0x09,0x21,0xFB,0x54,0x44,0x2D,0x18])]))
      (fun t => t.getFpr 1 == 0x400921FB54442D18 && t.nia == 0x1004) &&
    gives (runW 0x7C242CEE (bS 0x8000000000002000 0 0 0 0 [(4,0x0000000000002000),(5,0x0000000000000008)] [] [(0x2008, [0x40,0x09,0x21,0xFB,0x54,0x44,0x2D,0x18])]))
      (fun t => t.getGpr 4 == 0x0000000000002008 && t.getFpr 1 == 0x400921FB54442D18 && t.nia == 0x1004)) = true := by decide +kernel

/-- `stfs f1,0(r3)` 0xD0230000 f1 = 0x3FF0_0000_0000_0000; r3 = 0x0000_0000_0000_2000 => mem[0x2000..0x2003] = 3F 80 00 00
  `stfsu f1,-4(r3)` 0xD423FFFC f1 = 0x3FF0_0000_0000_0000; r3 = 0x0000_0000_0000_2004 => mem[0x2000..0x2003] = 3F 80 00 00; r3 = 0x0000_0000_0000_2000
  `stfsx f1,r4,r5` 0x7C242D2E f1 = 0xC009_21FB_6000_0000; r4 = 0x0000_0000_0000_1000; r5 = 0x0000_0000_0000_1000 => mem[0x2000..0x2003] = C0 49 0F DB
  `stfsux f1,r4,r5` 0x7C242D6E f1 = 0x3FF0_0000_0000_0000; r4 = 0x0000_0000_0000_1000; r5 = 0x0000_0000_0000_1000 => mem[0x2000..0x2003] = 3F 80 00 00; r4 = 0x0000_0000_0000_2000 -/
theorem test_float_store_single :
    (gives (runW 0xD0230000 (bS 0x8000000000002000 0 0 0 0 [(3,0x0000000000002000)] [(1,0x3FF0000000000000)] []))
      (fun t => t.nia == 0x1004 && t.mem.read 8192 == some 0x3F && t.mem.read 8193 == some 0x80 && t.mem.read 8194 == some 0x00 && t.mem.read 8195 == some 0x00) &&
    gives (runW 0xD423FFFC (bS 0x8000000000002000 0 0 0 0 [(3,0x0000000000002004)] [(1,0x3FF0000000000000)] []))
      (fun t => t.getGpr 3 == 0x0000000000002000 && t.nia == 0x1004 && t.mem.read 8192 == some 0x3F && t.mem.read 8193 == some 0x80 && t.mem.read 8194 == some 0x00 && t.mem.read 8195 == some 0x00) &&
    gives (runW 0x7C242D2E (bS 0x8000000000002000 0 0 0 0 [(4,0x0000000000001000),(5,0x0000000000001000)] [(1,0xC00921FB60000000)] []))
      (fun t => t.nia == 0x1004 && t.mem.read 8192 == some 0xC0 && t.mem.read 8193 == some 0x49 && t.mem.read 8194 == some 0x0F && t.mem.read 8195 == some 0xDB) &&
    gives (runW 0x7C242D6E (bS 0x8000000000002000 0 0 0 0 [(4,0x0000000000001000),(5,0x0000000000001000)] [(1,0x3FF0000000000000)] []))
      (fun t => t.getGpr 4 == 0x0000000000002000 && t.nia == 0x1004 && t.mem.read 8192 == some 0x3F && t.mem.read 8193 == some 0x80 && t.mem.read 8194 == some 0x00 && t.mem.read 8195 == some 0x00)) = true := by decide +kernel

/-- `stfd f1,8(r3)` 0xD8230008 f1 = 0x7FF0_0000_0000_0001; r3 = 0x0000_0000_0000_2000 => mem[0x2008..0x200F] = 7F F0 00 00 00 00 00 01
  `stfdu f1,8(r3)` 0xDC230008 f1 = 0x4009_21FB_5444_2D18; r3 = 0x0000_0000_0000_2000 => mem[0x2008..0x200F] = 40 09 21 FB 54 44 2D 18; r3 = 0x0000_0000_0000_2008
  `stfdu f1,8(0)` 0xDC200008 - => fault InvalidForm
  `stfdx f1,r4,r5` 0x7C242DAE f1 = 0x4009_21FB_5444_2D18; r4 = 0x0000_0000_0000_2000; r5 = 0x0000_0000_0000_0008 => mem[0x2008..0x200F] = 40 09 21 FB 54 44 2D 18
  `stfdux f1,r4,r5` 0x7C242DEE f1 = 0x4009_21FB_5444_2D18; r4 = 0x0000_0000_0000_2000; r5 = 0x0000_0000_0000_0008 => mem[0x2008..0x200F] = 40 09 21 FB 54 44 2D 18; r4 = 0x0000_0000_0000_2008 -/
theorem test_float_store_double :
    (gives (runW 0xD8230008 (bS 0x8000000000002000 0 0 0 0 [(3,0x0000000000002000)] [(1,0x7FF0000000000001)] []))
      (fun t => t.nia == 0x1004 && t.mem.read 8200 == some 0x7F && t.mem.read 8201 == some 0xF0 && t.mem.read 8202 == some 0x00 && t.mem.read 8203 == some 0x00 && t.mem.read 8204 == some 0x00 && t.mem.read 8205 == some 0x00 && t.mem.read 8206 == some 0x00 && t.mem.read 8207 == some 0x01) &&
    gives (runW 0xDC230008 (bS 0x8000000000002000 0 0 0 0 [(3,0x0000000000002000)] [(1,0x400921FB54442D18)] []))
      (fun t => t.getGpr 3 == 0x0000000000002008 && t.nia == 0x1004 && t.mem.read 8200 == some 0x40 && t.mem.read 8201 == some 0x09 && t.mem.read 8202 == some 0x21 && t.mem.read 8203 == some 0xFB && t.mem.read 8204 == some 0x54 && t.mem.read 8205 == some 0x44 && t.mem.read 8206 == some 0x2D && t.mem.read 8207 == some 0x18) &&
    faultsWith (runW 0xDC200008 (gS [])) .invalidForm &&
    gives (runW 0x7C242DAE (bS 0x8000000000002000 0 0 0 0 [(4,0x0000000000002000),(5,0x0000000000000008)] [(1,0x400921FB54442D18)] []))
      (fun t => t.nia == 0x1004 && t.mem.read 8200 == some 0x40 && t.mem.read 8201 == some 0x09 && t.mem.read 8202 == some 0x21 && t.mem.read 8203 == some 0xFB && t.mem.read 8204 == some 0x54 && t.mem.read 8205 == some 0x44 && t.mem.read 8206 == some 0x2D && t.mem.read 8207 == some 0x18) &&
    gives (runW 0x7C242DEE (bS 0x8000000000002000 0 0 0 0 [(4,0x0000000000002000),(5,0x0000000000000008)] [(1,0x400921FB54442D18)] []))
      (fun t => t.getGpr 4 == 0x0000000000002008 && t.nia == 0x1004 && t.mem.read 8200 == some 0x40 && t.mem.read 8201 == some 0x09 && t.mem.read 8202 == some 0x21 && t.mem.read 8203 == some 0xFB && t.mem.read 8204 == some 0x54 && t.mem.read 8205 == some 0x44 && t.mem.read 8206 == some 0x2D && t.mem.read 8207 == some 0x18)) = true := by decide +kernel

/-- `b .+8` 0x48000008 - => NIA = 0x0000_0000_0000_1008
  `beq .+12 (bc 12,2,.+12)` 0x4182000C CR = 0x2000_0000 => NIA = 0x0000_0000_0000_100C
  `bca 12,0,0x8000 (BD sign-extended)` 0x41808002 CR = 0x8000_0000 => NIA = 0xFFFF_FFFF_FFFF_8000
  `blr (bclr 20,0)` 0x4E800020 LR = 0x0000_0000_0000_2003 => NIA = 0x0000_0000_0000_2000
  `bctr (bcctr 20,0)` 0x4E800420 CTR = 0x0000_0000_0000_3002 => NIA = 0x0000_0000_0000_3000
  `bcctr 16,0 (BO[2] = 0)` 0x4E000420 CTR = 0x0000_0000_0000_3000 => fault InvalidForm -/
theorem test_branch :
    (gives (runW 0x48000008 (gS []))
      (fun t => t.nia == 0x0000000000001008) &&
    gives (runW 0x4182000C (bS 0x8000000000002000 0x20000000 0 0 0 [] [] []))
      (fun t => t.nia == 0x000000000000100C) &&
    gives (runW 0x41808002 (bS 0x8000000000002000 0x80000000 0 0 0 [] [] []))
      (fun t => t.nia == 0xFFFFFFFFFFFF8000) &&
    gives (runW 0x4E800020 (bS 0x8000000000002000 0 0 0x0000000000002003 0 [] [] []))
      (fun t => t.nia == 0x0000000000002000) &&
    gives (runW 0x4E800420 (bS 0x8000000000002000 0 0 0 0x0000000000003002 [] [] []))
      (fun t => t.nia == 0x0000000000003000) &&
    faultsWith (runW 0x4E000420 (bS 0x8000000000002000 0 0 0 0x0000000000003000 [] [] [])) .invalidForm) = true := by decide +kernel

/-- `crand 0,1,2` 0x4C011202 CR = 0x6000_0000 => CR = 0xE000_0000
  `cror 0,1,2` 0x4C011382 CR = 0x2000_0000 => CR = 0xA000_0000
  `crxor 6,6,6 (crclr 6)` 0x4CC63182 CR = 0xFFFF_FFFF => CR = 0xFDFF_FFFF
  `crnand 31,0,0` 0x4FE001C2 CR = 0x0000_0000 => CR = 0x0000_0001
  `crnor 3,4,4 (crnot 3,4)` 0x4C642042 CR = 0x0000_0000 => CR = 0x1000_0000
  `creqv 2,2,2 (crset 2)` 0x4C421242 CR = 0x0000_0000 => CR = 0x2000_0000
  `crandc 0,1,2` 0x4C011102 CR = 0x4000_0000 => CR = 0xC000_0000
  `crorc 0,1,2` 0x4C011342 CR = 0x2000_0000 => CR = 0x2000_0000
  `mcrf cr0,cr7` 0x4C1C0000 CR = 0x0000_000A => CR = 0xA000_000A -/
theorem test_condition_logic :
    (gives (runW 0x4C011202 (bS 0x8000000000002000 0x60000000 0 0 0 [] [] []))
      (fun t => t.cr == 0xE0000000 && t.nia == 0x1004) &&
    gives (runW 0x4C011382 (bS 0x8000000000002000 0x20000000 0 0 0 [] [] []))
      (fun t => t.cr == 0xA0000000 && t.nia == 0x1004) &&
    gives (runW 0x4CC63182 (bS 0x8000000000002000 0xFFFFFFFF 0 0 0 [] [] []))
      (fun t => t.cr == 0xFDFFFFFF && t.nia == 0x1004) &&
    gives (runW 0x4FE001C2 (bS 0x8000000000002000 0x00000000 0 0 0 [] [] []))
      (fun t => t.cr == 0x00000001 && t.nia == 0x1004) &&
    gives (runW 0x4C642042 (bS 0x8000000000002000 0x00000000 0 0 0 [] [] []))
      (fun t => t.cr == 0x10000000 && t.nia == 0x1004) &&
    gives (runW 0x4C421242 (bS 0x8000000000002000 0x00000000 0 0 0 [] [] []))
      (fun t => t.cr == 0x20000000 && t.nia == 0x1004) &&
    gives (runW 0x4C011102 (bS 0x8000000000002000 0x40000000 0 0 0 [] [] []))
      (fun t => t.cr == 0xC0000000 && t.nia == 0x1004) &&
    gives (runW 0x4C011342 (bS 0x8000000000002000 0x20000000 0 0 0 [] [] []))
      (fun t => t.cr == 0x20000000 && t.nia == 0x1004) &&
    gives (runW 0x4C1C0000 (bS 0x8000000000002000 0x0000000A 0 0 0 [] [] []))
      (fun t => t.cr == 0xA000000A && t.nia == 0x1004)) = true := by decide +kernel

/-- `tw 31,0,0 (trap)` 0x7FE00008 - => raise Program(Trap)
  `twlt r3,r4 (tw 16,r3,r4)` 0x7E032008 r3 = 0x0000_0000_8000_0000; r4 = 0x0000_0000_0000_0000 => raise Program(Trap)
  `twgti r3,5 (twi 8,r3,5)` 0x0D030005 r3 = 0x0000_0000_0000_0006 => raise Program(Trap)
  `tdeq r3,r4 (td 4,r3,r4)` 0x7C832088 r3 = 0x0000_0001_0000_0005; r4 = 0x0000_0000_0000_0005 => NIA = 0x0000_0000_0000_1004
  `tdlti r3,0 (tdi 16,r3,0)` 0x0A030000 r3 = 0x0000_0000_8000_0000 => NIA = 0x0000_0000_0000_1004
  `tdlti r3,0` 0x0A030000 r3 = 0x8000_0000_0000_0000 => raise Program(Trap) -/
theorem test_trap :
    (gives (runW 0x7FE00008 (gS []))
      (fun t => t.nia == 0x700 && t.srr0 == 0x1000 && (t.srr1 &&& 0x783F0000) == 0x20000) &&
    gives (runW 0x7E032008 (gS [(3,0x0000000080000000),(4,0x0000000000000000)]))
      (fun t => t.nia == 0x700 && t.srr0 == 0x1000 && (t.srr1 &&& 0x783F0000) == 0x20000) &&
    gives (runW 0x0D030005 (gS [(3,0x0000000000000006)]))
      (fun t => t.nia == 0x700 && t.srr0 == 0x1000 && (t.srr1 &&& 0x783F0000) == 0x20000) &&
    gives (runW 0x7C832088 (gS [(3,0x0000000100000005),(4,0x0000000000000005)]))
      (fun t => t.nia == 0x0000000000001004) &&
    gives (runW 0x0A030000 (gS [(3,0x0000000080000000)]))
      (fun t => t.nia == 0x0000000000001004) &&
    gives (runW 0x0A030000 (gS [(3,0x8000000000000000)]))
      (fun t => t.nia == 0x700 && t.srr0 == 0x1000 && (t.srr1 &&& 0x783F0000) == 0x20000)) = true := by decide +kernel

/-- `mfcr r3` 0x7C600026 CR = 0x1234_5678; r3 = 0xFFFF_FFFF_FFFF_FFFF => r3 = 0x0000_0000_1234_5678
  `mtcrf 0x80,r3` 0x7C680120 r3 = 0xFFFF_FFFF_ABCD_EF01; CR = 0x1111_1111 => CR = 0xA111_1111
  `mtcrf 0x05,r3` 0x7C605120 r3 = 0x0000_0000_ABCD_EF01; CR = 0x1111_1111 => CR = 0x1111_1F11
  `mcrxr cr7` 0x7F800400 XER = 0xC000_0005 => CR = 0x0000_000C; XER = 0x0000_0005
  `mcrxr cr0` 0x7C000400 XER = 0xA000_007F; CR = 0x0FFF_FFFF => CR = 0xAFFF_FFFF; XER = 0x0000_007F
  `mfxer r3 (mfspr r3,1)` 0x7C6102A6 XER = 0xE000_007F; r3 = 0xFFFF_FFFF_FFFF_FFFF => r3 = 0x0000_0000_E000_007F
  `mfspr r3,2 (no such SPR)` 0x7C6202A6 - => raise Program(IllegalInstruction)
  `mtxer r3 (mtspr 1,r3)` 0x7C6103A6 r3 = 0xFFFF_FFFF_E000_007F => XER = 0xE000_007F -/
theorem test_moves :
    (gives (runW 0x7C600026 (bS 0x8000000000002000 0x12345678 0 0 0 [(3,0xFFFFFFFFFFFFFFFF)] [] []))
      (fun t => t.getGpr 3 == 0x0000000012345678 && t.nia == 0x1004) &&
    gives (runW 0x7C680120 (bS 0x8000000000002000 0x11111111 0 0 0 [(3,0xFFFFFFFFABCDEF01)] [] []))
      (fun t => t.cr == 0xA1111111 && t.nia == 0x1004) &&
    gives (runW 0x7C605120 (bS 0x8000000000002000 0x11111111 0 0 0 [(3,0x00000000ABCDEF01)] [] []))
      (fun t => t.cr == 0x11111F11 && t.nia == 0x1004) &&
    gives (runW 0x7F800400 (bS 0x8000000000002000 0 0xC0000005 0 0 [] [] []))
      (fun t => t.cr == 0x0000000C && t.xer == 0x00000005 && t.nia == 0x1004) &&
    gives (runW 0x7C000400 (bS 0x8000000000002000 0x0FFFFFFF 0xA000007F 0 0 [] [] []))
      (fun t => t.cr == 0xAFFFFFFF && t.xer == 0x0000007F && t.nia == 0x1004) &&
    gives (runW 0x7C6102A6 (bS 0x8000000000002000 0 0xE000007F 0 0 [(3,0xFFFFFFFFFFFFFFFF)] [] []))
      (fun t => t.getGpr 3 == 0x00000000E000007F && t.nia == 0x1004) &&
    gives (runW 0x7C6202A6 (gS []))
      (fun t => t.nia == 0x700 && t.srr0 == 0x1000 && (t.srr1 &&& 0x783F0000) == 0x80000) &&
    gives (runW 0x7C6103A6 (gS [(3,0xFFFFFFFFE000007F)]))
      (fun t => t.xer == 0xE000007F && t.nia == 0x1004)) = true := by decide +kernel

/-- `lwarx r5,0,r3` 0x7CA01828 r3 = 0x0000_0000_0000_2000; mem[0x2000..] = 00 00 00 09 => r5 = 0x0000_0000_0000_0009; RESERVE = 1 at 0x2000
  `ldarx r5,0,r3` 0x7CA018A8 r3 = 0x0000_0000_0000_2000; mem[0x2000..] = 00 00 00 09 00 00 00 01 => r5 = 0x0000_0009_0000_0001; RESERVE = 1 at 0x2000 -/
theorem test_reserve :
    (gives (runW 0x7CA01828 (bS 0x8000000000002000 0 0 0 0 [(3,0x0000000000002000)] [] [(0x2000, [0x00,0x00,0x00,0x09])]))
      (fun t => t.getGpr 5 == 0x0000000000000009 && t.nia == 0x1004) &&
    gives (runW 0x7CA018A8 (bS 0x8000000000002000 0 0 0 0 [(3,0x0000000000002000)] [] [(0x2000, [0x00,0x00,0x00,0x09,0x00,0x00,0x00,0x01])]))
      (fun t => t.getGpr 5 == 0x0000000900000001 && t.nia == 0x1004)) = true := by decide +kernel

/-! ## Further tests: the vectors of 95 to 97 for the system, and the rules named -/

/-- `mulhw` and `mulhwu` on a 32-bit implementation, where nothing of rD is undefined: the first vector's product (40 R221,
R222). -/
theorem test_multiply_high_word :
    (gives (runW 0x7C642896 (nS [(4, 0x80000000), (5, 2)])) (fun t => t.getGpr 3 == 0xFFFFFFFF) &&
    gives (runW 0x7C642816 (nS [(4, 0x80000000), (5, 2)])) (fun t => t.getGpr 3 == 1)) = true := by decide +kernel

/-- `divwu` on a 32-bit implementation: 0xFFFFFFFF by 2 and 0x80000000 by 0xFFFFFFFF (40 R227). -/
theorem test_divide_unsigned_word :
    (gives (runW 0x7C642B96 (nS [(4, 0xFFFFFFFF), (5, 2)])) (fun t => t.getGpr 3 == 0x7FFFFFFF) &&
    gives (runW 0x7C642B96 (nS [(4, 0x80000000), (5, 0xFFFFFFFF)])) (fun t => t.getGpr 3 == 0)) = true := by decide +kernel

/-- `sc` from user mode: SRR0 0x1004, SRR1 0x8000_0000_0000_C002, MSR 0x8000_0000_0000_0000, NIA 0xC00; and with IP = 1. -/
theorem test_system_call :
    (gives (runW 0x44000002 (bS 0x800000000000C002 0 0 0 0 [] [] []))
      (fun t => t.srr0 == 0x1004 && t.srr1 == 0x800000000000C002 && t.msr == 0x8000000000000000 && t.nia == 0xC00) &&
    gives (runW 0x44000002 (bS 0x8000000000000040 0 0 0 0 [] [] []))
      (fun t => t.srr1 == 0x8000000000000040 && t.nia == 0xFFF00C00 && t.msr == 0x8000000000000040)) = true := by decide +kernel

/-- `rfid`: MSR 0x8000_0000_0000_C002, NIA 0x1008 (step 7 of program P5); in user mode it is privileged; `rfi` on a 32-bit
implementation. -/
theorem test_return_from_interrupt :
    (gives (runW 0x4C000024 { gS [] with srr0 := 0x1008, srr1 := 0x800000000000C002 })
      (fun t => t.msr == 0x800000000000C002 && t.nia == 0x1008) &&
    gives (runW 0x4C000024 (bS 0x8000000000004000 0 0 0 0 [] [] [])) (fun t => t.nia == 0x700 && t.srr1.getMsbD 45) &&
    gives (runW 0x4C000064 { nS [] with srr0 := 0x1008, srr1 := 0xC002 }) (fun t => t.msr == 0xC002 && t.nia == 0x1008)) =
      true := by decide +kernel

/-- `mfmsr` in user mode is privileged; in supervisor mode it reads the MSR (48 R524). -/
theorem test_move_from_msr :
    (gives (runW 0x7C6000A6 (gS [])) (fun t => t.getGpr 3 == 0x8000000000002000) &&
    gives (runW 0x7C6000A6 (bS 0x8000000000004000 0 0 0 0 [] [] [])) (fun t => t.nia == 0x700 && t.srr1.getMsbD 45)) = true := by
  decide +kernel

/-- `mtmsrd` writes all 64 bits; `mtmsr` on a 64-bit implementation keeps the high half (48 R525, R526). -/
theorem test_move_to_msr :
    (gives (runW 0x7C600164 (gS [(3, 0x8000000000008000)])) (fun t => t.msr == 0x8000000000008000 && t.nia == 0x1004) &&
    gives (runW 0x7C600124 (gS [(3, 0x8000)])) (fun t => t.msr == 0x8000000000008000)) = true := by decide +kernel

/-- `mftb` and `mftbu` in user mode (48 R530); TBR 270 does not exist. -/
theorem test_time_base :
    (gives (runW 0x7C6C42E6 { bS 0x8000000000004000 0 0 0 0 [] [] [] with tb := 0x123456789ABCDEF0 })
      (fun t => t.getGpr 3 == 0x123456789ABCDEF0) &&
    gives (runW 0x7C6D42E6 { gS [] with tb := 0x123456789ABCDEF0 }) (fun t => t.getGpr 3 == 0x12345678) &&
    gives (exec (.mftb 3 270) (gS [])) (fun t => t.nia == 0x700)) = true := by decide +kernel

/-- A write of DEC that sets its bit 0 makes the decrementer exception pending (48 R529); a write of SPRG0 reads back. -/
theorem test_special_registers :
    (gives (exec (.mtspr 3 22) { gS [(3, 0x80000000)] with dec := 5 }) (fun t => t.dec == 0x80000000 && t.decPending) &&
    gives (exec (.mtspr 3 272) (gS [(3, 77)])) (fun t => gives (exec (.mfspr 4 272) t) (fun u => u.getGpr 4 == 77))) = true := by
  decide +kernel

/-- `lwarx`, then `stwcx.` stores and sets CR0[EQ]; a second one stores nothing (program P3). -/
theorem test_reservation :
    (gives (exec (.lwarx 5 0 3) (bS 0x8000000000002000 0 0 0 0 [(3, 0x2000)] [] [(0x2000, [0, 0, 0, 9])])) (fun t =>
      t.getGpr 5 == 9 && t.reserve && t.reserveAddr == 0x2000 &&
      gives (exec (.stwcxDot 3 0 3) t) (fun u => u.cr == 0x20000000 && u.reserve == false && u.mem.read 0x2002 == some 0x20 &&
        gives (exec (.stwcxDot 5 0 3) u) (fun v => v.cr == 0 && v.mem.read 0x2002 == some 0x20)))) = true := by decide +kernel

/-- `stdcx.` with a reservation for its address; at 0x2004 it takes the alignment exception (49 R556). -/
theorem test_store_conditional_double :
    (gives (runW 0x7CC019AD { gS [(3, 0x2000), (6, 0x1122334455667788)] with reserve := true, reserveAddr := 0x2000 })
      (fun t => t.cr == 0x20000000 && t.mem.read 0x2007 == some 0x88) &&
    gives (runW 0x7CC019AD (gS [(3, 0x2004)])) (fun t => t.nia == 0x600 && t.dar == 0x2004 && t.cr == 0)) = true := by
  decide +kernel

/-- `sync`, `isync`, `eieio`, `dcbt`, `dcbtst`, `dcbst`, `dcbf` and `tlbsync` change no register and no byte. -/
theorem test_barriers_and_hints :
    (gives (runW 0x7C0004AC (gS [])) (fun t => t.nia == 0x1004) && gives (runW 0x4C00012C (gS [])) (fun t => t.nia == 0x1004) &&
    gives (runW 0x7C0006AC (gS [])) (fun t => t.nia == 0x1004) && gives (runW 0x7C001A2C (gS [])) (fun t => t.nia == 0x1004) &&
    gives (runW 0x7C0019EC (gS [])) (fun t => t.nia == 0x1004) &&
    gives (runW 0x7C00186C (gS [(3, 0x1234)])) (fun t => t.nia == 0x1004 && t.mem == []) &&
    gives (runW 0x7C0018AC (gS [(3, 0x1234)])) (fun t => t.nia == 0x1004 && t.mem == []) &&
    gives (runW 0x7C00046C (gS [])) (fun t => t.nia == 0x1004) &&
    gives (runW 0x7C00046C (bS 0x8000000000004000 0 0 0 0 [] [] [])) (fun t => t.srr1.getMsbD 45)) = true := by decide +kernel

/-- `dcbz r4,r3` with EA 0x123F and blocks of 32 bytes clears 0x1220 to 0x123F. -/
theorem test_dcbz :
    gives (runW 0x7C041FEC (bS 0x8000000000002000 0 0 0 0 [(4, 0x20), (3, 0x121F)] [] [(0x121F, [1, 2]), (0x1240, [3])]))
      (fun t => t.mem.read 0x121F == some 1 && t.mem.read 0x1220 == some 0 && t.mem.read 0x123F == some 0 &&
        t.mem.read 0x1240 == some 3 && t.mem.length == 34) = true := by decide +kernel

/-- `dcbi` is privileged; in supervisor mode it and `dcba` leave 32 drawn bytes at 0x1220 (92 D32). -/
theorem test_dcbi_dcba :
    (gives (runW 0x7C001BAC (bS 0x8000000000004000 0 0 0 0 [(3, 0x1234)] [] [])) (fun t => t.srr1.getMsbD 45 && t.mem == []) &&
    gives (runW 0x7C001BAC (gS [(3, 0x1234)])) (fun t => t.nia == 0x1004 && t.draws == 32 && (t.mem.read 0x1220).isSome) &&
    gives (runW 0x7C001DEC (gS [(3, 0x1234)])) (fun t => t.nia == 0x1004 && (t.mem.read 0x123F).isSome)) = true := by
  decide +kernel

/-- A stored block may be fetched from again after `icbi` and `isync` (70 R661). -/
theorem test_icbi :
    gives (runW 0x7C001FAC { gS [(3, 0x1234)] with staleInsn := [0x91] }) (fun t => t.staleInsn == [0x91] && t.icbiDone == [0x91] &&
      gives (exec .isync t) (fun u => u.staleInsn == [] && u.icbiDone == [])) = true := by decide +kernel

/-- A store after the `icbi` needs another one: `isync` leaves its block stale (20_memory R125, 92 D16). -/
theorem test_store_after_icbi :
    gives (exec (.icbi 0 3) { gS [(3, 0x1234)] with staleInsn := [0x91] }) (fun t =>
      gives (exec (.stb 3 3 0) t) (fun u => u.staleInsn == [0x91] && u.icbiDone == [] &&
        gives (exec .isync u) (fun v => v.staleInsn == [0x91]))) = true := by decide +kernel

/-- `eciwx`: with DR = 0 it stops; with EAR[E] = 0 DSI comes before alignment; with EAR[E] = 1 alignment; a change of DR that is
not synchronized comes first (70 R660). -/
theorem test_eciwx :
    (faultsWith (runW 0x7CA01A6C { bS 0x8000000000002010 0 0 0 0 [(3, 0x2002)] [] [] with
      stale := { StaleMarks.none with dr := true } }) .staleTranslation &&
    faultsWith (runW 0x7CA01A6C (gS [(3, 0x2002)])) .boundedlyUndefined &&
    gives (runW 0x7CA01A6C (bS 0x8000000000002010 0 0 0 0 [(3, 0x2002)] [] []))
      (fun t => t.nia == 0x300 && t.dar == 0x2002 && t.dsisr == 0x00100000 && t.srr0 == 0x1000) &&
    gives (runW 0x7CA01A6C { bS 0x8000000000002010 0 0 0 0 [(3, 0x2002)] [] [] with ear := 0x80000003 })
      (fun t => t.nia == 0x600 && t.dar == 0x2002)) = true := by decide +kernel

/-- `ecowx` with EAR[E] = 0: DSI with the store bit (49 R570; 60 R610). -/
theorem test_ecowx :
    gives (runW 0x7CC01B6C (bS 0x8000000000002010 0 0 0 0 [(3, 0x2000)] [] []))
      (fun t => t.nia == 0x300 && t.dsisr == 0x02100000 && t.deviceOut == []) = true := by decide +kernel

/-- The segment register moves of a 32-bit implementation. -/
theorem test_segment_registers :
    (gives (runW 0x7C6501A4 (nS [(3, 0x20000123)])) (fun t => t.sr[5] == 0x20000123 &&
      gives (runW 0x7C6504A6 t) (fun u => u.getGpr 3 == 0x20000123) &&
      gives (runW 0x7C602526 (t.setGpr 4 0x50000000)) (fun u => u.getGpr 3 == 0x20000123)) &&
    gives (runW 0x7C6021E4 (nS [(3, 0x60000ABC), (4, 0xF0001234)])) (fun t => t.sr[15] == 0x60000ABC)) = true := by
  decide +kernel

/-- The bridge: `mtsr`, `mtsrd` and `mtsrdin` write SLB[5], `mfsr` reads it back. -/
theorem test_segment_bridge :
    (gives (runW 0x7C6501A4 (gS [(3, 0xFFFFFFFF60000ABC)])) (fun t =>
      t.slb[5] == ⟨0x00000000500000B0, 0x0000000000ABC000, true⟩ &&
      gives (runW 0x7C8504A6 t) (fun u => u.getGpr 4 == 0x60000ABC)) &&
    gives (runW 0x7C6500A4 (gS [(3, 0x0000000160000ABC)])) (fun t =>
      t.slb[5] == ⟨0x00000000500000B0, 0x0000008000ABC000, true⟩ &&
      gives (runW 0x7C8504A6 t) (fun u => u.getGpr 4 == 0x160000ABC)) &&
    gives (runW 0x7C6020E4 (gS [(3, 0x0000000160000ABC), (4, 0x50000000)])) (fun t =>
      t.slb[5] == ⟨0x00000000500000B0, 0x0000008000ABC000, true⟩)) = true := by decide +kernel

/-- `slbia` and `slbie` after `mtsr 5,r3`: the valid bit of SLB[5] goes; `slbie` of another segment changes nothing. -/
theorem test_slb_invalidate :
    gives (runW 0x7C6501A4 (gS [(3, 0x60000ABC)])) (fun t =>
      gives (runW 0x7C0003E4 t) (fun u => !u.slb[5].dw0.getMsbD 56 && !u.slb[5].byMove) &&
      gives (runW 0x7C001B64 (t.setGpr 3 0x50000000)) (fun u => !u.slb[5].dw0.getMsbD 56 && !u.slb[5].byMove) &&
      gives (runW 0x7C001B64 (t.setGpr 3 0x60000000)) (fun u => u.slb == t.slb)) = true := by decide +kernel

/-- `tlbie` with r3 = 0x12345678 removes the entries of page index 0x2345 in every segment; `tlbia` removes all. -/
theorem test_tlb_invalidate :
    (gives (runW 0x7C001A64 { gS [(3, 0x12345678)] with tlb := [⟨1, 0x2345, 0⟩, ⟨1, 0x2346, 0⟩, ⟨2, 0x2345, 0⟩] })
      (fun t => t.tlb == [⟨1, 0x2346, 0⟩]) &&
    gives (runW 0x7C0002E4 { gS [] with tlb := [⟨1, 0x2345, 0⟩] }) (fun t => t.tlb == [])) = true := by decide +kernel

/-- Instructions of the other width do not exist: `rfid` and `mtsrd` on a 32-bit implementation (60 R606). -/
theorem test_absent :
    (gives (runW 0x4C000024 (nS [])) (fun t => t.nia == 0x700 && t.srr1.getMsbD 44) &&
    gives (runW 0x7C6500A4 (nS [])) (fun t => t.nia == 0x700 && t.srr1.getMsbD 44)) = true := by decide +kernel

/-- `lfd` with MSR[FP] = 0: NIA = 0x800, SRR0 = CIA. -/
theorem test_float_unavailable :
    gives (runW 0xC8230008 (bS 0x8000000000000000 0 0 0 0 [(3, 0x2000)] [] []))
      (fun t => t.nia == 0x800 && t.srr0 == 0x1000 && t.getGpr 3 == 0x2000) = true := by decide +kernel

/-- The word that `fctiw` and `fctiwz` convert to, and FI and FR (44 R356, R357): the vectors' low words. -/
theorem test_convert_word :
    (toIntegerOut 32 .nearest 0 0 0x4004000000000000).value.map low = some 2 ∧
      (toIntegerOut 32 .up 2 0 0x4004000000000000).value.map low = some 3 ∧
      (toIntegerOut 32 .zero 1 0 0x41DFFFFFFFE00000).value.map low = some 0x7FFFFFFF ∧
      (toIntegerOut 32 .nearest 0 0 0x41DFFFFFFFE00000).raised = 0x100 ∧
      (toIntegerOut 32 .zero 2 0 0xC007333333333333).value.map low = some 0xFFFFFFFE := by decide +kernel

/-- `fctid` and `fctidz` (44 R358, R359): the vectors' results. -/
theorem test_convert_double :
    gives (runW 0xFC20165C (fpS 0 [(2, 0x43E0000000000000)])) (fun t => t.getFpr 1 == 0x7FFFFFFFFFFFFFFF) = true ∧
      gives (runW 0xFC20165C (fpS 0 [(2, 0x3FF8000000000000)])) (fun t => t.getFpr 1 == 2) = true ∧
      gives (runW 0xFC20165E (fpS 0 [(2, 0xBFE0000000000000)])) (fun t => t.getFpr 1 == 0) = true := by decide +kernel

/-- `fres` and `frsqrte` of the special operands of 43 R324 and R325: a zero gives an infinity and ZX, an infinity a zero. -/
theorem test_estimates :
    (resOut 0 0 false false 0x8000000000000000).value = some 0xFFF0000000000000 ∧
      (resOut 0 0 false false 0x8000000000000000).raised = 0x04000000 ∧
      (resOut 0 0 false false 0x7FF0000000000000).value = some 0 ∧
      (rsqrteOut 0 0 false false 0x8000000000000000).value = some 0xFFF0000000000000 ∧
      (rsqrteOut 0 0 false false 0x7FF0000000000000).value = some 0 ∧
      (rsqrteOut 0 0 false false 0xBFF0000000000000).raised = 0x200 := by decide +kernel

/-- `fres` of 2^-128: 2^128 is no single, but the largest single is within 1/256 of it, so nothing overflows (43 R324). -/
theorem test_estimate_greatest :
    (resOut 0 0 false false 0x37F0000000000000).value = some 0x47EFFFFFE0000000 ∧
      (resOut 0 0 false false 0x37F0000000000000).raised = 0 := by decide +kernel

/-- An answer of the host's arithmetic: FR and FI are cleared by an invalid operation (43 R312), and a NaN with fraction bits 35:63
is no single result (43 R310 item 4). -/
theorem test_admit_answer :
    admitAnswer 0 affectedDiv false (.exact 0 0) ⟨0x7FF8000000000000, true, true, 0x00200000⟩ =
        ⟨some 0x7FF8000000000000, some 0b10001, false, false, 0x00200000⟩ ∧
      admitAnswer 0 affectedDiv true (.exact 0 0) ⟨0x7FF8000000000001, true, true, 0⟩ = .exact 0 0 := by decide +kernel

/-- A host's answer of a conversion (44 R350): VXSNAN for a number that is not one is the host's, with VE = 1 it then has no result;
the saturated value is bound, inexact where it raises no invalid operation; XX is the host's; FR and FI are the rounding's. -/
theorem test_admit_conversion :
    (let bare := toIntegerOut 32 .nearest 0 3 0x41F0000000000000
     admitConversion .ctiw 0 affectedConvert 0x41F0000000000000 bare ⟨5, true, false, bitVxcvi ||| bitOx⟩ =
        ⟨some 0x7FFFFFFF, some 3, false, false, bitVxcvi⟩ ∧
      admitConversion .ctiw 0 affectedConvert 0x41F0000000000000 bare ⟨5, true, false, 0⟩ =
        ⟨some 0x7FFFFFFF, some 3, false, true, bitXx⟩ ∧
      admitConversion .ctiw 0x80 affectedConvert 0x41F0000000000000 bare ⟨5, true, false, bitVxsnan⟩ = .none bitVxsnan) ∧
    (admitConversion .cfid 0 affectedCfid 1 (cfidOut 0 1) ⟨5, true, true, bitXx ||| bitVxcvi⟩ =
        ⟨some 0x3FF0000000000000, some 4, false, false, bitXx⟩) ∧
    (admitConversion .rsp 0 affectedRsp 0x7FF0000020000000 (rspOut 0 0 0x7FF0000020000000) ⟨0x7FF8000000000000, true, true, 0⟩ =
        ⟨some 0x7FF8000000000000, some 0b10001, false, false, 0⟩) := by decide +kernel

/-- `fcmpu` that raises nothing takes the enabled exception when FEX is 1 already (44 R350). -/
theorem test_compare_enabled :
    gives (exec (.fcmpu 0 1 2) { fpS 0x61000080 [] with msr := 0x2800 }) (fun t => t.nia == 0x700 && t.srr1.getMsbD 43) = true := by
  decide +kernel

/-- `fsel` with frA = -0 takes frC, with a NaN frB (43 R326). -/
theorem test_fsel :
    (gives (exec (.fselx 1 2 3 4 false) (fpS 0 [(2, 0x8000000000000000), (3, 33), (4, 44)])) (fun t => t.getFpr 1 == 44) &&
    gives (exec (.fselx 1 2 3 4 false) (fpS 0 [(2, 0x7FF8000000000000), (3, 33), (4, 44)])) (fun t => t.getFpr 1 == 33)) =
      true := by decide +kernel

/-- `mffs.` puts FX, FEX, VX, OX in CR1 (44 R363). -/
theorem test_mffs :
    gives (runW 0xFC20048F (fpS 0xA0811000 [])) (fun t => t.cr == 0x0A000000 && t.fpscr == 0xA0811000) = true := by
  decide +kernel

/-- `stfiwx` of a register that `fctiwz` wrote stores its low word; one that `lfs` wrote stores an undefined one (46 R469). -/
theorem test_stfiwx :
    (gives (runW 0x7C201FAE (bS 0x8000000000002000 0 0 0 0 [(3, 0x2000)] [(1, 0xFFF800000000002A)] []))
      (fun t => t.mem.read 0x2003 == some 0x2A && t.draws == 0) &&
    gives (runW 0x7C201FAE ((gS [(3, 0x2000)]).setFpr 1 0x3FF0000000000000 true)) (fun t => t.draws == 1)) = true := by
  decide +kernel

/-- `fdiv` of 1 by 0 with ZE = 1 and FE0 = 1: the enabled exception, with ZX in the FPSCR and frD unchanged (60 R608). -/
theorem test_enabled_exception :
    gives (exec (.fdivx 3 1 2 false) { fpS 0x10 [(1, 0x3FF0000000000000)] with msr := 0x8000000000002800 })
      (fun t => t.nia == 0x700 && t.srr1.getMsbD 43 && t.fpscr == 0xC4000010 && t.getFpr 3 == 0) = true := by decide +kernel

/-! ## Steps -/

/-- A step fetches and runs the word at the pc. -/
theorem test_step :
    gives (step ((gS [(4, 41)]).withFetchWord 32 0x38640001)) (fun t => t.getGpr 3 == 42 && t.nia == 0x1004) = true := by
  decide +kernel

/-- The first instruction after reset, placed at 0xFFF00100. -/
theorem test_step_reset :
    gives (step (State.reset.withFetchWord 32 0x38600007)) (fun t => t.getGpr 3 == 7 && t.nia == 0xFFF00104) = true := by
  decide +kernel

/-- A step from reset with nothing placed reads a byte that nothing has written (log 6, 7). -/
theorem test_step_unwritten : faultsWith (step State.reset) (.unwrittenRead 0xFFF00100) = true := by decide +kernel

/-- Illegal and reserved words (30 R163, R164). -/
theorem test_step_bad_words :
    (gives (step ((gS []).withFetchWord 32 0x7CC0192C)) (fun t => t.nia == 0x700 && t.srr1.getMsbD 44) &&
    faultsWith (step ((gS []).withFetchWord 32 0x44000003)) .reservedBitsNonZero) = true := by decide +kernel

/-- A fetch from a block that has been stored to stops (70 R661). -/
theorem test_step_stale :
    faultsWith (step { (gS []).withFetchWord 32 0x38600007 with staleInsn := [0x80] }) .staleInstruction = true := by
  decide +kernel

/-- With blocks of one byte a store to the last byte of a word makes the word stale (70 R661). -/
theorem test_step_stale_byte :
    (let s := (gS [(3, 7)]).withFetchWord 32 0x38600007
     gives (exec (.stb 3 0 0x1003) { s with cfg := { s.cfg with cacheBlockLog := 0 } }) (fun t =>
       faultsWith (step { t with nia := 0x1000 }) .staleInstruction)) = true := by
  decide +kernel

/-- `mtmsrd` sets EE with the external input asserted: the exception comes at the next boundary, before the decrementer's
(60 R615, R616, R619; the case of 95 section 7). -/
theorem test_step_external :
    gives (step ({ bS 0x8000000000000000 0 0 0 0 [(3, 0x8000000000008000)] [] [] with extInt := true, decPending := true
                 }.withFetchWord 32 0x7C600164)) (fun t => t.msr == 0x8000000000008000 &&
      gives (step t) (fun u => u.nia == 0x500 && u.srr0 == 0x1004 && u.srr1 == 0x8000000000008000 &&
        u.msr == 0x8000000000000000 && u.decPending)) = true := by decide +kernel

/-- The same with the decrementer alone: NIA = 0x900 and it is pending no more (60 R617). -/
theorem test_step_decrementer :
    gives (step { bS 0x8000000000008000 0 0 0 0 [] [] [] with decPending := true })
      (fun t => t.nia == 0x900 && t.decPending == false) = true := by decide +kernel

/-- A boundary record: a tick passes DEC below 0, another agent's store ends the reservation of its granule. -/
theorem test_step_environment :
    gives (step ({ gS [] with dec := 0, reserve := true, reserveAddr := 0x2000,
                              env := [⟨1, false, false, false, false, [(0x2004, 7)], [], []⟩] }.withFetchWord 32 0x60000000))
      (fun t => t.tb == 1 && t.dec == 0xFFFFFFFF && t.decPending && t.reserve == false && t.mem.read 0x2004 == some 7 &&
        t.env == []) = true := by decide +kernel

/-- `sc` is noted in the trace of exceptions entered (60 R629). -/
theorem test_entered : gives (runW 0x44000002 (gS [])) (fun t => t.entered == [.systemCall]) = true := by decide +kernel

/-- The breakpoint at 0x2000 stops `dcbf`, `dcbst` and `icbi` as loads and `dcbi` as a store (60 R610, R624), and not `dcba`. -/
theorem test_breakpoint_cache :
    (let l := { gS [(3, 0x2000)] with cfg := { State.resetConfig with optDabr := true }, dabr := 0x2001 }
     let s := { l with dabr := 0x2002 }
     gives (exec (.dcbf 0 3) l) (fun t => t.nia == 0x300 && t.dsisr == 0x00400000 && t.dar == 0x2000) &&
     gives (exec (.dcbst 0 3) l) (fun t => t.nia == 0x300) && gives (exec (.icbi 0 3) l) (fun t => t.nia == 0x300) &&
     gives (exec (.dcbi 0 3) s) (fun t => t.nia == 0x300 && t.dsisr == 0x02400000) &&
     gives (exec (.dcba 0 3) s) (fun t => t.nia == 0x1004) && gives (exec (.dcbf 0 3) s) (fun t => t.nia == 0x1004)) = true := by
  decide +kernel

/-- A change of DABR is not relied on before `sync` (70 R660). -/
theorem test_sync_breakpoint :
    gives (exec (.mtspr 3 1013) { gS [(3, 0x3001)] with cfg := { State.resetConfig with optDabr := true } }) (fun t =>
      faultsWith (exec (.stw 3 0 0x2000) t) .staleTranslation &&
      gives (exec .sync t) (fun u => gives (exec (.stw 3 0 0x2000) u) (fun v => v.mem.read 0x2002 == some 0x30))) = true := by
  decide +kernel

/-- `mtmsrd` to 32-bit mode: a load does not rely on it before `isync` (70 R660). -/
theorem test_stale_mode :
    gives (exec (.mtmsrd 3) (bS 0x8000000000002000 0 0 0 0 [(3, 0x2000)] [] [(0x2000, [7])])) (fun t =>
      faultsWith (exec (.lbz 4 3 0) t) .staleTranslation &&
      gives (exec .isync t) (fun u => gives (exec (.lbz 4 3 0) u) (fun v => v.getGpr 4 == 7))) = true := by decide +kernel

/-- After an unsynchronized change to 32-bit mode the sequence over the end of its address space is marked, and so is a `bdnz` whose
CTR comes down to 0 in the low word alone (70 R660; 47 R480). -/
theorem test_stale_sequence :
    (let s := { bS 0x2000 0 0 0 0 [] [] [] with stale := { StaleMarks.none with sf := true } }
     gives (step ({ s with nia := 0xFFFFFFFC }.withFetchWord 32 0x38600007)) (fun t => t.nia == 0 && t.stale.sfCut &&
       faultsWith (step t) .staleTranslation) &&
     gives (exec (.bcx 16 0 4 false false) { s with ctr := 0x100000001 }) (fun t => t.nia == 0x1004 && t.stale.sfCut) &&
     gives (exec (.bcx 16 0 4 false false) { s with ctr := 0x100000002 }) (fun t => t.nia == 0x1010 && !t.stale.sfCut)) = true := by
  decide +kernel

/-- A granule is no smaller than 8 bytes on a 64-bit implementation: a store at 0x2007 ends a reservation at 0x2000, one at 0x2008
does not (00_scope R8; 49 R557). -/
theorem test_least_granule :
    (let s := fun a => { gS [] with cfg := { State.resetConfig with granuleLog := 0 }, reserve := true, reserveAddr := 0x2000,
                                    env := [⟨0, false, false, false, false, [(a, 7)], [], []⟩] }
     !(s 0x2007).environment.reserve && (s 0x2008).environment.reserve) = true := by decide +kernel

/-- `mtmsr` that sets FE0 with FEX = 1: the floating-point exception comes at the next boundary (60 R608 (b)). -/
theorem test_step_float_pending :
    gives (exec (.mtmsr 3) { gS [(3, 0x2800)] with fpscr := 0x60000080 }) (fun t => t.fpPending &&
      gives (step t) (fun u => u.nia == 0x700 && u.srr0 == 0x1004 && u.srr1.getMsbD 43 && !u.fpPending)) = true := by decide +kernel

/-- With OPT_TRACE and MSR[SE] = 1 a trace exception follows the instruction (60 R618). -/
theorem test_step_trace :
    gives (step ({ bS 0x8000000000000400 0 0 0 0 [] [] [] with cfg := { State.resetConfig with optTrace := true }
                 }.withFetchWord 32 0x38600007)) (fun t => t.tracePending && t.getGpr 3 == 7 &&
      gives (step t) (fun u => u.nia == 0xD00 && u.srr0 == 0x1004 && !u.tracePending)) = true := by decide +kernel

/-! ## Witnesses: states and operands that meet the premises of each statement, clause by clause -/

/-- A result that `gives` something is a next state. -/
theorem next_of_gives {r : Result} {p : State → Bool} (h : gives r p = true) : ∃ t, r = .next t := by
  cases r with
  | next t => exact ⟨t, rfl⟩
  | fault f => cases h
  | refused f => cases h

/-- A 32-bit implementation with the misaligned policy to trap. -/
def tS (g : List (BitVec 5 × Dword)) : State :=
  g.foldl (fun s x => s.setGpr x.1 x.2)
    { State.resetOf { State.resetConfig with impl64 := false, misaligned := .trap } with msr := 0x2000, nia := 0x1000 }

/-- User mode, 64-bit. -/
def uS (g : List (BitVec 5 × Dword)) : State := bS 0x8000000000006000 0 0 0 0 g [] []

/-- An implementation without any option. -/
def oS (impl64 : Bool) : State :=
  { State.resetOf { State.resetConfig with
      impl64 := impl64, bridge := false, bridgeMtmsrRfi := false, bridgeMtsrd := false, optFsqrt := false, optFres := false,
      optFrsqrte := false, optFsel := false, optStfiwx := false, optDcba := false, optExtctl := false, optTlbia := false,
      optTlbie := false, optTlbsync := false, optSlbia := false, optSlbie := false } with msr := 0x6000 }

/-- `EncodeDecode`: the words of `WordsDecode` and those of the decoding tests decode. -/
theorem witness_encode_decode : decode 0x3864FFFF = .ok (.addi 3 4 0xFFFF) := by decide

/-- `StepRunsInstruction`: a word at the pc in real mode. (A translated fetch rests on a constant with no body.) -/
theorem witness_step_runs_instruction :
    let s := (gS []).withFetchWord 32 0x38640001
    let u := s.environment
    s.le = false ∧ s.pow = false ∧ recognise u = none ∧ fetchesFrom u 0x1000 u ∧ ¬ staleWord u 0x1000 ∧
      u.holds 0x1000 (lowBytes 4 (zext 0x38640001)) ∧ decode 0x38640001 = .ok (.addi 3 4 1) :=
  ⟨by decide +kernel, by decide +kernel, Option.isNone_iff_eq_none.mp (by decide +kernel),
    ⟨by decide +kernel, .inl ⟨by decide +kernel, by decide +kernel, rfl⟩⟩, by unfold staleWord; decide +kernel,
    State.holds_of_readsAs (by unfold State.readsAs; decide +kernel), by decide +kernel⟩

/-- `BadWords`: an illegal word, and a reserved one with and without an exception that comes first. -/
theorem witness_bad_words :
    decode 0x7CC0192C = .illegal ∧ decode 0x44000003 = .reserved .sc ∧ preCheck .sc (gS []) = none ∧
      decode 0x7C6008A6 = .reserved (.mfmsr 3) ∧ preCheck (.mfmsr 3) (uS []) = some (.program .privileged) := by decide +kernel

/-- `BoundaryTakes`: a state for each exception that a boundary takes, and for the refusals. -/
theorem witness_boundary_takes :
    ({ gS [] with msr := 1 }).le = true ∧
      (({ gS [] with msr := 0x40000 }).le = false ∧ ({ gS [] with msr := 0x40000 }).pow = true) ∧
      ((gS []).le = false ∧ (gS []).pow = false ∧ (gS []).environment = gS []) ∧
      (({ gS [] with resetPending := true }).environment.resetPending = true ∧ (gS []).resetPending = false) ∧
      (({ gS [] with mcheckPending := true, msr := 0x1000 }).environment.me = true ∧
        ({ gS [] with mcheckPending := true }).environment.me = false ∧ (gS []).mcheckPending = false) ∧
      (let u := { gS [] with fpPending := true, fpscr := 0x60000080, msr := 0x800 }
       (u.fpPending && u.fpscr.getMsbD 1 && u.fe) = true) ∧
      (let u := { gS [] with extInt := true, decPending := true, msr := 0x8000 }
       u.extInt = true ∧ u.ee = true ∧ ({ u with extInt := false }.extInt && u.ee) = false ∧ u.decPending = true) ∧
      ({ gS [] with tracePending := true }).tracePending = true ∧ (gS []).tracePending = false := by decide +kernel

/-- `BoundaryTakes`, the fetch: each stale mark, a block stored to, and a byte that nothing has written. (A failing translation
rests on a constant with no body.) -/
theorem witness_fetch_stops :
    (({ gS [] with stale := { StaleMarks.none with sfCut := true } }).stale.sfCut = true) ∧
      (let u := { gS [] with stale := { StaleMarks.none with sf := true }, nia := 0x100000000 }
       u.stale.sf = true ∧ high (u.ea32 u.nia) ≠ 0) ∧
      (let u := { (gS []).withFetchWord 32 0x60000000 with staleInsn := [0x80] }
       u.staleFetch (u.ea32 u.nia) = false ∧ u.ir = false ∧ staleWord u 0x1000) ∧
      (¬ staleWord (gS []) 0x1000 ∧ (gS []).firstUnwritten (bytesFrom 0x1000 4) = some 0x1000) ∧
      ({ gS [] with msr := 0x20 }).ir = true := by unfold staleWord; decide +kernel

/-- `TicksCount`: counts on both sides of the passage below 0, and a record with stores inside and outside the granule. -/
theorem witness_ticks :
    (({ gS [] with dec := 0 }).dec.toNat < 1 ∧ ¬ ({ gS [] with dec := 1 }).dec.toNat < 1) ∧
      (let b : Boundary := ⟨1, true, true, true, false, [(0x2004, 7), (0x2020, 8)], [5], [0x91]⟩
       let s := { gS [] with env := [b], reserve := true, reserveAddr := 0x2000 }
       s.env = b :: [] ∧ s.blockOf 0x2004 ∉ b.icbis ∧ 0x91 ∈ b.icbis ∧ s.reserve = true ∧ 0x2004 / granuleBytes s.cfg = s.reserveAddr.toNat / granuleBytes s.cfg ∧
         0x2020 / granuleBytes s.cfg ≠ s.reserveAddr.toNat / granuleBytes s.cfg) ∧ (gS []).env = [] := by decide +kernel

/-- The state of the step test meets the whole invariant. -/
theorem witness_invariant : (gS []).Inv := by
  refine ⟨by decide +kernel, ⟨by decide +kernel, Or.inl (by decide +kernel)⟩, by unfold State.FpscrSummarised; decide +kernel, ?_⟩
  constructor <;> intros <;> exact Or.inl rfl

/-- A 32-bit state meets it too, and its step answers a next state. -/
theorem witness_invariant_32 : (nS []).Inv ∧ ∃ t, step ((nS []).withFetchWord 32 0x38600007) = .next t := by
  refine ⟨⟨by decide +kernel, ⟨by decide +kernel, Or.inr (by decide +kernel)⟩,
    by unfold State.FpscrSummarised; decide +kernel, ?_⟩, next_of_gives (p := fun t => t.getGpr 3 == 7) (by decide +kernel)⟩
  exact ⟨fun r => Or.inr (by revert r; decide +kernel), Or.inr (by decide +kernel), Or.inr (by decide +kernel),
    Or.inr (by decide +kernel), Or.inr (by decide +kernel), Or.inr (by decide +kernel), Or.inr (by decide +kernel),
    Or.inr (by decide +kernel), Or.inr (by decide +kernel), Or.inr (by decide +kernel),
    fun k => Or.inr (by revert k; decide +kernel), fun k => Or.inr (by revert k; decide +kernel),
    fun k => Or.inr (by revert k; decide +kernel)⟩

/-- `StepKeepsMemoryForm`, `StepKeepsPcAligned`, `StepKeepsFpscrSummary`, `StepKeepsWidth`: such a state that steps. -/
theorem witness_step_keeps :
    let s := (gS []).withFetchWord 32 0x38600007
    (s.mem.wf = true ∧ (s.nia.extractLsb' 0 2 = 0 ∧ s.mode64 = true) ∧ fpscrSummary s.fpscr = s.fpscr) ∧
      ∃ t, step s = .next t :=
  ⟨by decide +kernel, next_of_gives (p := fun t => t.getGpr 3 == 7) (by decide +kernel)⟩

/-- `UserKeepsSupervisorState`: an instruction that keeps the MSR and enters nothing, and one that enters an exception. -/
theorem witness_user : (uS []).pr = true ∧ (∃ t, exec (.addi 3 0 7) (uS []) = .next t ∧ t.entered = (uS []).entered) ∧
    ∃ t, exec .sc (uS []) = .next t :=
  ⟨by decide +kernel, ⟨_, rfl, rfl⟩,
    next_of_gives (p := fun t => t.nia == 0xC00) (by decide +kernel)⟩

/-- `SupervisorInstructionsTrap`: user mode on a 64-bit implementation with the bridge and every option, on one without, and on a
32-bit one; SPR 26 and 16. -/
theorem witness_supervisor :
    let s := uS []
    s.pr = true ∧ s.cfg.impl64 = true ∧ s.cfg.optSlbia = true ∧ s.cfg.optSlbie = true ∧ s.cfg.optTlbia = true ∧
      s.cfg.optTlbie = true ∧ s.cfg.optTlbsync = true ∧ s.cfg.bridge = true ∧ s.cfg.bridgeMtmsrRfi = true ∧
      s.cfg.bridgeMtsrd = true ∧ ((26 : BitVec 10).getLsbD 4 = true ∧ (16 : BitVec 10).getLsbD 4 = true) ∧
      ({ oS true with msr := 0x4000 }).pr = true ∧ ({ nS [] with msr := 0x4000 }).pr = true ∧
      ({ nS [] with msr := 0x4000 }).cfg.impl64 = false := by decide +kernel

/-- `FloatUnavailable`: an instruction of every implementation, one of 64-bit implementations and an optional one. -/
theorem witness_float_unavailable :
    let s := bS 0x8000000000000000 0 0 0 0 [] [] []
    s.fpOn = false ∧ s.cfg.impl64 = true ∧
      (isFloat (.faddx 1 2 3 false) && !only64 (.faddx 1 2 3 false) && optionHolds s.cfg (.faddx 1 2 3 false)) = true ∧
      (isFloat (.fcfidx 1 2 false) && only64 (.fcfidx 1 2 false) && optionHolds s.cfg (.fcfidx 1 2 false)) = true ∧
      (isFloat (.fsqrtx 1 2 false) && optionHolds s.cfg (.fsqrtx 1 2 false)) = true := by decide +kernel

/-- `AbsentInstructionsTrap`: both clauses, and register numbers on both sides of each exception. -/
theorem witness_absent :
    (only64 (.ld 3 4 0) = true ∧ (oS false).cfg.impl64 = false) ∧ optionHolds (oS true).cfg (.fselx 1 2 3 4 false) = false ∧
      optionHolds (oS true).cfg (.mtsr 3 5) = false ∧ optionHolds (oS false).cfg (.mtsrd 3 5) = false ∧
      optionHolds (oS true).cfg .rfi = false ∧
      [0, 2, 16, 268, 269, 271, 276, 284, 285, 527, 544, 1023].map (sprWidth State.resetConfig) = List.replicate 12 none ∧
      sprWidth (oS true).cfg 282 = none ∧ sprWidth (oS false).cfg 280 = none ∧
      ((16 : BitVec 10).getLsbD 4 = true ∧ (0 : BitVec 10).getLsbD 4 = false ∧ (uS []).pr = true ∧ (gS []).pr = false) := by
  decide +kernel

/-- `EntrySaves`: the bits 0 and 32, the first of each width. -/
theorem witness_entry_saves : (gS []).cfg.impl64 = true ∧ 0 < 64 ∧ (nS []).cfg.impl64 = false ∧ 32 ≤ 32 := by decide +kernel

/-- `ReturnFromInterrupt`: supervisor mode on both implementations, and a 64-bit one with the bridge's rfi. -/
theorem witness_return :
    (gS []).pr = false ∧ (gS []).cfg.impl64 = true ∧ (gS []).cfg.bridgeMtmsrRfi = true ∧ (nS []).pr = false ∧
      (nS []).cfg.impl64 = false := by decide +kernel

/-- `Traps`: each comparison selected alone and holding, and none. -/
theorem witness_traps :
    trapHolds 16 (-1) 0 0xFFFFFFFF 0 ∧ trapHolds 8 0 (-1) 0 0xFFFFFFFF ∧ trapHolds 4 5 5 5 5 ∧ trapHolds 2 0 (-1) 0 0xFFFFFFFF ∧
      trapHolds 1 (-1) 0 0xFFFFFFFF 0 ∧ ¬ trapHolds 0 5 5 5 5 ∧ ¬ trapHolds 27 5 5 5 5 ∧ (gS []).cfg.impl64 = true := by
  refine ⟨?_, ?_, ?_, ?_, ?_, ?_, ?_, by decide +kernel⟩ <;> unfold trapHolds <;> decide

/-- `InvalidFormsStop`: one of each kind. -/
theorem witness_invalid_forms :
    (preCheck (.lwzu 3 0 4) (gS []) = none ∧ (Instr.lwzu 3 0 4).wellFormed (gS []).cfg.impl64 = false) ∧
      (preCheck (.cmp 0 true 3 4) (nS []) = none ∧ (Instr.cmp 0 true 3 4).wellFormed (nS []).cfg.impl64 = false) ∧
      (preCheck (.lfdu 1 0 4) (gS []) = none ∧ (Instr.lfdu 1 0 4).wellFormed (gS []).cfg.impl64 = false) ∧
      (preCheck (.bcctrx 16 0 false) (gS []) = none ∧ (Instr.bcctrx 16 0 false).wellFormed (gS []).cfg.impl64 = false) := by
  decide +kernel

/-- `Multiply`, `Compare`, `Logical`, `Rotate`, `Shift` and the others with clauses for 64-bit implementations. -/
theorem witness_impl64 : (gS []).cfg.impl64 = true ∧ (nS []).cfg.impl64 = false := by decide +kernel

/-- `Divide`, words: quotients at both ends of the range, the overflow, and a divisor 0. -/
theorem witness_divide_word :
    (low ((gS [(4, 0x80000000), (5, 1)]).getGpr 4)).toInt = -(2 : Int) ^ 31 ∧ quotientOf (-(2 : Int) ^ 31) 1 (-(2 : Int) ^ 31) ∧
      quotientOf (2 ^ 31 - 1) 1 (2 ^ 31 - 1) ∧ quotientOf (-7) 2 (-3) ∧ quotientOf 7 (-2) (-3) ∧
      low ((gS [(5, 0x100000000)]).getGpr 5) = 0 ∧ low ((gS [(5, 1)]).getGpr 5) ≠ 0 ∧
      (low ((gS [(4, 0x80000000)]).getGpr 4) = 0x80000000 ∧ low ((gS [(5, 0xFFFFFFFF)]).getGpr 5) = 0xFFFFFFFF) := by
  unfold quotientOf; decide +kernel

/-- `Divide`, double words: the same. -/
theorem witness_divide_double :
    quotientOf (-(2 : Int) ^ 63) 1 (-(2 : Int) ^ 63) ∧ quotientOf (2 ^ 63 - 1) 1 (2 ^ 63 - 1) ∧ (gS []).getGpr 5 = 0 ∧
      (gS [(5, 1)]).getGpr 5 ≠ 0 ∧
      ((gS [(4, 0x8000000000000000)]).getGpr 4 = 0x8000000000000000 ∧
        (gS [(5, 0xFFFFFFFFFFFFFFFF)]).getGpr 5 = 0xFFFFFFFFFFFFFFFF) := by
  unfold quotientOf; decide +kernel

/-- `Logical`, the counts of leading zeros: 0, 32 and 64, the ends of the ranges, and one between. -/
theorem witness_count_zeros :
    ((0x80000000 : Dword).getMsbD (32 + 0) = true) ∧ (∀ k, k < 32 → (0 : Dword).getMsbD (32 + k) = false) ∧
      (∀ k, k < 31 → (1 : Dword).getMsbD (32 + k) = false) ∧ (1 : Dword).getMsbD (32 + 31) = true ∧
      (∀ k, k < 64 → (0 : Dword).getMsbD k = false) ∧ (∀ k, k < 63 → (1 : Dword).getMsbD k = false) ∧
      (1 : Dword).getMsbD 63 = true := by decide +kernel

/-- `Branches`, `bcctr`: BO[2] = 1. -/
theorem witness_bcctr : (20 : BitVec 5).getMsbD 2 = true ∧ (4 : BitVec 5).getMsbD 2 = true := by decide

/-- `MoveMachineState`: supervisor mode on both implementations, and the bridge's mtmsr. -/
theorem witness_move_machine_state :
    (gS []).pr = false ∧ (gS []).cfg.impl64 = true ∧ (gS []).cfg.bridgeMtmsrRfi = true ∧ (nS []).pr = false ∧
      (nS []).cfg.impl64 = false := by decide +kernel

/-- `SpecialRegistersReadBack`: the registers at the ends of each range. -/
theorem witness_special_registers :
    (gS []).pr = false ∧
      [1, 18, 22].map (sprWidth State.resetConfig) = [some 32, some 32, some 32] ∧
      [8, 9, 19, 25, 26, 27, 272, 275, 528, 543, 1013, 280].map (sprWidth State.resetConfig) = List.replicate 12 (some 64) ∧
      sprWidth State.resetConfig 282 = some 32 ∧ (272 : BitVec 10) ≠ 275 := by decide +kernel

/-- An implementation with DABR, whose breakpoint is the double word at 0x2000. -/
def dS (dabr : Dword) (g : List (BitVec 5 × Dword)) (m : List (Nat × List Byte)) : State :=
  g.foldl (fun s x => s.setGpr x.1 x.2)
    { State.resetOf { State.resetConfig with optDabr := true } with
      msr := 0x8000000000002000, nia := 0x1000, dabr := dabr, mem := memOf m }

/-- How an access is stopped, for every statement about one: each kind of stale mark (DR, SF with an address of two values, and,
with translation on, every page, the segment or the page), a DABR that is not synchronized, a breakpoint for a load and for a
store. (A failing translation rests on a constant with no body.) -/
theorem witness_access_stops :
    (staleAccess { gS [] with stale := { StaleMarks.none with dr := true } } 0x2000 ∧
        staleAccess { gS [] with stale := { StaleMarks.none with sf := true } } 0x100000000 ∧
        staleAccess { nS [] with stale := { StaleMarks.none with sf := true } } 0x2000 ∧
        ¬ staleAccess { gS [] with stale := { StaleMarks.none with sf := true } } 0x2000) ∧
      (staleAccess { gS [] with msr := 0x10, stale := { StaleMarks.none with allPages := true } } 0x2000 ∧
        staleAccess { gS [] with msr := 0x10, stale := { StaleMarks.none with segments := [0] } } 0x2000 ∧
        staleAccess { gS [] with msr := 0x10, stale := { StaleMarks.none with pages := [2] } } 0x2000 ∧
        ¬ staleAccess { gS [] with msr := 0x10, stale := { StaleMarks.none with pages := [3], segments := [1] } } 0x2000) ∧
      (dabrStale { dS 0 [] [] with stale := { StaleMarks.none with dabr := true } } ∧ ¬ dabrStale (dS 0x2001 [] [])) ∧
      (breaks (dS 0x2001 [] []) .load 0x2007 ∧ ¬ breaks (dS 0x2001 [] []) .load 0x2008 ∧
        ¬ breaks (dS 0x2001 [] []) .store 0x2000) ∧
      breaks (dS 0x2002 [] []) .store 0x2000 ∧ ¬ breaks (dS 0x2006 [] []) .store 0x2000 := by
  simp only [← staleData_iff, ← dabrMatch_iff, dabrStale]
  decide +kernel

/-- `translatesTo`, before a breakpoint that matches. -/
theorem witness_translates : translatesTo (dS 0x2001 [] []) .load 0x2000 0x2000 ⟨false, false, true, false⟩ (dS 0x2001 [] []) :=
  translatesTo_real (by decide +kernel) (by decide +kernel)

/-- With translation on, what `translatesTo` asks of the state alone. -/
theorem witness_translated : (bS 0x8000000000002010 0 0 0 0 [] [] []).dr = true ∧
    (bS 0x8000000000002010 0 0 0 0 [] [] []).staleData 0x2000 = false := by decide +kernel

/-- `Loads`, `LoadAndReserve`, `FloatStorage`: eight bytes at 0x2000, the last of them the top of its double word, and a byte
that nothing has written. -/
theorem witness_loads :
    let s := bS 0x8000000000002000 0 0 0 0 [(4, 0x2000)] [] [(0x2000, [1, 2, 3, 4, 5, 6, 7, 8])]
    reachesAt s .load 0x2000 0x2000 s ∧ s.readsAs (bytesFrom 0x2000 8) [1, 2, 3, 4, 5, 6, 7, 8] ∧
      s.ea32 (sumD s 4 0) = 0x2000 ∧ alignedTo 0x2000 8 = true ∧ alignedTo 0x2000 4 = true ∧ alignedTo 0x2000 2 = true ∧
      alignedTo 0x2007 1 = true ∧ s.firstUnwritten (bytesFrom 0x2004 8) = some 0x2008 ∧ s.cfg.impl64 = true ∧ s.fpOn = true ∧
      ((4 : BitVec 5) ≠ 0 ∧ (4 : BitVec 5) ≠ 3) :=
  ⟨reachesAt_real (by decide +kernel) (by decide +kernel) (by decide +kernel) (by decide +kernel),
    by unfold State.readsAs; decide +kernel, by decide +kernel⟩

/-- `Stores`, `StoreConditional`, `FloatStorage`: an aligned store at the last double word of the address space; doubles whose
single is defined and undefined. -/
theorem witness_stores :
    let s := bS 0x8000000000002000 0 0 0 0 [] [(2, 0x0000000000000001)] []
    reachesAt s .store 0xFFFFFFFFFFFFFFF8 0xFFFFFFFFFFFFFFF8 s ∧ (bytesFrom 0xFFFFFFFFFFFFFFF8 8).Nodup ∧
      alignedTo 0xFFFFFFFFFFFFFFF8 8 = true ∧
      alignedTo 0xFFFFFFFFFFFFFFFC 4 = true ∧ alignedTo 0xFFFFFFFFFFFFFFFC 8 = false ∧ alignedTo 0xFFFFFFFFFFFFFFFE 4 = false ∧
      singleUndefined (s.getFpr 1) = false ∧ singleUndefined (s.getFpr 2) = true ∧ s.cfg.optStfiwx = true ∧
      s.isSingle 1 = false ∧ (s.setFpr 1 0x3FF0000000000000 true).isSingle 1 = true :=
  ⟨reachesAt_real (by decide +kernel) (by decide +kernel) (by decide +kernel) (by decide +kernel), by decide +kernel⟩

/-- `MisalignedAccess`: both policies; under the second, all four bytes of a word that crosses the end of the address space are
reached, by a load and by a store. -/
theorem witness_misaligned :
    (let s := tS [(4, 0xFFFFFFFE)]
     alignedTo (s.ea32 (sumD s 4 0)) 4 = false ∧ s.cfg.misaligned = .trap) ∧
    let s := bS 0x8000000000002000 0 0 0 0 [(4, 0xFFFFFFFFFFFFFFFE)] [] [(0xFFFFFFFFFFFFFFFE, [1, 2]), (0, [3, 4])]
    let pas := (List.range 4).map (addressOf s (sumD s 4 0) 1)
    (alignedTo (s.ea32 (sumD s 4 0)) 4 = false ∧ s.cfg.misaligned = .perform ∧ pas.length = 4 ∧ pas.Nodup) ∧
      reachesEach s .load (sumD s 4 0) 1 pas s ∧ reachesEach s .store (sumD s 4 0) 1 pas s ∧ s.readsAs pas [1, 2, 3, 4] :=
  ⟨by decide +kernel, by decide +kernel, reachesEach_plain _ _ _ _ (by decide +kernel) (by decide +kernel) (by decide +kernel),
    reachesEach_plain _ _ _ _ (by decide +kernel) (by decide +kernel) (by decide +kernel), by unfold State.readsAs; decide +kernel⟩

/-- `Multiples`: misaligned, and aligned with the last two registers; the words are there, and all accesses or only the first
have been made. -/
theorem witness_multiples :
    (alignedTo (eaD (gS [(4, 0x2002)]) 4 0) 4 = false ∧ (Instr.lmw 30 4 0).wellFormed true = true) ∧
    let s := bS 0x8000000000002000 0 0 0 0 [(4, 0x2000)] [] [(0x2000, [1, 2, 3, 4, 5, 6, 7, 8])]
    let pas := fun n => (List.range n).map (addressOf s (sumD s 4 0) 4)
    (alignedTo (eaD s 4 0) 4 = true ∧ (pas 2).length = 32 - (30 : BitVec 5).toNat ∧
        (pas 1).length < 32 - (30 : BitVec 5).toNat) ∧
      (reachesEach s .load (sumD s 4 0) 4 (pas 2) s ∧ reachesEach s .load (sumD s 4 0) 4 (pas 1) s) ∧
      (s.holds 0x2000 (lowBytes 4 (zext 0x01020304)) ∧ s.holds 0x2004 (lowBytes 4 (zext 0x05060708))) ∧
      (∃ u, storesEach s (sumD s 4 0) 4 [[1, 2, 3, 4], [5, 6, 7, 8]] (pas 2) u) ∧
      ((pas 2).flatMap (fun pa => bytesFrom pa 4)).Nodup :=
  ⟨by decide +kernel, by decide +kernel,
    ⟨reachesEach_plain _ _ _ _ (by decide +kernel) (by decide +kernel) (by decide +kernel),
      reachesEach_plain _ _ _ _ (by decide +kernel) (by decide +kernel) (by decide +kernel)⟩,
    ⟨State.holds_of_readsAs (by unfold State.readsAs; decide +kernel),
      State.holds_of_readsAs (by unfold State.readsAs; decide +kernel)⟩,
    storesEach_plain _ _ _ (by decide +kernel) (by decide +kernel) (by decide +kernel), by decide +kernel⟩

/-- `Strings`: registers that wrap, a count of 0, rA or rB in the range; all bytes or only the first four have been loaded. -/
theorem witness_strings :
    let s := bS 0x8000000000002000 0 5 0 0 [(4, 0x2000)] [] [(0x2000, [1, 2, 3, 4, 5])]
    let pas := fun n => (List.range n).map (addressOf s 0x2000 1)
    ((Instr.lswi 31 4 5).wellFormed true = true ∧ (Instr.lswx 31 4 6).wellFormed true = true ∧ s.xerCount = 5 ∧
        inWrappedRange 4 31 ((5 + 3) / 4) = false ∧ inWrappedRange 6 31 ((5 + 3) / 4) = false ∧
        inWrappedRange 0 31 ((5 + 3) / 4) = true ∧ (Instr.lswx 31 4 0).wellFormed true = true ∧ (gS []).xerCount = 0 ∧
        stringCount 5 = 5 ∧ stringCount 0 = 32 ∧ (pas 5).length = 5 ∧ (pas 4).length < 5) ∧
      (reachesEach s .load 0x2000 1 (pas 5) s ∧ reachesEach s .load 0x2000 1 (pas 4) s) ∧
      s.readsAs (pas 5) ((List.range 5).map (fun k => BitVec.ofNat 8 (k + 1))) ∧
      ∃ u, storesEach s 0x2000 1 [[1], [2], [3], [4], [5]] (pas 5) u :=
  ⟨by decide +kernel,
    ⟨reachesEach_plain _ _ _ _ (by decide +kernel) (by decide +kernel) (by decide +kernel),
      reachesEach_plain _ _ _ _ (by decide +kernel) (by decide +kernel) (by decide +kernel)⟩,
    by unfold State.readsAs; decide +kernel,
    storesEach_plain _ _ _ (by decide +kernel) (by decide +kernel) (by decide +kernel)⟩

/-- `LoadAndReserve`, `StoreConditional`: misaligned; the reservation for the address, for another, and none. -/
theorem witness_store_conditional :
    (alignedTo (eaX (gS [(4, 0x2002)]) 0 4) 4 = false ∧ alignedTo (eaX (gS [(4, 0x2004)]) 0 4) 8 = false) ∧
      ({ gS [] with reserve := true, reserveAddr := 0x2000 }).reserve = true ∧
      ({ gS [] with reserve := true, reserveAddr := 0x2008 }).reserveAddr ≠ 0x2000 ∧ (gS []).reserve = false := by decide +kernel

/-- `CacheBlocks`: the largest block size; `dcbz` on memory that its policy does not trap. (In real addressing mode no memory is
caching-inhibited; other attributes come from a constant with no body.) -/
theorem witness_cache_blocks :
    let s := { gS [] with cfg := { State.resetConfig with cacheBlockLog := 63 } }
    s.cfg.cacheBlockLog ≤ 63 ∧ s.pr = false ∧ s.cfg.optDcba = true ∧ reachesAt s .store 0x2000 0x2000 s ∧
      translatesTo s .store 0x2000 0x2000 ⟨false, false, true, false⟩ s ∧
      inBlock s 0x2000 0x7FFFFFFFFFFFFFFF ∧ ¬ inBlock s 0x2000 0x8000000000000000 :=
  ⟨by decide +kernel, by decide +kernel, by decide +kernel,
    reachesAt_plain _ _ (by decide +kernel) (by decide +kernel) (by decide +kernel),
    translatesTo_real (by decide +kernel) (by decide +kernel), by unfold inBlock; decide +kernel, by unfold inBlock; decide +kernel⟩

/-- `ExternalControl`: a state for each check, and what the translation's clauses ask of the state alone. -/
theorem witness_external_control :
    let s := bS 0x8000000000002010 0 0 0 0 [(4, 0x2000), (5, 0x2002)] [] []
    let e := { s with ear := 0x80000003 }
    s.cfg.optExtctl = true ∧ ({ s with stale := { s.stale with dr := true } }).stale.dr = true ∧
      (s.stale.dr = false ∧ (gS []).stale.dr = false ∧ e.stale.dr = false) ∧ (gS []).dr = false ∧ (s.dr = true ∧ ({ s with stale := { s.stale with ear := true } }).stale.ear = true) ∧
      (s.stale.ear = false ∧ s.ear.getMsbD 0 = false) ∧ (e.dr = true ∧ e.stale.ear = false ∧ e.ear.getMsbD 0 = true) ∧
      alignedTo (eaX e 0 5) 4 = false ∧ alignedTo (eaX e 0 4) 4 = true ∧ e.staleData (eaX e 0 4) = false := by decide +kernel

/-- `BoundaryTakes`: T in the segment register of a 32-bit implementation, and in the SLB of a 64-bit one. -/
theorem witness_direct_segment (x : Xlate) :
    directSegment ((nS []).setSr 2 0x80000000) x 0x20000000 ∧ directSegment ((gS []).setSlb 3 ⟨0x200000C0, 0, true⟩) x 0x20000000 :=
  ⟨.inr (.inl (by decide +kernel)), .inr (.inr ⟨by decide +kernel, 3, by decide +kernel⟩)⟩

/-- `SegmentsAndBuffers`: the segment register moves of both implementations, and the buffers. -/
theorem witness_segments :
    ((nS []).pr = false ∧ (nS []).cfg.impl64 = false) ∧ ((gS []).pr = false ∧ (gS []).cfg.impl64 = true) ∧
      (gS []).cfg.bridge = true ∧ (gS []).cfg.bridgeMtsrd = true ∧ (gS []).cfg.optSlbia = true ∧ (gS []).cfg.optSlbie = true ∧
      (gS []).cfg.optTlbia = true ∧ (gS []).cfg.optTlbie = true ∧ slice 4 (0xF0000000 : Dword) 32 = 15 ∧
      ((State.setSlb (gS []) 15 ⟨0x50000080, 0, true⟩).slb.get 15).byMove = true := by decide +kernel

/-- `FloatArithmetic`, `FloatConvert`, `FloatCompare`, `FloatMoves`, `FloatStatus`: floating point on; exceptions not taken, and
taken. -/
theorem witness_float :
    let s := fpS 0 []
    s.fpOn = true ∧ s.fe = false ∧ s.cfg.fpResult = .reference ∧ s.cfg.optFsqrt = true ∧ s.cfg.optFres = true ∧
      s.cfg.optFrsqrte = true ∧ s.cfg.optFsel = true ∧ s.cfg.impl64 = true ∧ s.fpscr.getMsbD 24 = false ∧
      ({ s with msr := 0x2800 }).fe = true ∧ ({ s with msr := 0x2100 }).fe = true := by decide +kernel

/-- `FloatArithmetic`, the enabled exception: 1 / 0 with ZE = 1 leaves FEX = 1, which was 0. -/
theorem witness_enabled_exception :
    let s := { fpS 0x10 [(1, 0x3FF0000000000000)] with msr := 0x8000000000002800 }
    let quiet := { s with msr := s.msr &&& ~~~ 0x900 }
    s.fe = true ∧ (fpscrSummary s.fpscr).getMsbD 1 = false ∧
      gives (exec (.fdivx 3 1 2 false) quiet) (fun t => t.fpscr.getMsbD 1) = true := by decide +kernel

/-- The number of a normalized positive double from its fields. -/
theorem numberOf_normal {d : Dword} (e f : Nat) (hs : d.msb = false) (h0 : slice 11 d 1 ≠ 0) (he : (slice 11 d 1).toNat = e)
    (hf : (slice 52 d 12).toNat = f) : numberOf d = ((2 ^ 52 + f : ℕ) : ℚ) * 2 ^ ((e : ℤ) - 1075) := by
  simp only [numberOf, hs, if_neg h0, he, hf, Bool.false_eq_true, if_false, one_mul]

/-- The doubles of the witnesses: 1, 2, 3, 4, 6, 8, 12, 2.5 and 2 to the power of 1023. -/
theorem numbers :
    numberOf 0x3FF0000000000000 = 1 ∧ numberOf 0x4000000000000000 = 2 ∧ numberOf 0x4008000000000000 = 3 ∧
      numberOf 0x4010000000000000 = 4 ∧ numberOf 0x4018000000000000 = 6 ∧ numberOf 0x4020000000000000 = 8 ∧
      numberOf 0x4028000000000000 = 12 ∧ numberOf 0x4004000000000000 = 5 / 2 ∧ numberOf 0x7FE0000000000000 = 2 ^ (1023 : ℤ) := by
  refine ⟨?_, ?_, ?_, ?_, ?_, ?_, ?_, ?_, ?_⟩
  · rw [numberOf_normal 1023 0 (by decide) (by decide) (by decide +kernel) (by decide +kernel)]; norm_num
  · rw [numberOf_normal 1024 0 (by decide) (by decide) (by decide +kernel) (by decide +kernel)]; norm_num
  · rw [numberOf_normal 1024 (2 ^ 51) (by decide) (by decide) (by decide +kernel) (by decide +kernel)]; norm_num
  · rw [numberOf_normal 1025 0 (by decide) (by decide) (by decide +kernel) (by decide +kernel)]; norm_num
  · rw [numberOf_normal 1025 (2 ^ 51) (by decide) (by decide) (by decide +kernel) (by decide +kernel)]; norm_num
  · rw [numberOf_normal 1026 0 (by decide) (by decide) (by decide +kernel) (by decide +kernel)]; norm_num
  · rw [numberOf_normal 1026 (2 ^ 51) (by decide) (by decide) (by decide +kernel) (by decide +kernel)]; norm_num
  · rw [numberOf_normal 1024 (2 ^ 50) (by decide) (by decide) (by decide +kernel) (by decide +kernel)]; norm_num
  · rw [numberOf_normal 2046 0 (by decide) (by decide) (by decide +kernel) (by decide +kernel),
      show (2 : ℚ) ^ (1023 : ℤ) = 2 ^ (52 : ℤ) * 2 ^ (971 : ℤ) by rw [← zpow_add₀ (by norm_num)]; norm_num]
    norm_num

/-- `FloatArithmetic`, the estimates: 1, a nonzero positive single whose reciprocal is a single. -/
theorem witness_estimates :
    isNumber ((fpS 0 [(2, 0x3FF0000000000000)]).getFpr 2) = true ∧ singleRepresentable 0x3FF0000000000000 = true ∧
      numberOf 0x3FF0000000000000 ≠ 0 ∧
      (∃ y, isNumber y = true ∧ singleRepresentable y = true ∧ |numberOf y * numberOf 0x3FF0000000000000 - 1| ≤ 1 / 256) ∧
      0 < numberOf 0x3FF0000000000000 := by
  refine ⟨by decide +kernel, by decide +kernel, by rw [numbers.1]; norm_num,
    ⟨0x3FF0000000000000, by decide +kernel, by decide +kernel, ?_⟩, by rw [numbers.1]; norm_num⟩
  rw [numbers.1]; norm_num

/-- `FloatInvalid`, `FloatConvert`: operands for each invalid operation, signalling and quiet NaNs, infinities and zeros, all of them
singles; VE, ZE and FE0 at 0 and 1; a finite nonzero number by a zero. -/
theorem witness_float_invalid :
    (isSnan 0x7FF0000000000001 = true ∧ isNan 0x7FF8000000000000 = true ∧ isSnan 0x7FF8000000000000 = false ∧
        [0x7FF0000000000001, 0x7FF8000000000000, 0xFFF0000000000000, 0x8000000000000000, 0xBFF0000000000000].all
          singleRepresentable = true) ∧
      (sumBits (infinite 0x7FF0000000000000) false (infinite 0xFFF0000000000000) true ≠ 0 ∧
        productBits 0x7FF0000000000000 0 ≠ 0 ∧ quotientBits 0x7FF0000000000000 0xFFF0000000000000 ≠ 0 ∧ quotientBits 0 0 ≠ 0 ∧
        rootBits 0xBFF0000000000000 ≠ 0) ∧
      (sumSpecial 0 true false 0 false false 1 ≠ none ∧ sumSpecial 3 false false 1 false true (-1) = some 0x8000000000000000 ∧
        productSpecial 0 0xBFF0000000000000 = some 0x8000000000000000 ∧ quotientSpecial 0x3FF0000000000000 0x7FF0000000000000 ≠ none ∧
        rootSpecial 0x8000000000000000 ≠ none ∧ zero 0x8000000000000000 = true ∧ infinite 0x7FF0000000000000 = true) ∧
      ((fpS 0x80 []).fpscr.getMsbD 24 = true ∧ (fpS 0 []).fpscr.getMsbD 24 = false ∧ (fpS 0x10 []).fpscr.getMsbD 27 = true ∧
        (fpS 0 []).fpscr.getMsbD 27 = false ∧ ({ fpS 0x90 [] with msr := 0x2800 }).fe = true) ∧
      (isNumber 0x3FF0000000000000 = true ∧ numberOf 0x3FF0000000000000 ≠ 0) := by
  exact ⟨by decide +kernel, by decide +kernel, by decide +kernel, by decide +kernel, by decide +kernel, by rw [numbers.1]; norm_num⟩

/-- `FloatExactResults`: the operands 6 and 2 and the results 8, 4, 12 and 3; 2 squared is 4; all are singles. -/
theorem witness_float_exact :
    (fpS 0 []).fpscr.getMsbD 26 = false ∧
      (isNumber 0x4018000000000000 = true ∧ isNumber 0x4000000000000000 = true ∧ isNumber 0x4020000000000000 = true) ∧
      numberOf 0x4020000000000000 = numberOf 0x4018000000000000 + numberOf 0x4000000000000000 ∧
      numberOf 0x4010000000000000 = numberOf 0x4018000000000000 - numberOf 0x4000000000000000 ∧
      numberOf 0x4028000000000000 = numberOf 0x4018000000000000 * numberOf 0x4000000000000000 ∧
      numberOf 0x4008000000000000 = numberOf 0x4018000000000000 / numberOf 0x4000000000000000 ∧
      numberOf 0x4000000000000000 * numberOf 0x4000000000000000 = numberOf 0x4010000000000000 ∧
      numberOf 0x4000000000000000 ≠ 0 ∧ (0x4000000000000000 : Dword).msb = false ∧
      (singleRepresentable 0x4018000000000000 && singleRepresentable 0x4000000000000000 &&
        singleRepresentable 0x4020000000000000) = true := by
  obtain ⟨-, h2, h3, h4, h6, h8, h12, -, -⟩ := numbers
  simp only [h2, h3, h4, h6, h8, h12]
  exact ⟨by decide +kernel, by decide +kernel, by norm_num, by norm_num, by norm_num, by norm_num, by norm_num, by norm_num,
    by decide, by decide +kernel⟩

/-- Rounding of 2.5 in every mode and sign, which the rounded results and the conversions ask of `n`. -/
theorem witness_rounds (neg : Bool) :
    roundsTo .nearest neg (5 / 2) 2 ∧ roundsTo .zero neg (5 / 2) 2 ∧ roundsTo .up neg (5 / 2) (if neg then 2 else 3) ∧
      roundsTo .down neg (5 / 2) (if neg then 3 else 2) := by
  have f : ⌊(5 / 2 : ℝ)⌋₊ = 2 := by rw [Nat.floor_eq_iff (by norm_num)]; norm_num
  have c : ⌈(5 / 2 : ℝ)⌉₊ = 3 := by rw [Nat.ceil_eq_iff (by norm_num)]; norm_num
  have a : |(5 / 2 : ℝ) - 2| = 1 / 2 := by norm_num
  refine ⟨⟨by norm_num [a], fun _ => by decide⟩, f.symm, ?_, ?_⟩ <;> cases neg <;> simp [roundsTo, f, c]

/-- `FloatExactResults`, in range: 1 / 3 is inexact; its exponent is -2. -/
theorem witness_rounded_inexact :
    let x : ℝ := (numberOf 0x3FF0000000000000 : ℝ) / (numberOf 0x4008000000000000 : ℝ)
    x ≠ 0 ∧ (2 : ℝ) ^ (-2 : ℤ) ≤ |x| ∧ |x| < (2 : ℝ) ^ (-2 + 1 : ℤ) ∧ doubleFormat.minExp ≤ -2 ∧
      roundsTo .nearest false (|x| / 2 ^ (-2 - (doubleFormat.bits - 1))) 6004799503160661 ∧
      (6004799503160661 : ℝ) * 2 ^ (-2 - (doubleFormat.bits - 1)) < 2 ^ (doubleFormat.maxExp + 1) := by
  have e : (-2 - (doubleFormat.bits - 1)) = (-54 : ℤ) := by decide
  have m : doubleFormat.maxExp + 1 = 1024 := by decide
  simp only [numbers.1, numbers.2.2.1, e, m, roundsTo]
  have h : |((1 : ℚ) : ℝ) / ((3 : ℚ) : ℝ)| = 1 / 3 := by norm_num
  rw [h]
  refine ⟨by norm_num, by norm_num, by norm_num, by decide, ⟨?_, ?_⟩, ?_⟩
  · norm_num [abs_le]
  · norm_num [abs_of_pos]
  · refine lt_of_lt_of_le (b := (2 : ℝ) ^ (0 : ℤ)) (by norm_num) (zpow_le_zpow_right₀ (by norm_num) (by norm_num))

/-- `FloatExactResults`, overflow with OE = 0 and 1: 2 to the power of 1023 and itself. -/
theorem witness_rounded_overflow :
    let x : ℝ := (numberOf 0x7FE0000000000000 : ℝ) + (numberOf 0x7FE0000000000000 : ℝ)
    x = 2 ^ (1024 : ℤ) ∧ doubleFormat.minExp ≤ 1024 ∧
      roundsTo .zero false (2 ^ (1024 : ℤ) / 2 ^ (1024 - (doubleFormat.bits - 1))) (2 ^ 52) ∧
      (2 : ℝ) ^ (doubleFormat.maxExp + 1) ≤ ((2 ^ 52 : ℕ) : ℝ) * 2 ^ (1024 - (doubleFormat.bits - 1)) ∧
      ((2 ^ 52 : ℕ) : ℝ) * 2 ^ (1024 - (doubleFormat.bits - 1)) * 2 ^ (-doubleFormat.adjust) < 2 ^ (doubleFormat.maxExp + 1) ∧
      (fpS 0x40 []).fpscr.getMsbD 25 = true ∧ (fpS 0 []).fpscr.getMsbD 25 = false := by
  have e : (1024 - (doubleFormat.bits - 1)) = (972 : ℤ) := by decide
  have m : doubleFormat.maxExp + 1 = 1024 := by decide
  have k : -doubleFormat.adjust = -1536 := by decide
  have h52 : ((2 ^ 52 : ℕ) : ℝ) = 2 ^ (52 : ℤ) := by norm_num
  have p : (2 : ℝ) ^ (52 : ℤ) * 2 ^ (972 : ℤ) = 2 ^ (1024 : ℤ) := by rw [← zpow_add₀ (by norm_num)]; norm_num
  simp only [e, m, k, h52, p, numbers.2.2.2.2.2.2.2.2, roundsTo]
  refine ⟨?_, by decide, ?_, le_refl _, ?_, by decide +kernel, by decide +kernel⟩
  · push_cast
    rw [← two_mul, ← zpow_one_add₀ (by norm_num)]; norm_num
  · rw [← zpow_sub₀ (by norm_num)]; norm_num
  · rw [← zpow_add₀ (by norm_num)]
    exact zpow_lt_zpow_right₀ (by norm_num) (by norm_num)

/-- `FloatExactResults`, below the normalized numbers with UE = 0 and 1: 5 / 2 in units of the least denormalized number. -/
theorem witness_rounded_tiny :
    let x : ℝ := (numberOf 0x0000000000000005 : ℝ) / (numberOf 0x4000000000000000 : ℝ)
    x = 5 / 2 * 2 ^ (-1074 : ℤ) ∧ (2 : ℝ) ^ (-1073 : ℤ) ≤ x ∧ x < 2 ^ (-1073 + 1 : ℤ) ∧ -1073 < doubleFormat.minExp ∧
      roundsTo .nearest false (x / 2 ^ (doubleFormat.minExp - (doubleFormat.bits - 1))) 2 ∧
      roundsTo .nearest false (x / 2 ^ (-1073 - (doubleFormat.bits - 1))) (5 * 2 ^ 50) ∧
      (2 : ℝ) ^ doubleFormat.minExp ≤ ((5 * 2 ^ 50 : ℕ) : ℝ) * 2 ^ (-1073 - (doubleFormat.bits - 1)) * 2 ^ doubleFormat.adjust ∧
      (fpS 0x20 []).fpscr.getMsbD 26 = true ∧ (fpS 0 []).fpscr.getMsbD 26 = false := by
  have h5 : numberOf 0x0000000000000005 = 5 * 2 ^ (-1074 : ℤ) := by
    have h : slice 11 (0x0000000000000005 : Dword) 1 = 0 ∧ (slice 52 (0x0000000000000005 : Dword) 12).toNat = 5 ∧
      (0x0000000000000005 : Dword).msb = false := by decide +kernel
    simp only [numberOf, h.1, h.2.1, h.2.2, Bool.false_eq_true, if_false, if_true, one_mul]; norm_num
  have hx : ((numberOf 0x0000000000000005 : ℚ) : ℝ) / ((numberOf 0x4000000000000000 : ℚ) : ℝ) = 5 / 2 * 2 ^ (-1074 : ℤ) := by
    rw [h5, numbers.2.1]; push_cast; ring
  have e : doubleFormat.minExp - (doubleFormat.bits - 1) = -1074 := by decide
  have e' : -1073 - (doubleFormat.bits - 1) = (-1125 : ℤ) := by decide
  have m : doubleFormat.minExp = -1022 := by decide
  have k : doubleFormat.adjust = 1536 := by decide
  have q : (5 / 2 * 2 ^ (-1074 : ℤ) : ℝ) / 2 ^ (-1074 : ℤ) = 5 / 2 := by
    rw [mul_div_assoc, div_self (by positivity), mul_one]
  have q' : (5 / 2 * 2 ^ (-1074 : ℤ) : ℝ) / 2 ^ (-1125 : ℤ) = ((5 * 2 ^ 50 : ℕ) : ℝ) := by
    rw [mul_div_assoc, ← zpow_sub₀ (by norm_num)]; norm_num
  simp only [hx, e, e', q, q']
  simp only [m, k]
  have t : (2 : ℝ) ^ (-1073 : ℤ) = 2 * 2 ^ (-1074 : ℤ) := by rw [← zpow_one_add₀ (by norm_num)]; norm_num
  have t' : (2 : ℝ) ^ (-1073 + 1 : ℤ) = 4 * 2 ^ (-1074 : ℤ) := by
    rw [show (4 : ℝ) = 2 ^ (2 : ℤ) by norm_num, ← zpow_add₀ (by norm_num)]; norm_num
  have pos : (0 : ℝ) < 2 ^ (-1074 : ℤ) := by positivity
  refine ⟨trivial, ?_, ?_, by decide, (witness_rounds false).1, ⟨by norm_num, fun h => by norm_num at h⟩, ?_, by decide +kernel,
    by decide +kernel⟩
  · rw [t]; nlinarith
  · rw [t']; nlinarith
  · rw [mul_assoc, ← zpow_add₀ (by norm_num)]
    refine le_trans (zpow_le_zpow_right₀ (n := 0) (by norm_num) (by norm_num)) ?_
    have h1 : (1 : ℝ) ≤ ((5 * 2 ^ 50 : ℕ) : ℝ) := by norm_num
    have h2 : (1 : ℝ) ≤ 2 ^ (-1125 + 1536 : ℤ) := one_le_zpow₀ (by norm_num) (by norm_num)
    rw [zpow_zero]
    nlinarith

/-- `FloatSignRules`: a frB that is no NaN, with another register for its inversion; a result that is a NaN and one that is none;
VE, OE and UE are 0; singles. -/
theorem witness_float_sign :
    (isNan 0x3FF0000000000000 = false ∧ (5 : BitVec 5) ≠ 1 ∧ (5 : BitVec 5) ≠ 3) ∧
      (fpS 0x18 []).fpscr &&& 0xE0 = 0 ∧
      gives (exec (.fmaddx 3 1 2 4 false) (fpS 0 [(1, 0x3FF0000000000000), (4, 0x3FF0000000000000), (2, 0x4000000000000000)]))
        (fun t => !isNan (t.getFpr 3)) = true ∧
      gives (exec (.fmaddx 3 1 2 4 false) (fpS 0 [(1, 0x7FF8000000000000)])) (fun t => isNan (t.getFpr 3)) = true ∧
      (singleRepresentable 0x3FF0000000000000 && singleRepresentable 0x4000000000000000) = true := by decide +kernel

/-- `SingleRoundTrip`: a number, an infinity and a double that has a single format. -/
theorem witness_singles :
    slice 8 (0x3F800000 : Word) 1 ≠ 0xFF ∧ slice 8 (0x7F800000 : Word) 1 = 0xFF ∧
      singleRepresentable 0x3FF0000000000000 = true ∧ isNan 0x3FF0000000000000 = false := by decide +kernel

/-- `FloatConvert`: a NaN, an infinity, a number in range and one out of range, with VE = 0 and 1. -/
theorem witness_convert :
    (isNan 0x7FF8000000000000 = true ∧ isNumber 0x7FF8000000000000 = false ∧ isNan 0xFFF0000000000000 = false ∧
        isNumber 0xFFF0000000000000 = false ∧ isNumber 0x4004000000000000 = true ∧ isNumber 0x43E0000000000000 = true) ∧
      (roundsTo .nearest false |((numberOf 0x4004000000000000 : ℚ) : ℝ)| 2 ∧ outside 32 2 = false) ∧
      (roundsTo .zero false |((numberOf 0x43E0000000000000 : ℚ) : ℝ)| (2 ^ 63) ∧ outside 64 (2 ^ 63) = true) ∧
      (fpS 0x80 []).fpscr.getMsbD 24 = true ∧ (fpS 0 []).fpscr.getMsbD 24 = false := by
  refine ⟨by decide +kernel, ⟨?_, by decide⟩, ⟨?_, by decide +kernel⟩, by decide +kernel⟩
  · rw [numbers.2.2.2.2.2.2.2.1]
    have : |((5 / 2 : ℚ) : ℝ)| = 5 / 2 := by norm_num
    rw [this]
    exact (witness_rounds false).1
  · rw [numberOf_normal 1086 0 (by decide) (by decide) (by decide +kernel) (by decide +kernel), roundsTo]
    have : |((((2 ^ 52 + 0 : ℕ) : ℚ) * 2 ^ (((1086 : ℕ) : ℤ) - 1075) : ℚ) : ℝ)| = ((2 ^ 63 : ℕ) : ℝ) := by norm_num
    rw [this, Nat.floor_natCast]

/-- `FloatConvert`, `FloatCompare`, the enabled exception: FEX = 1 before and after `fcmpu`, and after `fcfid`, which raise nothing. -/
theorem witness_enabled_before :
    let s := { fpS 0x61000080 [] with msr := 0x8000000000002800 }
    s.fe = true ∧ gives (exec (.fcmpu 0 1 2) s) (fun t => t.fpscr.getMsbD 1) = true ∧
      gives (exec (.fcfidx 3 1 false) { s with msr := s.msr &&& ~~~ 0x900 }) (fun t => t.fpscr.getMsbD 1) = true := by
  decide +kernel

/-- `FloatStatus`: exceptions taken, with FEX = 1 after the write and with FEX = 0. -/
theorem witness_float_status :
    let s := { fpS 0x20000080 [] with msr := 0x2800 }
    s.fpOn = true ∧ s.fe = true ∧ gives (exec (.mcrfs 0 1) s) (fun t => t.fpscr.getMsbD 1) = false ∧
      gives (exec (.mcrfs 0 1) { s with fpscr := 0x61000080 }) (fun t => t.fpscr.getMsbD 1) = false ∧
      gives (exec (.mcrfs 0 2) { s with fpscr := 0x61000080 }) (fun t => t.fpscr.getMsbD 1) = true := by decide +kernel

/-- `ExactArithmetic`: zeros and finite numbers are numbers. -/
theorem witness_numbers : (FpVal.zero true).isNumber = true ∧ (FpVal.finite ⟨false, 1, -1074⟩).isNumber = true := by decide

/-- `FloatMoves`, `fsel`: an operand for each alternative. -/
theorem witness_fsel :
    classify 0x8000000000000000 = .zero true ∧ classify 0x7FF0000000000000 = .inf false ∧
      classify 0xFFF0000000000000 = .inf true ∧ classify 0x7FF8000000000000 = .nan ∧
      classify 0x3FF0000000000000 = .finite ⟨false, 0x10000000000000, -52⟩ ∧
      classify 0xBFF0000000000000 = .finite ⟨true, 0x10000000000000, -52⟩ := by decide +kernel

end Sys2Proof.Tests
end

section
/-!
PROOFS. What a step can do to the state, said once: every instruction, and every step, is a chain of a few kinds of update
(`Update`), so that a property which each kind keeps is kept by every step. `StepKeepsWidth` is the first such property.
-/

namespace Sys2Proof.Machine

/-! ## Updates -/

/-- `t` differs from `s` at most in what is neither a register of width XLEN (10_state R43), nor the pc, the FPSCR, memory, PVR or
a parameter: the floating-point registers, CR, XER, DSISR, the timers, EAR, segments and lookaside buffers, the reservation, what
is pending, the marks, the outside world, and the records of device output and draws. -/
def State.SameCore (s t : State) : Prop :=
  t = { s with
    fpr := t.fpr, fprSingle := t.fprSingle, cr := t.cr, xer := t.xer, dsisr := t.dsisr, dec := t.dec, tb := t.tb,
    ear := t.ear, sr := t.sr, slb := t.slb, tlb := t.tlb, reserve := t.reserve, reserveAddr := t.reserveAddr,
    extInt := t.extInt, resetPending := t.resetPending, mcheckPending := t.mcheckPending, decPending := t.decPending,
    fpPending := t.fpPending, tracePending := t.tracePending, staleInsn := t.staleInsn, icbiDone := t.icbiDone,
    stale := t.stale, deviceOut := t.deviceOut, env := t.env, draws := t.draws }

/-! The marks of context changes and what is noted as pending are no part of that core. -/

theorem State.noteTarget_sameCore (s : State) (v : Dword) : s.SameCore (s.noteTarget v) := by
  rw [s.noteTarget_frame v]; rfl

theorem State.noteCounter_sameCore (s : State) (bo bi : BitVec 5) : s.SameCore (s.noteCounter bo bi) := by
  rw [s.noteCounter_frame bo bi]; rfl

theorem State.noteWrap_sameCore (t s : State) (i : Instr) : t.SameCore (t.noteWrap s i) := by
  rw [t.noteWrap_frame s i]; rfl

theorem State.noteTrace_sameCore (t : State) (i : Instr) : t.SameCore (t.noteTrace i) := by
  unfold State.noteTrace
  split <;> rfl

theorem State.notePendingFp_sameCore (before t : State) : t.SameCore (before.notePendingFp t) := by
  unfold State.notePendingFp
  split <;> rfl

theorem State.markEntry_sameCore (s before : State) (n : BitVec 4) : s.SameCore (s.markEntry before n) := by
  simp only [State.markEntry]
  split <;> rfl

/-- The kinds of update that instructions and boundaries are made of, each by the model's own operation. A write of the MSR always
comes with one of the pc, which is seen under the new mode. -/
inductive Update : State → State → Prop where
  | setGpr (s : State) (r : BitVec 5) (v : Dword) : Update s (s.setGpr r v)
  | setLr (s : State) (v : Dword) : Update s (s.setLr v)
  | setCtr (s : State) (v : Dword) : Update s (s.setCtr v)
  | setNia (s : State) (v : Dword) : Update s (s.setNia v)
  | setMsr (s : State) (v w : Dword) : Update s ((s.setMsr v).setNia w)
  | setFpscr (s : State) (f : Word) : Update s (s.setFpscr f)
  | writeSpr (s : State) (n : Nat) (v : Dword) : Update s (writeSpr s n v)
  | storeByte (s : State) (pa : Nat) (b : Byte) : Update s (s.storeByte pa b)
  | enter (e : Exc) (ret : Dword) (s : State) : Update s (enter e ret s)
  | other {s t : State} (h : s.SameCore t) : Update s t

/-- A chain of updates leads from `s` to `t`. -/
def State.UpdatesTo (s t : State) : Prop := Relation.ReflTransGen Update s t

/-- A reflexive and transitive relation that holds along every update holds along a chain of them. -/
theorem State.UpdatesTo.lift {R : State → State → Prop} (refl : ∀ s, R s s) (trans : ∀ {s t u}, R s t → R t u → R s u)
    (step : ∀ {s t}, Update s t → R s t) {s t : State} (h : s.UpdatesTo t) : R s t := by
  induction h with
  | refl => exact refl s
  | tail _ u ih => exact trans ih (step u)

section
variable {s t : State}

theorem State.UpdatesTo.refl (s : State) : s.UpdatesTo s := Relation.ReflTransGen.refl

theorem State.UpdatesTo.trans {u : State} (h : s.UpdatesTo t) (k : t.UpdatesTo u) : s.UpdatesTo u :=
  Relation.ReflTransGen.trans h k

theorem State.UpdatesTo.setGpr (h : s.UpdatesTo t) (r : BitVec 5) (v : Dword) : s.UpdatesTo (t.setGpr r v) :=
  h.tail (.setGpr t r v)

theorem State.UpdatesTo.setLr (h : s.UpdatesTo t) (v : Dword) : s.UpdatesTo (t.setLr v) := h.tail (.setLr t v)

theorem State.UpdatesTo.setCtr (h : s.UpdatesTo t) (v : Dword) : s.UpdatesTo (t.setCtr v) := h.tail (.setCtr t v)

theorem State.UpdatesTo.setNia (h : s.UpdatesTo t) (v : Dword) : s.UpdatesTo (t.setNia v) := h.tail (.setNia t v)

theorem State.UpdatesTo.setMsr (h : s.UpdatesTo t) (v w : Dword) : s.UpdatesTo ((t.setMsr v).setNia w) :=
  h.tail (.setMsr t v w)

theorem State.UpdatesTo.setFpscr (h : s.UpdatesTo t) (f : Word) : s.UpdatesTo (t.setFpscr f) := h.tail (.setFpscr t f)

theorem State.UpdatesTo.writeSpr (h : s.UpdatesTo t) (n : Nat) (v : Dword) : s.UpdatesTo (writeSpr t n v) :=
  h.tail (.writeSpr t n v)

theorem State.UpdatesTo.storeByte (h : s.UpdatesTo t) (pa : Nat) (b : Byte) : s.UpdatesTo (t.storeByte pa b) :=
  h.tail (.storeByte t pa b)

theorem State.UpdatesTo.enter (h : s.UpdatesTo t) (e : Exc) (ret : Dword) : s.UpdatesTo (enter e ret t) :=
  h.tail (.enter e ret t)

theorem State.UpdatesTo.other {u : State} (h : s.UpdatesTo t) (k : t.SameCore u) : s.UpdatesTo u := h.tail (.other k)

theorem State.UpdatesTo.ite {c : Prop} [Decidable c] {u : State} (h : s.UpdatesTo t) (k : s.UpdatesTo u) :
    s.UpdatesTo (if c then t else u) := by
  split
  · exact h
  · exact k

/-- Bytes are stored one after the other. -/
theorem State.UpdatesTo.storeAll (h : s.UpdatesTo t) (pas : List Dword) (bytes : List Byte) :
    s.UpdatesTo (t.storeAll pas bytes) := by
  induction pas generalizing t bytes with
  | nil => exact h
  | cons pa pas ih =>
    cases bytes with
    | nil => exact h
    | cons b bytes => exact ih (h.storeByte _ _) bytes

end

/-! ## Results and accesses -/

/-- The next state of `r`, if it has one, is reached from `s` by updates. -/
def State.RunsTo (s : State) (r : Result) : Prop :=
  match r with
  | .next t => s.UpdatesTo t
  | .fault _ => True
  | .refused _ => True

/-- The state that the access leaves, to go on or for the entry of its exception, is reached from `s` by updates. -/
def State.AccessesTo {α : Type} (s : State) (a : Access α) : Prop :=
  match a with
  | .ok _ t => s.UpdatesTo t
  | .raises _ t => s.UpdatesTo t
  | .faults _ => True

section
variable {s t : State}

theorem State.RunsTo.after {r : Result} (h : s.UpdatesTo t) (k : t.RunsTo r) : s.RunsTo r :=
  match r, k with
  | .next _, k => h.trans k
  | .fault _, _ => trivial
  | .refused _, _ => trivial

theorem State.AccessesTo.after {α : Type} {a : Access α} (h : s.UpdatesTo t) (k : t.AccessesTo a) : s.AccessesTo a :=
  match a, k with
  | .ok _ _, k => h.trans k
  | .raises _ _, k => h.trans k
  | .faults _, _ => trivial

theorem State.RunsTo.ite {c : Prop} [Decidable c] {r q : Result} (h : s.RunsTo r) (k : s.RunsTo q) :
    s.RunsTo (if c then r else q) := by
  split
  · exact h
  · exact k

theorem State.UpdatesTo.done (h : s.UpdatesTo t) : s.RunsTo (done t) := h.setNia _

theorem State.UpdatesTo.raise (h : s.UpdatesTo t) (e : Exc) : s.RunsTo (raise e t) := h.enter e _

/-- The checks before an instruction end in an exception, in its effect, or in a fault. -/
theorem State.RunsTo.guarded {i : Instr} {k : Result} (h : s.RunsTo k) : s.RunsTo (guarded i s k) := by
  obtain ⟨e, -, hg⟩ | ⟨-, -, hg⟩ | ⟨-, -, hg⟩ := guarded_cases i s k <;> rw [hg]
  · exact (State.UpdatesTo.refl s).enter e _
  · exact h
  · trivial

theorem State.AccessesTo.bind {α β : Type} {a : Access α} {k : α → State → Access β} (h : s.AccessesTo a)
    (hk : ∀ v (t : State), t.AccessesTo (k v t)) : s.AccessesTo (a.bind k) :=
  match a, h with
  | .ok v t, h => .after h (hk v t)
  | .raises _ _, h => h
  | .faults _, _ => trivial

theorem State.AccessesTo.finish {α : Type} {a : Access α} {k : α → State → Result} (h : s.AccessesTo a)
    (hk : ∀ v (t : State), t.RunsTo (k v t)) : s.RunsTo (a.finish k) :=
  match a, h with
  | .ok v t, h => .after h (hk v t)
  | .raises e _, h => h.raise e
  | .faults _, _ => trivial

end

/-! ## Accesses -/

theorem translateData_accessesTo (s : State) (kind : AccessKind) (ea : Dword) : s.AccessesTo (translateData s kind ea) := by
  simp only [translateData]
  split
  · trivial
  · split
    · exact .refl s
    · split
      · exact (State.UpdatesTo.refl s).other rfl
      · exact .refl s

theorem checkBreak_accessesTo (s : State) (kind : AccessKind) (ea : Dword) : s.AccessesTo (checkBreak s kind ea) := by
  simp only [checkBreak]
  split
  · trivial
  · split <;> exact .refl s

theorem reach_accessesTo (s : State) (kind : AccessKind) (ea : Dword) : s.AccessesTo (reach s kind ea) :=
  (translateData_accessesTo s kind ea).bind fun _ t => (checkBreak_accessesTo t kind ea).bind fun _ u => .refl u

theorem reachEach_accessesTo (s : State) (kind : AccessKind) (ea : Dword) (n : Nat) :
    s.AccessesTo (reachEach s kind ea n) := by
  induction n generalizing s ea with
  | zero => exact .refl s
  | succ n ih => exact (reach_accessesTo s kind ea).bind fun _ t => (ih t _).bind fun _ u => .refl u

theorem reachUnit_accessesTo (s : State) (kind : AccessKind) (ea : Dword) (n : Nat) :
    s.AccessesTo (reachUnit s kind ea n) :=
  (reach_accessesTo s kind ea).bind fun _ t => .refl t

theorem reachScalar_accessesTo (s : State) (kind : AccessKind) (ea : Dword) (n : Nat) :
    s.AccessesTo (reachScalar s kind ea n) := by
  unfold reachScalar
  split
  · exact reachUnit_accessesTo s kind ea n
  · split
    · exact .refl s
    · exact reachEach_accessesTo s kind ea n

theorem readAt_accessesTo (pas : List Dword) (s : State) : s.AccessesTo (readAt pas s) := by
  unfold readAt
  split
  · exact .refl s
  · trivial

theorem loadBytes_accessesTo (s : State) (ea : Dword) (n : Nat) : s.AccessesTo (loadBytes s ea n) :=
  (reachScalar_accessesTo s .load ea n).bind readAt_accessesTo

theorem storeBytes_accessesTo (s : State) (ea : Dword) (bytes : List Byte) : s.AccessesTo (storeBytes s ea bytes) :=
  (reachScalar_accessesTo s .store ea _).bind fun pas t => (State.UpdatesTo.refl t).storeAll pas bytes

theorem loadUnit_accessesTo (s : State) (ea : Dword) (n : Nat) : s.AccessesTo ((reachUnit s .load ea n).bind readAt) :=
  (reachUnit_accessesTo s .load ea n).bind readAt_accessesTo

theorem loadWords_accessesTo (s : State) (r : BitVec 5) (ea : Dword) (n : Nat) : s.AccessesTo (loadWords s r ea n) := by
  induction n generalizing s r ea with
  | zero => exact .refl s
  | succ n ih => exact (loadUnit_accessesTo s ea 4).bind fun _ t => .after ((State.UpdatesTo.refl t).setGpr _ _) (ih _ _ _)

theorem storeWords_accessesTo (s : State) (r : BitVec 5) (ea : Dword) (n : Nat) : s.AccessesTo (storeWords s r ea n) := by
  induction n generalizing s r ea with
  | zero => exact .refl s
  | succ n ih =>
    exact (reachUnit_accessesTo s .store ea 4).bind fun _ t => .after ((State.UpdatesTo.refl t).storeAll _ _) (ih _ _ _)

theorem loadString_accessesTo (s : State) (rd : BitVec 5) (ea : Dword) (k n : Nat) :
    s.AccessesTo (loadString s rd ea k n) := by
  induction n generalizing s ea k with
  | zero => exact .refl s
  | succ n ih =>
    have cleared : s.UpdatesTo (if k % 4 = 0 then s.setGpr (stringReg rd k) 0 else s) :=
      .ite ((State.UpdatesTo.refl s).setGpr _ _) (.refl s)
    exact .after cleared ((loadUnit_accessesTo _ ea 1).bind fun _ t => .after ((State.UpdatesTo.refl t).setGpr _ _) (ih _ _ _))

theorem storeString_accessesTo (s : State) (rs : BitVec 5) (ea : Dword) (k n : Nat) :
    s.AccessesTo (storeString s rs ea k n) := by
  induction n generalizing s ea k with
  | zero => exact .refl s
  | succ n ih =>
    exact (reachUnit_accessesTo s .store ea 1).bind fun _ t => .after ((State.UpdatesTo.refl t).storeAll _ _) (ih _ _ _)

theorem reachExternal_accessesTo (s : State) (kind : AccessKind) (ea : Dword) : s.AccessesTo (reachExternal s kind ea) := by
  unfold reachExternal
  split_ifs
  · trivial
  · trivial
  · trivial
  · exact .refl s
  · exact .refl s
  · exact (translateData_accessesTo s kind ea).bind fun _ t => .refl t
  · exact (translateData_accessesTo s kind ea).bind fun _ t => (checkBreak_accessesTo t kind ea).bind fun _ u => .refl u

/-! ## Ends of instructions -/

section
variable {s t : State}

theorem State.UpdatesTo.drew (h : s.UpdatesTo t) : s.UpdatesTo t.drew := h.other rfl

theorem State.UpdatesTo.setCa (h : s.UpdatesTo t) (c : Bool) : s.UpdatesTo (t.setCa c) := h.other rfl

theorem State.UpdatesTo.setOv (h : s.UpdatesTo t) (v : Bool) : s.UpdatesTo (t.setOv v) := h.other rfl

theorem State.UpdatesTo.setCrField (h : s.UpdatesTo t) (f : BitVec 3) (v : BitVec 4) : s.UpdatesTo (t.setCrField f v) :=
  h.other rfl

theorem State.UpdatesTo.recordUndefined (h : s.UpdatesTo t) : s.UpdatesTo t.recordUndefined := h.other rfl

theorem State.UpdatesTo.setFpr (h : s.UpdatesTo t) (r : BitVec 5) (v : Dword) (single : Bool) :
    s.UpdatesTo (t.setFpr r v single) := h.other rfl

theorem State.UpdatesTo.setOvIf (h : s.UpdatesTo t) (oe v : Bool) : s.UpdatesTo (if oe then t.setOv v else t) :=
  .ite (h.setOv v) h

theorem State.UpdatesTo.recordIf (h : s.UpdatesTo t) (rc : Bool) (v : Dword) : s.UpdatesTo (t.recordIf rc v) :=
  .ite (h.setCrField 0 _) h

theorem State.UpdatesTo.recordWordIf (h : s.UpdatesTo t) (rc : Bool) (w : Word) : s.UpdatesTo (t.recordWordIf rc w) :=
  .ite (.ite h.recordUndefined (h.setCrField 0 _)) h

theorem State.UpdatesTo.recordCr1If (h : s.UpdatesTo t) (rc : Bool) : s.UpdatesTo (t.recordCr1If rc) :=
  .ite (h.setCrField 1 _) h

end

section
variable (s : State)

/-- An instruction that writes one register and completes. -/
theorem setGpr_runsTo (r : BitVec 5) (v : Dword) : s.RunsTo (done (s.setGpr r v)) := (State.UpdatesTo.setGpr (.refl s) r v).done

/-- An instruction that completes with nothing of the core changed but the pc. -/
theorem other_runsTo {t : State} (h : s.SameCore t) : s.RunsTo (done t) := (State.UpdatesTo.other (.refl s) h).done

theorem done_runsTo : s.RunsTo (done s) := (State.UpdatesTo.refl s).done

theorem raise_runsTo (e : Exc) : s.RunsTo (raise e s) := (State.UpdatesTo.refl s).raise e

theorem finishAdd_runsTo (rd : BitVec 5) (carries oe rc : Bool) (r : AddResult) : s.RunsTo (finishAdd rd carries oe rc r s) := by
  have sum : s.UpdatesTo (s.setGpr rd r.sum) := .setGpr (.refl s) rd r.sum
  have carry : s.UpdatesTo (if carries then (s.setGpr rd r.sum).setCa r.ca else s.setGpr rd r.sum) :=
    .ite (sum.setCa _) sum
  exact ((carry.setOvIf oe r.ov).recordIf rc r.sum).done

theorem finishResult_runsTo (rd : BitVec 5) (oe rc ov : Bool) (v : Dword) : s.RunsTo (finishResult rd oe rc ov v s) :=
  (((State.UpdatesTo.setGpr (.refl s) rd v).setOvIf oe ov).recordIf rc v).done

theorem setGprWord_updatesTo (rd : BitVec 5) (w : Word) : s.UpdatesTo (s.setGprWord rd w) :=
  .ite (State.UpdatesTo.setGpr (.refl s) rd _).drew (.setGpr (.refl s) rd _)

theorem finishWord_runsTo (rd : BitVec 5) (oe rc ov : Bool) (w : Word) : s.RunsTo (finishWord rd oe rc ov w s) :=
  (((setGprWord_updatesTo s rd w).setOvIf oe ov).recordWordIf rc w).done

theorem finishBadDivide_runsTo (rd : BitVec 5) (oe rc : Bool) : s.RunsTo (finishBadDivide rd oe rc s) := by
  have drawn : s.UpdatesTo (s.setGpr rd (s.draw 64)).drew := .drew (.setGpr (.refl s) rd _)
  have flags := drawn.setOvIf oe true
  exact (State.UpdatesTo.ite flags.recordUndefined flags).done

theorem finishLogical_runsTo (ra : BitVec 5) (rc : Bool) (v : Dword) : s.RunsTo (finishLogical ra rc v s) :=
  ((State.UpdatesTo.setGpr (.refl s) ra v).recordIf rc v).done

theorem finishRotateWord_runsTo (ra : BitVec 5) (rc : Bool) (mb me : BitVec 5) (h l : Word) :
    s.RunsTo (finishRotateWord ra rc mb me h l s) :=
  .ite (.after (.drew (.refl s)) (finishLogical_runsTo s.drew ra rc _)) (finishLogical_runsTo s ra rc _)

theorem finishAlgebraic_runsTo (ra : BitVec 5) (rc sign lost : Bool) (r m : Dword) :
    s.RunsTo (finishAlgebraic ra rc sign lost r m s) :=
  (((State.UpdatesTo.setGpr (.refl s) ra _).setCa _).recordIf rc _).done

/-- The link register, then the marks and the pc. -/
theorem finishBranch_runsTo (taken : Bool) (target : Dword) (lk : Bool) : s.RunsTo (finishBranch taken target lk s) := by
  have linked : s.UpdatesTo (s.link lk) := .ite (.setLr (.refl s) _) (.refl s)
  exact (linked.other (State.noteTarget_sameCore _ _)).setNia _

theorem branchConditional_runsTo (bo bi : BitVec 5) (target : Dword) (lk : Bool) :
    s.RunsTo (branchConditional bo bi target lk s) := by
  have decremented : s.UpdatesTo (s.decrementCtr bo) := .ite (.refl s) (.setCtr (.refl s) _)
  exact .after (decremented.other (State.noteCounter_sameCore _ bo bi)) (finishBranch_runsTo _ _ _ _)

theorem trapIf_runsTo (c : Bool) : s.RunsTo (trapIf c s) := .ite (raise_runsTo s _) (done_runsTo s)

/-- The MSR and the pc, then the marks and what is pending: the marks of the change do not bear on the pc. -/
theorem finishMsr_runsTo (v : Dword) : s.RunsTo (finishMsr v s) := by
  have advanced : s.UpdatesTo s.advance := .setNia (.refl s) _
  have marked : ((s.advance.setMsr v).setNia (((s.advance.setMsr v).markMsr s).nia)).SameCore
      (((s.advance.setMsr v).markMsr s).setNia (((s.advance.setMsr v).markMsr s).nia)) := by
    rw [(s.advance.setMsr v).markMsr_frame s]; rfl
  exact ((advanced.setMsr v _).other marked).other (State.notePendingFp_sameCore _ _)

/-- Context synchronization comes between the MSR and the pc, and bears on neither. -/
theorem returnFrom_runsTo (bits : Dword) : s.RunsTo (returnFrom bits s) := by
  have restored : s.UpdatesTo ((s.setMsr (returnMsr bits s.srr1 s.msr)).setNia s.srr0) := .setMsr (.refl s) _ _
  have synced : s.UpdatesTo ((s.setMsr (returnMsr bits s.srr1 s.msr)).contextSync.setNia s.srr0) := restored.other rfl
  exact synced.other (State.notePendingFp_sameCore _ _)

/-! ### Floating point -/

theorem endEnabled_runsTo (enabled : Bool) : s.RunsTo (endEnabled enabled s) := .ite (raise_runsTo s _) (done_runsTo s)

theorem fpUpdate_updatesTo (frd : BitVec 5) (single rc : Bool) (out : FpOut) : s.UpdatesTo (fpUpdate frd single rc out s) := by
  have result : s.UpdatesTo (s.setResult frd out.value single) := by
    unfold State.setResult
    split
    · exact .refl s
    · exact .setFpr (.refl s) _ _ _
  exact (result.setFpscr _).recordCr1If rc

theorem fpFinish_runsTo (frd : BitVec 5) (single rc : Bool) (out : FpOut) : s.RunsTo (fpFinish frd single rc out s) :=
  .after (fpUpdate_updatesTo s frd single rc out) (endEnabled_runsTo _ _)

theorem convertFinish_runsTo (frd : BitVec 5) (single rc : Bool) (out : FpOut) :
    s.RunsTo (convertFinish frd single rc out s) :=
  .after (fpUpdate_updatesTo s frd single rc out) (endEnabled_runsTo _ _)

theorem runDouble_runsTo (frd : BitVec 5) (rc : Bool) (affected : Word) (op : FpOp) (x : FpOperands)
    (out : Word → Dword → FpOut) : s.RunsTo (runDouble frd rc affected op x out s) :=
  .after (.drew (.refl s)) (fpFinish_runsTo s.drew _ _ _ _)

theorem runSingle_runsTo (frd : BitVec 5) (rc : Bool) (used : List Dword) (affected : Word) (op : FpOp) (x : FpOperands)
    (out : Word → Dword → FpOut) : s.RunsTo (runSingle frd rc used affected op x out s) := by
  have drawn : s.UpdatesTo s.drew.drew := (State.UpdatesTo.drew (.refl s)).drew
  exact .ite (.after drawn (fpFinish_runsTo _ _ _ _ _)) (.after drawn (fpFinish_runsTo _ _ _ _ _))

theorem convertWord_runsTo (frd frb : BitVec 5) (rc : Bool) (kind : FpKind) (mode : Word → RoundMode) :
    s.RunsTo (convertWord frd frb rc kind mode s) :=
  .after (State.UpdatesTo.drew (.refl s)).drew (convertFinish_runsTo s.drew.drew _ _ _ _)

theorem convertDword_runsTo (frd frb : BitVec 5) (rc : Bool) (kind : FpKind) (mode : Word → RoundMode) :
    s.RunsTo (convertDword frd frb rc kind mode s) :=
  .after (.drew (.refl s)) (convertFinish_runsTo s.drew _ _ _ _)

theorem moveFpr_runsTo (frd frb : BitVec 5) (rc : Bool) (v : Dword) : s.RunsTo (moveFpr frd frb rc v s) :=
  ((State.UpdatesTo.setFpr (.refl s) frd v _).recordCr1If rc).done

theorem endCompare_runsTo (crfd : BitVec 3) (c : BitVec 4) (raised : Word) : s.RunsTo (endCompare crfd c raised s) :=
  .after ((State.UpdatesTo.setCrField (.refl s) crfd c).setFpscr _) (endEnabled_runsTo _ _)

theorem endFpscr_runsTo (rc : Bool) (f : Word) : s.RunsTo (endFpscr rc f s) :=
  .after ((State.UpdatesTo.setFpscr (.refl s) f).recordCr1If rc) (endEnabled_runsTo _ _)

/-! ### Storage -/

theorem loadGpr_runsTo (rd : BitVec 5) (ea : Dword) (n : Nat) (extend : List Byte → Dword) :
    s.RunsTo (loadGpr rd ea n extend s) :=
  (loadBytes_accessesTo s ea n).finish fun _ t => setGpr_runsTo t rd _

theorem loadGprUpdate_runsTo (rd ra : BitVec 5) (sum : Dword) (n : Nat) (extend : List Byte → Dword) :
    s.RunsTo (loadGprUpdate rd ra sum n extend s) :=
  (loadBytes_accessesTo s _ n).finish fun _ t => ((State.UpdatesTo.setGpr (.refl t) rd _).setGpr ra sum).done

theorem storeValue_runsTo (ea : Dword) (bytes : List Byte) : s.RunsTo (storeValue ea bytes s) :=
  (storeBytes_accessesTo s ea bytes).finish fun _ t => done_runsTo t

theorem storeValueUpdate_runsTo (ra : BitVec 5) (sum : Dword) (bytes : List Byte) :
    s.RunsTo (storeValueUpdate ra sum bytes s) :=
  (storeBytes_accessesTo s _ bytes).finish fun _ t => setGpr_runsTo t ra sum

theorem loadFpr_runsTo (frd : BitVec 5) (ea : Dword) (n : Nat) (single : Bool) (convert : List Byte → Dword) :
    s.RunsTo (loadFpr frd ea n single convert s) :=
  (loadBytes_accessesTo s ea n).finish fun _ t => (State.UpdatesTo.setFpr (.refl t) frd _ single).done

theorem loadFprUpdate_runsTo (frd ra : BitVec 5) (sum : Dword) (n : Nat) (single : Bool) (convert : List Byte → Dword) :
    s.RunsTo (loadFprUpdate frd ra sum n single convert s) :=
  (loadBytes_accessesTo s _ n).finish fun _ t => ((State.UpdatesTo.setFpr (.refl t) frd _ single).setGpr ra sum).done

theorem formSingle_updatesTo (frs : BitVec 5) : s.UpdatesTo (s.formSingle frs) := .ite (.drew (.refl s)) (.refl s)

theorem formInteger_updatesTo (frs : BitVec 5) : s.UpdatesTo (s.formInteger frs) := .ite (.drew (.refl s)) (.refl s)

theorem finishMoves_runsTo {a : Access Unit} (h : s.AccessesTo a) : s.RunsTo (finishMoves a) :=
  h.finish fun _ t => done_runsTo t

theorem setReserve_updatesTo (pa : Dword) : s.UpdatesTo (s.setReserve pa) := .other (.refl s) rfl

theorem loadReserve_runsTo (rd : BitVec 5) (ea : Dword) (n : Nat) : s.RunsTo (loadReserve rd ea n s) :=
  .ite
    ((reach_accessesTo s .load ea).finish fun pa t => (readAt_accessesTo _ t).finish fun _ u =>
      ((setReserve_updatesTo u pa.1).setGpr rd _).done)
    (raise_runsTo s _)

theorem finishConditional_runsTo (stored : Bool) (pa : Dword) (bytes : List Byte) :
    s.RunsTo (finishConditional stored pa bytes s) := by
  have written : s.UpdatesTo (if stored then s.storeAll (bytesFrom pa bytes.length) bytes else s) :=
    .ite (.storeAll (.refl s) _ _) (.refl s)
  have unreserved : s.UpdatesTo (State.clearReserve (State.recordStored _ stored)) :=
    (written.setCrField 0 (fourBits false false stored _)).other rfl
  exact unreserved.done

/-- It stores, stores or not by a draw, or does not store. -/
theorem storeConditional_runsTo (ea : Dword) (bytes : List Byte) : s.RunsTo (storeConditional ea bytes s) :=
  .ite
    ((reach_accessesTo s .store ea).finish fun pa t =>
      .ite (.ite (finishConditional_runsTo t true pa.1 bytes)
          (.after (.drew (.refl t)) (finishConditional_runsTo t.drew _ pa.1 bytes)))
        (finishConditional_runsTo t false pa.1 bytes))
    (raise_runsTo s _)

theorem touchBlock_runsTo (ea : Dword) : s.RunsTo (touchBlock ea s) :=
  (reach_accessesTo s .load ea).finish fun _ t => done_runsTo t

theorem undefineBlock_updatesTo (pa : Dword) : s.UpdatesTo (s.undefineBlock pa) :=
  .other (.storeAll (.refl s) (s.blockAddresses pa) (s.drawnBytes s.blockBytes)) rfl

/-! ### Segments -/

theorem moveFromSegment_runsTo (rd : BitVec 5) (n : BitVec 4) : s.RunsTo (moveFromSegment rd n s) :=
  .ite (setGpr_runsTo s rd _) (.ite (setGpr_runsTo s rd _) (State.UpdatesTo.setGpr (.refl s) rd _).drew.done)

theorem moveToSegment_runsTo (n : BitVec 4) (vsidHigh : BitVec 25) (v : Dword) :
    s.RunsTo (moveToSegment n vsidHigh v s) := by
  have register : s.UpdatesTo (s.setSr n (low v)) := .other (.refl s) rfl
  have entry (e : SlbEntry) : s.UpdatesTo (s.setSlb n e) := .other (.refl s) rfl
  exact .ite (register.other (State.markEntry_sameCore _ s n)).done ((entry _).other (State.markEntry_sameCore _ s n)).done

/-! ### Instructions that share no operation with another -/

theorem execLswx_runsTo (rd ra rb : BitVec 5) : s.RunsTo (execLswx rd ra rb s) :=
  .guarded (.ite (State.UpdatesTo.setGpr (.refl s) rd _).drew.done
    (.ite trivial (finishMoves_runsTo s (loadString_accessesTo s rd _ 0 _))))

theorem execFselx_runsTo (frd fra frb frc : BitVec 5) (rc : Bool) : s.RunsTo (execFselx frd fra frb frc rc s) :=
  .guarded ((State.UpdatesTo.setFpr (.refl s) frd _ false).recordCr1If rc).done

theorem execFrspx_runsTo (frd frb : BitVec 5) (rc : Bool) : s.RunsTo (execFrspx frd frb rc s) :=
  .guarded (.after (.drew (.refl s)) (convertFinish_runsTo s.drew _ _ _ _))

theorem execMffsx_runsTo (frd : BitVec 5) (rc : Bool) : s.RunsTo (execMffsx frd rc s) :=
  .guarded (((State.UpdatesTo.drew (.refl s)).setFpr frd _ false).recordCr1If rc).done

theorem execMcrfs_runsTo (crfd crfs : BitVec 3) : s.RunsTo (execMcrfs crfd crfs s) :=
  .guarded (.after (.setCrField (.refl s) crfd _) (endFpscr_runsTo _ false _))

theorem execDcbi_runsTo (ra rb : BitVec 5) : s.RunsTo (execDcbi ra rb s) :=
  .guarded ((reach_accessesTo s .store _).finish fun pa t => (undefineBlock_updatesTo t pa.1).done)

/-- A failed translation ends `dcba` like one that goes through, with no exception. -/
theorem execDcba_runsTo (ra rb : BitVec 5) : s.RunsTo (execDcba ra rb s) := by
  refine .guarded ?_
  have access := translateData_accessesTo s .store (eaX s ra rb)
  cases h : translateData s .store (eaX s ra rb) with
  | ok pa t =>
    rw [h] at access
    exact .ite (State.UpdatesTo.done access) (.after access (undefineBlock_updatesTo t pa.1).done)
  | raises e t =>
    rw [h] at access
    exact State.UpdatesTo.done access
  | faults f => trivial

theorem execDcbz_runsTo (ra rb : BitVec 5) : s.RunsTo (execDcbz ra rb s) :=
  (translateData_accessesTo s .store _).finish fun _ t => .ite (raise_runsTo t _)
    ((checkBreak_accessesTo t .store _).finish fun _ u => State.UpdatesTo.done (.storeAll (.refl u) _ _))

theorem execIcbi_runsTo (ra rb : BitVec 5) : s.RunsTo (execIcbi ra rb s) :=
  (reach_accessesTo s .load _).finish fun _ t => other_runsTo t rfl

theorem execEciwx_runsTo (rd ra rb : BitVec 5) : s.RunsTo (execEciwx rd ra rb s) :=
  .guarded ((reachExternal_accessesTo s .load _).finish fun _ t => (State.UpdatesTo.setGpr (.refl t) rd _).drew.done)

theorem execEcowx_runsTo (rs ra rb : BitVec 5) : s.RunsTo (execEcowx rs ra rb s) :=
  .guarded ((reachExternal_accessesTo s .store _).finish fun _ t => other_runsTo t rfl)

end

/-! ## Instructions and steps -/

/-- Every instruction is a chain of updates. -/
theorem exec_runsTo (i : Instr) (s : State) : s.RunsTo (exec i s) := by
  cases i with unfold exec
  | addx | addcx | addex | addic | addicDot | addmex | addzex | subfx | subfcx | subfex | subfic | subfmex | subfzex |
  negx => exact finishAdd_runsTo ..
  | addi | addis | mulli | mfcr => exact setGpr_runsTo ..
  | mullwx => exact finishResult_runsTo ..
  | mulhwx | mulhwux => exact finishWord_runsTo ..
  | mulldx | mulhdx | mulhdux => exact .guarded (finishResult_runsTo ..)
  | divwx | divwux => exact .ite (finishBadDivide_runsTo ..) (finishWord_runsTo ..)
  | divdx | divdux => exact .guarded (.ite (finishBadDivide_runsTo ..) (finishResult_runsTo ..))
  | cmpi | cmp | cmpli | cmpl | slbia | slbie | tlbia | tlbie => exact .guarded (other_runsTo s rfl)
  | andiDot | andisDot | ori | oris | xori | xoris | andx | orx | xorx | nandx | norx | eqvx | andcx | orcx | extsbx |
  extshx | cntlzwx | slwx | srwx => exact finishLogical_runsTo ..
  | extswx | cntlzdx | rldiclx | rldicrx | rldicx | rldimix | rldclx | rldcrx | sldx | srdx =>
    exact .guarded (finishLogical_runsTo ..)
  | rlwinmx | rlwnmx | rlwimix => exact finishRotateWord_runsTo ..
  | srawx | srawix => exact finishAlgebraic_runsTo ..
  | sradx | sradix => exact .guarded (finishAlgebraic_runsTo ..)
  | faddx | fsubx | fmulx | fdivx | fsqrtx | frsqrtex | fmaddx | fmsubx | fnmaddx | fnmsubx =>
    exact .guarded (runDouble_runsTo ..)
  | faddsx | fsubsx | fmulsx | fdivsx | fsqrtsx | fresx | fmaddsx | fmsubsx | fnmaddsx | fnmsubsx =>
    exact .guarded (runSingle_runsTo ..)
  | fselx => exact execFselx_runsTo ..
  | fmrx | fnegx | fabsx | fnabsx => exact .guarded (moveFpr_runsTo ..)
  | frspx => exact execFrspx_runsTo ..
  | fctiwx | fctiwzx => exact .guarded (convertWord_runsTo ..)
  | fctidx | fctidzx => exact .guarded (convertDword_runsTo ..)
  | fcfidx => exact .guarded (convertFinish_runsTo ..)
  | fcmpu | fcmpo => exact .guarded (endCompare_runsTo ..)
  | mffsx => exact execMffsx_runsTo ..
  | mcrfs => exact execMcrfs_runsTo ..
  | mtfsfx | mtfsfix | mtfsb0x | mtfsb1x => exact .guarded (endFpscr_runsTo ..)
  | lbz | lbzx | lhz | lhzx | lha | lhax | lwz | lwzx | lhbrx | lwbrx => exact loadGpr_runsTo ..
  | lbzu | lbzux | lhzu | lhzux | lhau | lhaux | lwzu | lwzux | lwaux | ldu | ldux =>
    exact .guarded (loadGprUpdate_runsTo ..)
  | lwa | lwax | ld | ldx => exact .guarded (loadGpr_runsTo ..)
  | stb | stbx | sth | sthx | stw | stwx | sthbrx | stwbrx => exact storeValue_runsTo ..
  | stbu | stbux | sthu | sthux | stwu | stwux | stdu | stdux | stfdu | stfdux => exact .guarded (storeValueUpdate_runsTo ..)
  | std | stdx | stfd | stfdx => exact .guarded (storeValue_runsTo ..)
  | lmw => exact .guarded (.ite (finishMoves_runsTo s (loadWords_accessesTo ..)) (raise_runsTo ..))
  | stmw => exact .ite (finishMoves_runsTo s (storeWords_accessesTo ..)) (raise_runsTo ..)
  | lswi => exact .guarded (finishMoves_runsTo s (loadString_accessesTo ..))
  | lswx => exact execLswx_runsTo ..
  | stswi | stswx => exact finishMoves_runsTo s (storeString_accessesTo ..)
  | lfs | lfsx | lfd | lfdx => exact .guarded (loadFpr_runsTo ..)
  | lfsu | lfsux | lfdu | lfdux => exact .guarded (loadFprUpdate_runsTo ..)
  | stfs | stfsx => exact .guarded (.after (formSingle_updatesTo ..) (storeValue_runsTo ..))
  | stfsu | stfsux => exact .guarded (.after (formSingle_updatesTo ..) (storeValueUpdate_runsTo ..))
  | stfiwx => exact .guarded (.after (formInteger_updatesTo ..) (storeValue_runsTo ..))
  | bx => exact finishBranch_runsTo ..
  | bcx | bclrx => exact branchConditional_runsTo ..
  | bcctrx => exact .guarded (finishBranch_runsTo ..)
  | crand | cror | crxor | crnand | crnor | creqv | crandc | crorc | mcrf | mtcrf | mcrxr | sync | isync =>
    exact other_runsTo s rfl
  | sc => exact State.UpdatesTo.enter (.refl s) _ _
  | rfi | rfid => exact .guarded (returnFrom_runsTo ..)
  | tw | twi => exact trapIf_runsTo ..
  | td | tdi => exact .guarded (trapIf_runsTo ..)
  | mfmsr | mfspr | mftb => exact .guarded (setGpr_runsTo ..)
  | mtmsr | mtmsrd => exact .guarded (finishMsr_runsTo ..)
  | mtspr => exact .guarded (State.UpdatesTo.done (.writeSpr (.refl s) _ _))
  | eieio | dcbt | dcbtst => exact done_runsTo s
  | lwarx => exact loadReserve_runsTo ..
  | ldarx => exact .guarded (loadReserve_runsTo ..)
  | stwcxDot => exact storeConditional_runsTo ..
  | stdcxDot => exact .guarded (storeConditional_runsTo ..)
  | dcbst | dcbf => exact touchBlock_runsTo ..
  | dcbi => exact execDcbi_runsTo ..
  | dcba => exact execDcba_runsTo ..
  | dcbz => exact execDcbz_runsTo ..
  | icbi => exact execIcbi_runsTo ..
  | eciwx => exact execEciwx_runsTo ..
  | ecowx => exact execEcowx_runsTo ..
  | mfsr | mfsrin => exact .guarded (moveFromSegment_runsTo ..)
  | mtsr | mtsrin | mtsrd | mtsrdin => exact .guarded (moveToSegment_runsTo ..)
  | tlbsync => exact .guarded (done_runsTo s)

theorem otherStores_updatesTo (s : State) (cells : List Host.Cell) : s.UpdatesTo (s.otherStores cells) := by
  induction cells generalizing s with
  | nil => exact .refl s
  | cons c cells ih =>
    have stored : s.UpdatesTo (s.storeByte (BitVec.ofNat 64 c.1).toNat c.2) := .storeByte (.refl s) _ _
    have one : s.UpdatesTo (s.otherStore c) := .ite (stored.other rfl) stored
    exact one.trans (ih _)

/-- What the outside world does at a boundary is a chain of updates. -/
theorem environment_updatesTo (s : State) : s.UpdatesTo s.environment := by
  unfold State.environment
  split
  · exact .refl s
  · next b rest _ =>
    have ticked : s.UpdatesTo (State.tick { s with env := rest } b.ticks) := .other (.refl s) rfl
    have stored := ticked.trans (otherStores_updatesTo _ b.stores)
    exact stored.other rfl

/-- So is the exception that a boundary takes. -/
theorem recognise_runsTo {s : State} {r : Result} (h : recognise s = some r) : s.RunsTo r := by
  have dropped {t : State} (same : s.SameCore t) (e : Exc) : s.RunsTo (raise e t) :=
    (State.UpdatesTo.other (.refl s) same).raise e
  unfold recognise at h
  split_ifs at h <;> cases h
  · exact dropped (t := { s with resetPending := false }) rfl _
  · exact dropped (t := { s with mcheckPending := false }) rfl _
  · trivial
  · exact raise_runsTo s _
  · exact raise_runsTo s _
  · exact dropped (t := { s with decPending := false }) rfl _
  · exact raise_runsTo s _

theorem afterInstr_runsTo {s : State} {r : Result} (i : Instr) (h : s.RunsTo r) : s.RunsTo (afterInstr i s r) := by
  cases r with
  | next t => exact (State.UpdatesTo.other h (State.noteWrap_sameCore t s i)).other (State.noteTrace_sameCore _ i)
  | fault f => trivial
  | refused f => trivial

theorem runWord_runsTo (w : Word) (s : State) : s.RunsTo (runWord w s) := by
  unfold runWord
  split
  · exact afterInstr_runsTo _ (exec_runsTo _ s)
  · split
    · exact raise_runsTo s _
    · trivial
  · exact raise_runsTo s _

theorem readInstruction_accessesTo (pa : Dword) (s : State) : s.AccessesTo (readInstruction pa s) := by
  unfold readInstruction
  split
  · trivial
  · split
    · exact .refl s
    · trivial

theorem fetch_accessesTo (s : State) : s.AccessesTo (fetch s) := by
  simp only [fetch]
  split
  · trivial
  · split
    · exact .refl s
    · have filled : s.UpdatesTo (s.fill (fetchXlate s.mmuView s.pr s (s.ea32 s.nia))) := .other (.refl s) rfl
      exact .after filled (readInstruction_accessesTo _ _)

/-- Every step is a chain of updates: what a step can do, for every invariant to use. -/
theorem step_updatesTo {s t : State} (h : step s = .next t) : s.UpdatesTo t := by
  have runs : s.RunsTo (step s) := by
    unfold step
    refine .ite trivial (.ite trivial (.after (environment_updatesTo s) ?_))
    split
    · exact recognise_runsTo ‹_›
    · exact (fetch_accessesTo _).finish runWord_runsTo
  rw [h] at runs
  exact runs

/-! ## The width of registers (O13) -/

/-- Bits 0 to 31 of a zero-extended word are 0. -/
theorem high_zext (x : Word) : high (zext x) = 0 := by
  apply BitVec.eq_of_toNat_eq
  have := x.isLt
  simp only [high, zext, BitVec.extractLsb'_toNat, BitVec.toNat_setWidth, Nat.shiftRight_eq_div_pow]
  change x.toNat % 2 ^ 64 / 2 ^ 32 % 2 ^ 32 = 0
  omega

/-- A value as a register of width XLEN holds it has that width. -/
theorem State.fits_norm (s : State) (v : Dword) : s.fits (s.norm v) := by
  cases h : s.cfg.impl64 with
  | true => exact .inl h
  | false => exact .inr (by simp only [State.norm, h, Bool.false_eq_true, if_false, high_zext])

/-- So has an instruction address, whatever bits of it are cleared. -/
theorem State.fits_ea32_and (s : State) (v m : Dword) : s.fits (s.ea32 v &&& m) := by
  cases h : s.cfg.impl64 with
  | true => exact .inl h
  | false =>
    have cut : s.ea32 v = zext (low v) := by simp [State.ea32, State.mode64, h]
    have high_and : high (zext (low v) &&& m) = high (zext (low v)) &&& high m := BitVec.extractLsb'_and
    exact .inr (by simp [cut, high_and, high_zext])

/-- A file of registers keeps its width when such a value is written to one of them. -/
theorem State.fits_get_set {s : State} {n : Nat} {file : Vector Dword n} (h : ∀ k, s.fits (file.get k)) (i : Nat) (hi : i < n)
    (v : Dword) (k : Fin n) : s.fits ((file.set i (s.norm v) hi).get k) := by
  rw [vector_get_set file ⟨i, hi⟩ k]
  split
  · exact s.fits_norm v
  · exact h k

/-- What O13 says of a step from `s` to `t`. -/
structure State.KeepsWidth (s t : State) : Prop where
  narrow : s.Narrow → t.Narrow
  cfg : t.cfg = s.cfg
  pvr : t.pvr = s.pvr

section
variable {s t u : State}

theorem State.KeepsWidth.refl (s : State) : s.KeepsWidth s := ⟨id, rfl, rfl⟩

theorem State.KeepsWidth.trans (h : s.KeepsWidth t) (k : t.KeepsWidth u) : s.KeepsWidth u :=
  ⟨fun n => k.narrow (h.narrow n), k.cfg.trans h.cfg, k.pvr.trans h.pvr⟩

theorem State.KeepsWidth.ite {c : Prop} [Decidable c] (h : s.KeepsWidth t) (k : s.KeepsWidth u) :
    s.KeepsWidth (if c then t else u) := by
  split
  · exact h
  · exact k

theorem State.SameCore.keepsWidth (h : s.SameCore t) : s.KeepsWidth t := by
  rw [h]
  exact ⟨fun n => { n with }, rfl, rfl⟩

end

theorem setGpr_keepsWidth (s : State) (r : BitVec 5) (v : Dword) : s.KeepsWidth (s.setGpr r v) := by
  refine ⟨fun n => { n with gpr := fun q => ?_ }, rfl, rfl⟩
  rw [State.setGpr_getGpr]
  split
  · exact s.fits_norm v
  · exact n.gpr q

/-- SPR by SPR, in the order of `writeSpr`. -/
theorem writeSpr_keepsWidth (s : State) (n : Nat) (v : Dword) : s.KeepsWidth (writeSpr s n v) := by
  unfold writeSpr
  -- XER, LR, CTR, DSISR, DAR, DEC
  refine .ite (State.SameCore.keepsWidth rfl) <| .ite ⟨fun h => { h with lr := s.fits_norm v }, rfl, rfl⟩ <|
    .ite ⟨fun h => { h with ctr := s.fits_norm v }, rfl, rfl⟩ <| .ite (State.SameCore.keepsWidth rfl) <|
    .ite ⟨fun h => { h with dar := s.fits_norm v }, rfl, rfl⟩ <| .ite (State.SameCore.keepsWidth rfl) <| ?_
  -- SDR1, SRR0, SRR1
  refine .ite ⟨fun h => { h with sdr1 := s.fits_norm v }, rfl, rfl⟩ <|
    .ite ⟨fun h => { h with srr0 := s.fits_norm v }, rfl, rfl⟩ <|
    .ite ⟨fun h => { h with srr1 := s.fits_norm v }, rfl, rfl⟩ <| ?_
  -- SPRG0 to SPRG3
  refine .ite ⟨fun h => { h with sprg := State.fits_get_set h.sprg 0 (by decide) v }, rfl, rfl⟩ <|
    .ite ⟨fun h => { h with sprg := State.fits_get_set h.sprg 1 (by decide) v }, rfl, rfl⟩ <|
    .ite ⟨fun h => { h with sprg := State.fits_get_set h.sprg 2 (by decide) v }, rfl, rfl⟩ <|
    .ite ⟨fun h => { h with sprg := State.fits_get_set h.sprg 3 (by decide) v }, rfl, rfl⟩ <| ?_
  -- ASR, EAR, TBL, TBU, DABR
  refine .ite ⟨fun h => { h with asr := s.fits_norm v }, rfl, rfl⟩ <| .ite (State.SameCore.keepsWidth rfl) <|
    .ite (State.SameCore.keepsWidth rfl) <| .ite (State.SameCore.keepsWidth rfl) <|
    .ite ⟨fun h => { h with dabr := s.fits_norm v }, rfl, rfl⟩ <| ?_
  -- the BATs
  split
  · exact ⟨fun h => { h with ibat := State.fits_get_set h.ibat _ (by omega) v }, rfl, rfl⟩
  · split
    · exact ⟨fun h => { h with dbat := State.fits_get_set h.dbat _ (by omega) v }, rfl, rfl⟩
    · exact .refl s

theorem enter_dar (e : Exc) (ret : Dword) (s : State) : (enter e ret s).dar = (s.recordFault e).dar := by
  simp only [enter, State.contextSync_dar]

/-- SRR0, SRR1 and the MSR are written at every entry, DAR by the exceptions that record an address. -/
theorem enter_keepsWidth (e : Exc) (ret : Dword) (s : State) : s.KeepsWidth (enter e ret s) := by
  have srr0 : s.fits (enter e ret s).srr0 := s.fits_ea32_and ret (~~~ 3)
  have srr1 : s.fits (enter e ret s).srr1 := s.fits_norm _
  have msr : s.fits (enter e ret s).msr := s.fits_norm _
  have dar (h : s.Narrow) : s.fits (enter e ret s).dar := by
    rw [enter_dar]
    cases e with
    | dsi ea | alignment ea => exact s.fits_norm ea
    | systemReset | machineCheck | isi | external | program | fpUnavailable | decrementer | systemCall | trace => exact h.dar
  rw [enter_frame]
  exact ⟨fun h => { h with srr0 := srr0, srr1 := srr1, msr := msr, dar := dar h }, rfl, rfl⟩

/-- Every kind of update keeps the width: what it writes to a register is cut to the width first. -/
theorem Update.keepsWidth {s t : State} (u : Update s t) : s.KeepsWidth t := by
  cases u with
  | setGpr _ r v => exact setGpr_keepsWidth s r v
  | setLr _ v => exact ⟨fun h => { h with lr := s.fits_norm v }, rfl, rfl⟩
  | setCtr _ v => exact ⟨fun h => { h with ctr := s.fits_norm v }, rfl, rfl⟩
  | setNia _ v => exact ⟨fun h => { h with }, rfl, rfl⟩
  | setMsr _ v w => exact ⟨fun h => { h with msr := s.fits_norm v }, rfl, rfl⟩
  | setFpscr _ f => exact ⟨fun h => { h with }, rfl, rfl⟩
  | writeSpr _ n v => exact writeSpr_keepsWidth s n v
  | storeByte _ pa b => exact ⟨fun h => { h with }, rfl, rfl⟩
  | enter e ret => exact enter_keepsWidth e ret s
  | other h => exact h.keepsWidth

/-- Settles O13: each kind of update keeps the width of registers, the parameters and PVR, and a step is a chain of updates. -/
theorem stepKeepsWidth : Obligations.StepKeepsWidth := by
  unfold Obligations.StepKeepsWidth
  intro s t h
  obtain ⟨narrow, cfg, pvr⟩ := (step_updatesTo h).lift State.KeepsWidth.refl State.KeepsWidth.trans Update.keepsWidth
  exact ⟨narrow, cfg, pvr⟩

end Sys2Proof.Machine
end

section
/-!
PROOFS. Memory, the pc and the FPSCR through a step (10_state R33, R45, R51): what each kind of update leaves of them, and the
three invariants that follow for every step.
-/

namespace Sys2Proof.Machine

/-- A property of states that every update keeps is kept by every step. -/
theorem step_keeps {P : State → Prop} (update : ∀ {s t : State}, Update s t → P s → P t) {s t : State} (h : step s = .next t) :
    P s → P t :=
  (step_updatesTo h).lift (R := fun s t => P s → P t) (fun _ => id) (fun h k p => k (h p)) update

/-! ## What most updates leave as it was -/

/-- `t` has the parameters, the pc, the MSR, the FPSCR and the memory of `s`. -/
structure State.SameControl (s t : State) : Prop where
  cfg : t.cfg = s.cfg
  nia : t.nia = s.nia
  msr : t.msr = s.msr
  fpscr : t.fpscr = s.fpscr
  mem : t.mem = s.mem

section
variable {s t : State}

theorem State.SameControl.mode64 (h : s.SameControl t) : t.mode64 = s.mode64 := by
  rw [State.mode64, State.mode64, State.sf, State.sf, h.cfg, h.msr]

theorem State.SameControl.refl (s : State) : s.SameControl s := ⟨rfl, rfl, rfl, rfl, rfl⟩

theorem State.SameControl.ite {c : Prop} [Decidable c] {u : State} (h : s.SameControl t) (k : s.SameControl u) :
    s.SameControl (if c then t else u) := by
  split
  · exact h
  · exact k

theorem State.SameCore.sameControl (h : s.SameCore t) : s.SameControl t := by
  rw [h]
  exact ⟨rfl, rfl, rfl, rfl, rfl⟩

end

/-- No SPR is the pc, the MSR or the FPSCR. -/
theorem writeSpr_sameControl (s : State) (n : Nat) (v : Dword) : s.SameControl (writeSpr s n v) := by
  unfold writeSpr
  -- XER to DABR, then the BATs
  iterate 18 refine .ite ⟨rfl, rfl, rfl, rfl, rfl⟩ ?_
  split
  · exact ⟨rfl, rfl, rfl, rfl, rfl⟩
  · split
    · exact ⟨rfl, rfl, rfl, rfl, rfl⟩
    · exact .refl s

/-! ## Memory (O10) -/

/-- An update writes at most one byte of memory. -/
theorem Update.mem_cases {s t : State} (u : Update s t) : t.mem = s.mem ∨ ∃ a b, t.mem = s.mem.write a b := by
  cases u with
  | storeByte _ pa b => exact .inr ⟨pa, b, rfl⟩
  | setGpr | setLr | setCtr | setNia | setMsr | setFpscr => exact .inl rfl
  | writeSpr _ n v => exact .inl (writeSpr_sameControl s n v).mem
  | enter e ret => exact .inl (enter_mem e ret s)
  | other h => exact .inl h.sameControl.mem

theorem Update.keeps_memory_wf {s t : State} (u : Update s t) (w : s.mem.wf = true) : t.mem.wf = true := by
  obtain same | ⟨a, b, written⟩ := u.mem_cases
  · rwa [same]
  · rw [written]
    exact Memory.write_wf s.mem a b w

/-- Settles O10: each kind of update writes at most one byte, in its place, and a step is a chain of updates. -/
theorem stepKeepsMemoryForm : Obligations.StepKeepsMemoryForm := by
  unfold Obligations.StepKeepsMemoryForm
  intro s t w h
  exact step_keeps (P := fun s => s.mem.wf = true) Update.keeps_memory_wf h w

/-! ## The pc (O11) -/

/-- Clearing the two low-order bits of an address aligns it. -/
theorem extractLsb'_and_not_three (x : Dword) : (x &&& ~~~ 3).extractLsb' 0 2 = 0 := by
  have mask : (~~~ 3 : Dword).extractLsb' 0 2 = 0 := by decide
  rw [BitVec.extractLsb'_and, mask]
  exact BitVec.and_zero

/-- Outside 64-bit mode an instruction address has its high half 0, whatever bits of it are cleared. -/
theorem State.high_ea32_and {s : State} (h : s.mode64 = false) (v m : Dword) : high (s.ea32 v &&& m) = 0 := by
  have cut : s.ea32 v = zext (low v) := by simp only [State.ea32, h, Bool.false_eq_true, if_false]
  have parts : high (zext (low v) &&& m) = high (zext (low v)) &&& high m := BitVec.extractLsb'_and
  rw [cut, parts, high_zext]
  exact BitVec.zero_and

/-- Every write of the pc aligns it and cuts it to the mode. -/
theorem State.setNia_pcAligned (s : State) (v : Dword) : (s.setNia v).PcAligned := by
  refine ⟨extractLsb'_and_not_three _, ?_⟩
  cases h : s.mode64 with
  | true => exact .inl h
  | false => exact .inr (State.high_ea32_and h v _)

/-- The vectors of 60 R601 are multiples of 4 below 2^32. -/
theorem vector_aligned (msr : Dword) (e : Exc) :
    (vectorBase msr + e.offset).extractLsb' 0 2 = 0 ∧ high (vectorBase msr + e.offset) = 0 := by
  have base : vectorBase msr = 0xFFF00000 ∨ vectorBase msr = 0 := by
    unfold vectorBase
    split
    · exact .inl rfl
    · exact .inr rfl
  obtain base | base := base <;> rw [base] <;> cases e <;> dsimp only [Exc.offset] <;> decide

theorem enter_pcAligned (e : Exc) (ret : Dword) (s : State) : (enter e ret s).PcAligned := by
  obtain ⟨aligned, narrow⟩ := vector_aligned (entryMsr s.cfg.impl64 e s.msr) e
  exact ⟨aligned, .inr narrow⟩

/-- An update leaves the pc and the mode, or leaves an aligned pc. -/
theorem Update.pc_cases {s t : State} (u : Update s t) : (t.nia = s.nia ∧ t.mode64 = s.mode64) ∨ t.PcAligned := by
  cases u with
  | setNia _ v => exact .inr (s.setNia_pcAligned v)
  | setMsr _ v w => exact .inr ((s.setMsr v).setNia_pcAligned w)
  | enter e ret => exact .inr (enter_pcAligned e ret s)
  | setGpr | setLr | setCtr | setFpscr | storeByte => exact .inl ⟨rfl, rfl⟩
  | writeSpr _ n v =>
    have same := writeSpr_sameControl s n v
    exact .inl ⟨same.nia, same.mode64⟩
  | other h => exact .inl ⟨h.sameControl.nia, h.sameControl.mode64⟩

theorem Update.keeps_pcAligned {s t : State} (u : Update s t) (p : s.PcAligned) : t.PcAligned := by
  obtain ⟨nia, mode⟩ | aligned := u.pc_cases
  · rw [State.PcAligned, nia, mode]
    exact p
  · exact aligned

/-- Settles O11: each kind of update leaves the pc and the mode or writes an aligned pc, and a step is a chain of updates. -/
theorem stepKeepsPcAligned : Obligations.StepKeepsPcAligned := by
  unfold Obligations.StepKeepsPcAligned
  intro s t p h
  exact step_keeps Update.keeps_pcAligned h p

/-! ## The summaries of the FPSCR (O12) -/

/-- An update leaves the FPSCR, or leaves its summaries recomputed. -/
theorem Update.fpscr_cases {s t : State} (u : Update s t) : t.fpscr = s.fpscr ∨ t.FpscrSummarised := by
  cases u with
  | setFpscr _ f => exact .inr (s.setFpscr_summarised f)
  | setGpr | setLr | setCtr | setNia | setMsr | storeByte => exact .inl rfl
  | writeSpr _ n v => exact .inl (writeSpr_sameControl s n v).fpscr
  | enter e ret => exact .inl (enter_fpscr e ret s)
  | other h => exact .inl h.sameControl.fpscr

theorem Update.keeps_fpscrSummarised {s t : State} (u : Update s t) (f : s.FpscrSummarised) : t.FpscrSummarised := by
  obtain same | summarised := u.fpscr_cases
  · rw [State.FpscrSummarised, same]
    exact f
  · exact summarised

/-- Settles O12: each kind of update leaves the FPSCR or recomputes its summaries, and a step is a chain of updates. -/
theorem stepKeepsFpscrSummary : Obligations.StepKeepsFpscrSummary := by
  unfold Obligations.StepKeepsFpscrSummary
  intro s t f h
  exact step_keeps Update.keeps_fpscrSummarised h f

end Sys2Proof.Machine
end

section
/-!
PROOFS. Misaligned scalar accesses (20_memory R92, R98; log 33). The statements about scalar loads and stores are put together
from one statement about the access (`LoadEffect`, `StoreEffect`). Here each form of load and store is shown to meet such a
statement whenever the shared operation does (`LoadsMeet`, `StoresMeet`), and misaligned accesses to be one that it does meet.
-/

namespace Sys2Proof.Machine

/-! ## The values of loaded and stored bytes -/

theorem bigEndian_lt (bytes : List Byte) : bigEndian bytes < 256 ^ bytes.length := by
  induction bytes with
  | nil => simp [bigEndian]
  | cons b rest ih =>
    have byte : b.toNat + 1 ≤ 256 := b.isLt
    calc bigEndian (b :: rest) < b.toNat * 256 ^ rest.length + 256 ^ rest.length := Nat.add_lt_add_left ih _
      _ = (b.toNat + 1) * 256 ^ rest.length := (Nat.succ_mul _ _).symm
      _ ≤ 256 * 256 ^ rest.length := Nat.mul_le_mul_right _ byte
      _ = 256 ^ (b :: rest).length := (Nat.pow_succ').symm

theorem unsignedValue_eq (bytes : List Byte) : unsignedValue bytes = zeroLoaded bytes := by
  rw [unsignedValue, bigEndian_eq]
  rfl

/-- The signed value of bytes that fill a word of `w` bits is that word sign-extended. -/
theorem signedValue_eq {w : Nat} (bytes : List Byte) (h : w = 8 * bytes.length) :
    signedValue bytes = (ofBytes w bytes).signExtend 64 := by
  have size : 2 ^ w = 256 ^ bytes.length := by rw [h, Nat.pow_mul]
  have value : (ofBytes w bytes).toNat = bigEndian bytes := by
    rw [ofBytes, ← bigEndian_eq, BitVec.toNat_ofNat, size, Nat.mod_eq_of_lt (bigEndian_lt bytes)]
  rw [signedValue, BitVec.signExtend, BitVec.toInt, value, size]
  norm_cast

/-- The model's conversion of `n` loaded bytes is the one that the statements name. -/
def ConvertsAs (n : Nat) (extend f : List Byte → Dword) : Prop := ∀ bytes, bytes.length = n → extend bytes = f bytes

theorem convertsAs_unsigned (n : Nat) : ConvertsAs n zeroLoaded unsignedValue :=
  fun bytes _ => (unsignedValue_eq bytes).symm

theorem convertsAs_reversed (n : Nat) : ConvertsAs n reverseLoaded (fun l => unsignedValue l.reverse) :=
  fun bytes _ => (unsignedValue_eq bytes.reverse).symm

theorem convertsAs_signHalf : ConvertsAs 2 signHalf signedValue :=
  fun bytes h => (signedValue_eq bytes (by rw [h])).symm

theorem convertsAs_signWord : ConvertsAs 4 signWord signedValue :=
  fun bytes h => (signedValue_eq bytes (by rw [h])).symm

theorem convertsAs_single : ConvertsAs 4 singleLoaded loadedSingle := by
  intro bytes _
  rw [loadedSingle, bigEndian_eq]
  rfl

/-- The bytes of a word are the low-order bytes of the register that holds it. -/
theorem lowBytes_zext (w : Word) : lowBytes 4 (zext w) = toBytes 4 w := by
  rw [lowBytes_eq]
  refine List.map_congr_left fun k _ => ?_
  exact BitVec.extractLsb'_setWidth_of_le (by omega)

/-- Only where SINGLE is undefined does it depend on the value drawn. -/
theorem toSingle_eq (u : Word) (d : Dword) : toSingle u d = if singleUndefined d = true then u else toSingle 0 d := by
  unfold toSingle
  split <;> rfl

/-! ## The checks before the forms -/

/-- A guarded instruction whose checks pass has its effect. -/
theorem exec_of_guarded {i : Instr} {s : State} {k : Result} (e : exec i s = guarded i s k) (p : preCheck i s = none)
    (f : i.wellFormed s.cfg.impl64 = true) : exec i s = k :=
  e.trans (guarded_ok p f)

section
variable {i : Instr} {s : State} {k : Result}

/-- A guarded instruction of every implementation has its effect. -/
theorem exec_user (e : exec i s = guarded i s k) (req : requirement i = ⟨.always, false, .user⟩)
    (f : i.wellFormed s.cfg.impl64 = true) : exec i s = k :=
  exec_of_guarded e (preCheck_user req) f

/-- So has one of 64-bit implementations, on such an implementation. -/
theorem exec_only64 (wide : s.cfg.impl64 = true) (e : exec i s = guarded i s k)
    (req : requirement i = ⟨.only64, false, .user⟩) (f : i.wellFormed s.cfg.impl64 = true) : exec i s = k :=
  exec_of_guarded e (preCheck_only64 req wide) f

/-- So has a floating-point one, with floating point available. -/
theorem exec_float (on : s.fpOn = true) (e : exec i s = guarded i s k) (req : requirement i = ⟨.always, true, .user⟩)
    (f : i.wellFormed s.cfg.impl64 = true) : exec i s = k :=
  exec_of_guarded e (preCheck_none (by rw [req]; rfl) (fun _ => on) (by rw [req]; rfl)) f

end

theorem updateLoadOk_of_ne {rd ra : BitVec 5} (nonzero : ra ≠ 0) (ne : ra ≠ rd) : updateLoadOk rd ra = true := by
  rw [updateLoadOk, Bool.and_eq_true, bne_iff_ne, bne_iff_ne]
  exact ⟨nonzero, ne⟩

theorem updateOk_of_ne {ra : BitVec 5} (nonzero : ra ≠ 0) : updateOk ra = true :=
  bne_iff_ne.mpr nonzero

/-! ## Loads -/

/-- What `put` makes of a state that an access of `s` leaves advances to the instruction after that of `s`. -/
def State.LoadAdvances (s : State) (put : List Byte → State → State) : Prop :=
  ∀ u bytes, u = { s with tlb := u.tlb, slb := u.slb } → (put bytes u).advance = { put bytes u with nia := s.nextPc }

/-- A load of the model that ends in `put'` meets the statement `E` for `put`, if the two agree on `n` bytes. -/
def LoadsMeet (E : LoadEffect) : Prop :=
  ∀ (s : State) (sum : Dword) (n : Nat) (put put' : List Byte → State → State),
    (∀ bytes u, bytes.length = n → put' bytes u = put bytes u) → s.LoadAdvances put' →
    E s ((loadBytes s (s.ea32 sum) n).finish (fun bytes t => done (put' bytes t))) sum n put

/-- The statement about a load looks at as many bytes as it has addresses. -/
theorem loadsFrom_congr {s u : State} {r : Result} {pas : List Dword} {put put' : List Byte → State → State}
    (agree : ∀ bytes u, bytes.length = pas.length → put' bytes u = put bytes u) (h : loadsFrom s r pas u put') :
    loadsFrom s r pas u put := by
  obtain ⟨completes, faults⟩ := h
  refine ⟨fun bytes reads => ?_, faults⟩
  have length : bytes.length = pas.length := by
    have same := congrArg List.length reads
    simpa only [List.length_map] using same.symm
  rw [← agree bytes u length]
  exact completes bytes reads

theorem loadsMisaligned_meets : LoadsMeet loadsMisaligned := by
  intro s sum n put put' agree advances misaligned
  obtain ⟨-, effect⟩ := loadBytes_effect s sum n put' advances
  obtain ⟨traps, performed⟩ := effect misaligned
  refine ⟨traps, fun policy => ?_⟩
  obtain ⟨stops, completes⟩ := performed policy
  refine ⟨stops, fun pas u length reached => ?_⟩
  exact loadsFrom_congr (fun bytes u h => agree bytes u (h.trans length)) (completes pas u length reached)

section
variable {E : LoadEffect} {i : Instr} {s : State} {sum : Dword} {n : Nat} {extend f : List Byte → Dword}

theorem loadEffect_of_exec {rd : BitVec 5} (hE : LoadsMeet E) (e : exec i s = loadGpr rd (s.ea32 sum) n extend s)
    (c : ConvertsAs n extend f) : loadEffect E s i rd sum n f := by
  rw [loadEffect, e]
  exact hE s sum n _ _ (fun bytes u h => by rw [c bytes h]) (fun u bytes h => by rw [h]; rfl)

theorem loadUpdateEffect_of_exec {rd ra : BitVec 5} (hE : LoadsMeet E) (e : exec i s = loadGprUpdate rd ra sum n extend s)
    (c : ConvertsAs n extend f) : loadUpdateEffect E s i rd ra sum n f := by
  rw [loadUpdateEffect, e]
  exact hE s sum n _ _ (fun bytes u h => by rw [c bytes h]) (fun u bytes h => by rw [h]; rfl)

theorem loadFloatEffect_of_exec {frd : BitVec 5} {single : Bool} (hE : LoadsMeet E)
    (e : exec i s = loadFpr frd (s.ea32 sum) n single extend s) (c : ConvertsAs n extend f) :
    loadFloatEffect E s i frd sum n single f := by
  rw [loadFloatEffect, e]
  exact hE s sum n _ _ (fun bytes u h => by rw [c bytes h]) (fun u bytes h => by rw [h]; rfl)

theorem loadFloatUpdateEffect_of_exec {frd ra : BitVec 5} {single : Bool} (hE : LoadsMeet E)
    (e : exec i s = loadFprUpdate frd ra sum n single extend s) (c : ConvertsAs n extend f) :
    loadFloatUpdateEffect E s i frd ra sum n single f := by
  rw [loadFloatUpdateEffect, e]
  exact hE s sum n _ _ (fun bytes u h => by rw [c bytes h]) (fun u bytes h => by rw [h]; rfl)

theorem plainLoads_of_meets (hE : LoadsMeet E) : plainLoads E := by
  intro s rd ra rb d ds
  refine ⟨loadEffect_of_exec hE rfl (convertsAs_unsigned 1), loadEffect_of_exec hE rfl (convertsAs_unsigned 1),
    loadEffect_of_exec hE rfl (convertsAs_unsigned 2), loadEffect_of_exec hE rfl (convertsAs_unsigned 2),
    loadEffect_of_exec hE rfl convertsAs_signHalf, loadEffect_of_exec hE rfl convertsAs_signHalf,
    loadEffect_of_exec hE rfl (convertsAs_unsigned 4), loadEffect_of_exec hE rfl (convertsAs_unsigned 4),
    loadEffect_of_exec hE rfl (convertsAs_reversed 2), loadEffect_of_exec hE rfl (convertsAs_reversed 4), fun wide => ?_⟩
  exact ⟨loadEffect_of_exec hE (exec_only64 wide rfl rfl rfl) convertsAs_signWord,
    loadEffect_of_exec hE (exec_only64 wide rfl rfl rfl) convertsAs_signWord,
    loadEffect_of_exec hE (exec_only64 wide rfl rfl rfl) (convertsAs_unsigned 8),
    loadEffect_of_exec hE (exec_only64 wide rfl rfl rfl) (convertsAs_unsigned 8)⟩

theorem updateLoads_of_meets (hE : LoadsMeet E) : updateLoads E := by
  intro s rd ra rb d ds nonzero ne
  have ok := updateLoadOk_of_ne nonzero ne
  refine ⟨loadUpdateEffect_of_exec hE (exec_user rfl rfl ok) (convertsAs_unsigned 1),
    loadUpdateEffect_of_exec hE (exec_user rfl rfl ok) (convertsAs_unsigned 1),
    loadUpdateEffect_of_exec hE (exec_user rfl rfl ok) (convertsAs_unsigned 2),
    loadUpdateEffect_of_exec hE (exec_user rfl rfl ok) (convertsAs_unsigned 2),
    loadUpdateEffect_of_exec hE (exec_user rfl rfl ok) convertsAs_signHalf,
    loadUpdateEffect_of_exec hE (exec_user rfl rfl ok) convertsAs_signHalf,
    loadUpdateEffect_of_exec hE (exec_user rfl rfl ok) (convertsAs_unsigned 4),
    loadUpdateEffect_of_exec hE (exec_user rfl rfl ok) (convertsAs_unsigned 4), fun wide => ?_⟩
  exact ⟨loadUpdateEffect_of_exec hE (exec_only64 wide rfl rfl ok) convertsAs_signWord,
    loadUpdateEffect_of_exec hE (exec_only64 wide rfl rfl ok) (convertsAs_unsigned 8),
    loadUpdateEffect_of_exec hE (exec_only64 wide rfl rfl ok) (convertsAs_unsigned 8)⟩

theorem floatLoads_of_meets (hE : LoadsMeet E) : floatLoads E := by
  intro s frd ra rb d on
  refine ⟨loadFloatEffect_of_exec hE (exec_float on rfl rfl rfl) convertsAs_single,
    loadFloatEffect_of_exec hE (exec_float on rfl rfl rfl) convertsAs_single,
    loadFloatEffect_of_exec hE (exec_float on rfl rfl rfl) (convertsAs_unsigned 8),
    loadFloatEffect_of_exec hE (exec_float on rfl rfl rfl) (convertsAs_unsigned 8), fun nonzero => ?_⟩
  have ok := updateOk_of_ne nonzero
  exact ⟨loadFloatUpdateEffect_of_exec hE (exec_float on rfl rfl ok) convertsAs_single,
    loadFloatUpdateEffect_of_exec hE (exec_float on rfl rfl ok) convertsAs_single,
    loadFloatUpdateEffect_of_exec hE (exec_float on rfl rfl ok) (convertsAs_unsigned 8),
    loadFloatUpdateEffect_of_exec hE (exec_float on rfl rfl ok) (convertsAs_unsigned 8)⟩

end

/-! ## Stores -/

/-- After a store, `upd` touches neither memory nor its marks, and leads to the instruction after that of `s`. -/
def State.StoreAdvances (s : State) (upd : State → State) : Prop :=
  ∀ u m l d, u = { s with tlb := u.tlb, slb := u.slb } →
    (upd { u with mem := m, staleInsn := l, icbiDone := d }).advance =
      { upd u with nia := s.nextPc, mem := m, staleInsn := l, icbiDone := d }

theorem State.storeAdvances_id (s : State) : s.StoreAdvances (fun u => u) := by
  intro u m l d h
  rw [h]
  rfl

theorem State.storeAdvances_setGpr (s : State) (ra : BitVec 5) (v : Dword) : s.StoreAdvances (fun u => u.setGpr ra v) := by
  intro u m l d h
  rw [h]
  rfl

/-- A store of the model meets the statement `E`. -/
def StoresMeet (E : StoreEffect) : Prop :=
  ∀ (s : State) (sum : Dword) (bytes : List Byte) (upd : State → State), s.StoreAdvances upd →
    E s ((storeBytes s (s.ea32 sum) bytes).finish (fun _ t => done (upd t))) sum bytes upd

theorem storesMisaligned_meets : StoresMeet storesMisaligned := by
  intro s sum bytes upd advances
  obtain ⟨-, effect⟩ := storeBytes_effect s sum bytes upd advances
  exact effect

section
variable {E : StoreEffect} {i : Instr} {s : State} {sum : Dword} {bytes bytes' : List Byte}

theorem storeEffect_of_exec (hE : StoresMeet E) (e : exec i s = storeValue (s.ea32 sum) bytes' s) (c : bytes = bytes') :
    storeEffect E s i sum bytes := by
  rw [storeEffect, e, c]
  exact hE s sum bytes' _ s.storeAdvances_id

theorem storeUpdateEffect_of_exec {ra : BitVec 5} (hE : StoresMeet E) (e : exec i s = storeValueUpdate ra sum bytes' s)
    (c : bytes = bytes') : storeUpdateEffect E s i ra sum bytes := by
  rw [storeUpdateEffect, e, c]
  exact hE s sum bytes' _ (s.storeAdvances_setGpr ra sum)

/-- A store of a word that is drawn where it is undefined. -/
theorem wordStored_of_exec {r : Result} {undefined : Bool} {w : Word} {upd : State → State} (hE : StoresMeet E)
    (advances : ∀ s : State, s.StoreAdvances upd)
    (e : r = (storeBytes (if undefined = true then s.drew else s) (s.ea32 sum)
      (toBytes 4 (if undefined = true then s.draw 32 else w))).finish (fun _ t => done (upd t))) :
    wordStored E s r sum undefined w upd := by
  subst e
  constructor
  · rintro rfl
    rw [lowBytes_zext]
    exact hE s sum (toBytes 4 w) upd (advances s)
  · rintro rfl
    refine ⟨s.draw 32, ?_⟩
    rw [lowBytes_zext]
    exact hE s.drew sum (toBytes 4 (s.draw 32)) upd (advances s.drew)

/-- A single store stores what it has drawn where the conversion is undefined. -/
theorem singleBytes_eq (s : State) (frs : BitVec 5) :
    singleBytes s frs =
      toBytes 4 (if singleUndefined (s.getFpr frs) = true then s.draw 32 else toSingle 0 (s.getFpr frs)) := by
  rw [singleBytes, toSingle_eq]

theorem plainStores_of_meets (hE : StoresMeet E) : plainStores E := by
  intro s rs ra rb d ds
  refine ⟨storeEffect_of_exec hE rfl (lowBytes_eq 1 _), storeEffect_of_exec hE rfl (lowBytes_eq 1 _),
    storeEffect_of_exec hE rfl (lowBytes_eq 2 _), storeEffect_of_exec hE rfl (lowBytes_eq 2 _),
    storeEffect_of_exec hE rfl (lowBytes_eq 4 _), storeEffect_of_exec hE rfl (lowBytes_eq 4 _),
    storeEffect_of_exec hE rfl (congrArg List.reverse (lowBytes_eq 2 _)),
    storeEffect_of_exec hE rfl (congrArg List.reverse (lowBytes_eq 4 _)), fun wide => ?_⟩
  exact ⟨storeEffect_of_exec hE (exec_only64 wide rfl rfl rfl) (lowBytes_eq 8 _),
    storeEffect_of_exec hE (exec_only64 wide rfl rfl rfl) (lowBytes_eq 8 _)⟩

theorem updateStores_of_meets (hE : StoresMeet E) : updateStores E := by
  intro s rs ra rb d ds nonzero
  have ok := updateOk_of_ne nonzero
  refine ⟨storeUpdateEffect_of_exec hE (exec_user rfl rfl ok) (lowBytes_eq 1 _),
    storeUpdateEffect_of_exec hE (exec_user rfl rfl ok) (lowBytes_eq 1 _),
    storeUpdateEffect_of_exec hE (exec_user rfl rfl ok) (lowBytes_eq 2 _),
    storeUpdateEffect_of_exec hE (exec_user rfl rfl ok) (lowBytes_eq 2 _),
    storeUpdateEffect_of_exec hE (exec_user rfl rfl ok) (lowBytes_eq 4 _),
    storeUpdateEffect_of_exec hE (exec_user rfl rfl ok) (lowBytes_eq 4 _), fun wide => ?_⟩
  exact ⟨storeUpdateEffect_of_exec hE (exec_only64 wide rfl rfl ok) (lowBytes_eq 8 _),
    storeUpdateEffect_of_exec hE (exec_only64 wide rfl rfl ok) (lowBytes_eq 8 _)⟩

theorem floatStores_of_meets (hE : StoresMeet E) : floatStores E := by
  intro s frs ra rb d on single
  have singleStored {i : Instr} {sum : Dword} (e : exec i s = storeValue (s.ea32 sum) (singleBytes s frs) (s.formSingle frs)) :
      single i sum (fun u => u) := by
    rw [singleBytes_eq] at e
    exact wordStored_of_exec hE State.storeAdvances_id e
  have singleUpdated {i : Instr} {sum : Dword}
      (e : exec i s = storeValueUpdate ra sum (singleBytes s frs) (s.formSingle frs)) :
      single i sum (fun u => u.setGpr ra sum) := by
    rw [singleBytes_eq] at e
    refine wordStored_of_exec hE (fun s => s.storeAdvances_setGpr ra sum) (e.trans ?_)
    rw [storeValueUpdate, State.formSingle]
    split <;> rfl
  refine ⟨singleStored (exec_float on rfl rfl rfl), singleStored (exec_float on rfl rfl rfl), fun nonzero => ?_,
    storeEffect_of_exec hE (exec_float on rfl rfl rfl) (lowBytes_eq 8 _),
    storeEffect_of_exec hE (exec_float on rfl rfl rfl) (lowBytes_eq 8 _), fun nonzero => ?_, fun option => ?_⟩
  · have ok := updateOk_of_ne nonzero
    exact ⟨singleUpdated (exec_float on rfl rfl ok), singleUpdated (exec_float on rfl rfl ok)⟩
  · have ok := updateOk_of_ne nonzero
    exact ⟨storeUpdateEffect_of_exec hE (exec_float on rfl rfl ok) (lowBytes_eq 8 _),
      storeUpdateEffect_of_exec hE (exec_float on rfl rfl ok) (lowBytes_eq 8 _)⟩
  · exact wordStored_of_exec hE State.storeAdvances_id
      (exec_of_guarded rfl (preCheck_none option (fun _ => on) rfl) rfl)

end

/-! ## Misaligned accesses (O40) -/

/-- Settles O40: every form of scalar load and store meets the statement that the shared load and store meet. -/
theorem misalignedAccess : Obligations.MisalignedAccess := by
  unfold Obligations.MisalignedAccess
  exact ⟨⟨plainLoads_of_meets loadsMisaligned_meets, updateLoads_of_meets loadsMisaligned_meets,
      floatLoads_of_meets loadsMisaligned_meets⟩,
    plainStores_of_meets storesMisaligned_meets, updateStores_of_meets storesMisaligned_meets,
    floatStores_of_meets storesMisaligned_meets⟩

end Sys2Proof.Machine
end

section
/-!
PROOFS. Instruction words by their fields: how the fields of a word make the word up, what the decoder's operand readers give, and
the two round trips of encoding and decoding (`EncodeDecode`, `DecodeEncode`).
-/

namespace Sys2Proof

/-! ## Fields of a word -/

theorem field_lt (w a b : Nat) : field w a b < 2 ^ (b + 1 - a) := Nat.mod_lt _ (Nat.two_pow_pos _)

/-- Bits `x` to `y`, read out of bits `a` to `b` around them. -/
theorem field_within {a b x y : Nat} (w : Nat) (ha : a ≤ x) (hxy : x ≤ y) (hb : y ≤ b) (h : b ≤ 31) :
    field w x y = field w a b / 2 ^ (b - y) % 2 ^ (y + 1 - x) := by
  have shift : 2 ^ (31 - y) = 2 ^ (31 - b) * 2 ^ (b - y) := by rw [← Nat.pow_add]; congr 1; omega
  have size : 2 ^ (b + 1 - a) = 2 ^ (b - y) * 2 ^ (y + 1 - a) := by rw [← Nat.pow_add]; congr 1; omega
  have inner : 2 ^ (y + 1 - x) ∣ 2 ^ (y + 1 - a) := Nat.pow_dvd_pow 2 (by omega)
  rw [field, field, shift, size, ← Nat.div_div_eq_div_mul, Nat.mod_mul_right_div_self, Nat.mod_mod_of_dvd _ inner]

/-- Bits `a` to `c`, cut after bit `b`. -/
theorem field_join {a b c : Nat} (w : Nat) (hab : a ≤ b) (hbc : b < c) (hc : c ≤ 31) :
    field w a c = field w a b * 2 ^ (c - b) + field w (b + 1) c := by
  have hi := field_within w (Nat.le_refl a) hab hbc.le hc
  have lo := field_within (a := a) (x := b + 1) (y := c) w (by omega) hbc (Nat.le_refl c) hc
  have size : 2 ^ (c + 1 - a) = 2 ^ (c - b) * 2 ^ (b + 1 - a) := by rw [← Nat.pow_add]; congr 1; omega
  have fits : field w a c / 2 ^ (c - b) < 2 ^ (b + 1 - a) := by
    rw [Nat.div_lt_iff_lt_mul (Nat.two_pow_pos _), Nat.mul_comm, ← size]
    exact field_lt w a c
  rw [Nat.sub_self, Nat.pow_zero, Nat.div_one, show c + 1 - (b + 1) = c - b by omega] at lo
  rw [hi, lo, Nat.mod_eq_of_lt fits, Nat.div_add_mod']

/-! Most rows cut a word into the primary opcode (bits 0 to 5), three operands of five bits (6 to 10, 11 to 15, 16 to 20), the
extended opcode (21 to 30) and the last bit (31). Every other field lies within one of these six parts or is a join of some. -/

section
variable {x y : Nat} (w : Nat)

theorem field_within_d (h : 6 ≤ x ∧ x ≤ y ∧ y ≤ 10 ∧ ¬ (x = 6 ∧ y = 10)) :
    field w x y = field w 6 10 / 2 ^ (10 - y) % 2 ^ (y + 1 - x) :=
  field_within w h.1 h.2.1 h.2.2.1 (by decide)

theorem field_within_a (h : 11 ≤ x ∧ x ≤ y ∧ y ≤ 15 ∧ ¬ (x = 11 ∧ y = 15)) :
    field w x y = field w 11 15 / 2 ^ (15 - y) % 2 ^ (y + 1 - x) :=
  field_within w h.1 h.2.1 h.2.2.1 (by decide)

theorem field_within_b (h : 16 ≤ x ∧ x ≤ y ∧ y ≤ 20 ∧ ¬ (x = 16 ∧ y = 20)) :
    field w x y = field w 16 20 / 2 ^ (20 - y) % 2 ^ (y + 1 - x) :=
  field_within w h.1 h.2.1 h.2.2.1 (by decide)

theorem field_within_extended (h : 21 ≤ x ∧ x ≤ y ∧ y ≤ 30 ∧ ¬ (x = 21 ∧ y = 30)) :
    field w x y = field w 21 30 / 2 ^ (30 - y) % 2 ^ (y + 1 - x) :=
  field_within w h.1 h.2.1 h.2.2.1 (by decide)

theorem field_join_d (h : x ≤ 10 ∧ 10 < y ∧ y ≤ 31) : field w x y = field w x 10 * 2 ^ (y - 10) + field w 11 y :=
  field_join w h.1 h.2.1 h.2.2

theorem field_join_a (h : x ≤ 15 ∧ 15 < y ∧ y ≤ 31) : field w x y = field w x 15 * 2 ^ (y - 15) + field w 16 y :=
  field_join w h.1 h.2.1 h.2.2

theorem field_join_b (h : x ≤ 20 ∧ 20 < y ∧ y ≤ 31) : field w x y = field w x 20 * 2 ^ (y - 20) + field w 21 y :=
  field_join w h.1 h.2.1 h.2.2

theorem field_join_extended (h : x ≤ 30 ∧ 30 < y ∧ y ≤ 31) : field w x y = field w x 30 * 2 ^ (y - 30) + field w 31 y :=
  field_join w h.1 h.2.1 h.2.2

end

/-- A word of 32 bits is made up of the six parts. -/
theorem parts_of_word {w op : Nat} (h : w < 2 ^ 32) (e : field w 0 5 = op) :
    w = op * 67108864 + field w 6 10 * 2097152 + field w 11 15 * 65536 + field w 16 20 * 2048 +
        field w 21 30 * 2 + field w 31 31 ∧
      field w 6 10 < 32 ∧ field w 11 15 < 32 ∧ field w 16 20 < 32 ∧ field w 21 30 < 1024 ∧ field w 31 31 < 2 := by
  simp only [field] at e ⊢
  omega

/-! ## Operands -/

theorem toNat_fieldBits {n a b : Nat} (w : Nat) (h : b + 1 - a ≤ n) : (fieldBits n w a b).toNat = field w a b := by
  rw [fieldBits, BitVec.toNat_ofNat]
  exact Nat.mod_eq_of_lt ((field_lt w a b).trans_le (Nat.pow_le_pow_right (by decide) h))

theorem toNat_fieldBit (w a : Nat) : (fieldBit w a).toNat = field w a a := by
  have h : field w a a < 2 ^ (a + 1 - a) := field_lt w a a
  rw [Nat.add_sub_cancel_left] at h
  unfold fieldBit
  interval_cases field w a a <;> rfl

theorem toNat_swappedField (w : Nat) : (swappedField w).toNat = field w 16 20 * 32 + field w 11 15 := by
  have := field_lt w 16 20
  have := field_lt w 11 15
  rw [swappedField, BitVec.toNat_ofNat]
  omega

theorem toNat_splitMask (w : Nat) : (splitMask w).toNat = field w 26 26 * 32 + field w 21 25 := by
  have := field_lt w 26 26
  have := field_lt w 21 25
  rw [splitMask, BitVec.toNat_ofNat]
  omega

theorem toNat_splitShift (w : Nat) : (splitShift w).toNat = field w 30 30 * 32 + field w 16 20 := by
  have := field_lt w 30 30
  have := field_lt w 16 20
  rw [splitShift, BitVec.toNat_ofNat]
  omega

/-! The encoder writes the halves of a split operand apart. -/

section
variable (w : Nat)

theorem swappedField_high : (swappedField w).toNat / 32 = field w 16 20 := by
  have := field_lt w 11 15
  rw [toNat_swappedField]
  omega

theorem swappedField_low : (swappedField w).toNat % 32 = field w 11 15 := by
  have := field_lt w 11 15
  rw [toNat_swappedField]
  omega

theorem splitMask_high : (splitMask w).toNat / 32 = field w 26 26 := by
  have := field_lt w 21 25
  rw [toNat_splitMask]
  omega

theorem splitMask_low : (splitMask w).toNat % 32 = field w 21 25 := by
  have := field_lt w 21 25
  rw [toNat_splitMask]
  omega

theorem splitShift_high : (splitShift w).toNat / 32 = field w 30 30 := by
  have := field_lt w 16 20
  rw [toNat_splitShift]
  omega

theorem splitShift_low : (splitShift w).toNat % 32 = field w 16 20 := by
  have := field_lt w 16 20
  rw [toNat_splitShift]
  omega

end

/-! A field that holds an operand reads as the operand. -/

theorem fieldBits_eq {n w a b : Nat} {v : BitVec n} (h : field w a b = v.toNat) : fieldBits n w a b = v := by
  rw [fieldBits, h, BitVec.ofNat_toNat, BitVec.setWidth_eq]

theorem fieldBit_eq {w a : Nat} {v : Bool} (h : field w a a = v.toNat) : fieldBit w a = v := by
  rw [fieldBit, h]
  cases v <;> rfl

theorem swappedField_eq {w : Nat} {v : BitVec 10} (hi : field w 16 20 = v.toNat / 32) (lo : field w 11 15 = v.toNat % 32) :
    swappedField w = v := by
  refine BitVec.eq_of_toNat_eq ?_
  rw [toNat_swappedField, hi, lo, Nat.div_add_mod']

theorem splitMask_eq {w : Nat} {v : BitVec 6} (hi : field w 26 26 = v.toNat / 32) (lo : field w 21 25 = v.toNat % 32) :
    splitMask w = v := by
  refine BitVec.eq_of_toNat_eq ?_
  rw [toNat_splitMask, hi, lo, Nat.div_add_mod']

theorem splitShift_eq {w : Nat} {v : BitVec 6} (hi : field w 30 30 = v.toNat / 32) (lo : field w 16 20 = v.toNat % 32) :
    splitShift w = v := by
  refine BitVec.eq_of_toNat_eq ?_
  rw [toNat_splitShift, hi, lo, Nat.div_add_mod']

/-! ## Rows with reserved bits -/

@[simp] theorem whenZero_nil (w : Nat) (i : Instr) : whenZero w [] i = .ok i := rfl

@[simp] theorem whenZero_cons (w : Nat) (f : Nat × Nat) (fs : List (Nat × Nat)) (i : Instr) :
    whenZero w (f :: fs) i = if field w f.1 f.2 = 0 then whenZero w fs i else .reserved i := by
  have split : ((f :: fs).all fun g => field w g.1 g.2 == 0) = true ↔
      field w f.1 f.2 = 0 ∧ (fs.all fun g => field w g.1 g.2 == 0) = true := by
    rw [List.all_cons, Bool.and_eq_true, beq_iff_eq]
  rw [whenZero, whenZero, ← ite_and]
  exact if_congr split rfl rfl

/-! ## What a word decodes to, encoded again (O2) -/

/-- If `d` is an instruction, its word is `w`. -/
def Encodes (w : Nat) (d : Decoded) : Prop := ∀ i, d = .ok i → encodeNat i = w

theorem encodes_ok (w : Nat) (i : Instr) : Encodes w (.ok i) ↔ encodeNat i = w :=
  ⟨fun h => h i rfl, fun h _ e => Decoded.ok.inj e ▸ h⟩

theorem encodes_reserved (w : Nat) (i : Instr) : Encodes w (.reserved i) := fun _ e => nomatch e

theorem encodes_illegal (w : Nat) : Encodes w .illegal := fun _ e => nomatch e

theorem Encodes.ite {w : Nat} {c : Prop} [Decidable c] {d e : Decoded} (h : c → Encodes w d) (k : Encodes w e) :
    Encodes w (if c then d else e) := by
  split
  · exact h ‹c›
  · exact k

/-- A row with reserved bits needs them 0. -/
theorem encodes_whenZero (w : Nat) (fs : List (Nat × Nat)) (i : Instr) :
    Encodes w (whenZero w fs i) ↔ ((∀ f ∈ fs, field w f.1 f.2 = 0) → encodeNat i = w) := by
  induction fs with
  | nil => simp only [whenZero_nil, encodes_ok, List.not_mem_nil, false_imp_iff, implies_true, forall_const]
  | cons f fs ih =>
    rw [whenZero_cons, List.forall_mem_cons, and_imp]
    split
    · next zero => rw [ih]; exact ⟨fun h _ => h, fun h => h zero⟩
    · next set => exact ⟨fun _ zero => absurd zero set, fun _ => encodes_reserved w i⟩

/-! In each row of an opcode the tests, the reserved bits and the operands are parts of the word, or lie within or join parts: with
the reserved bits 0, the word is the sum that `encodeNat` writes. -/

theorem encodes_op31 {w : Nat} (h : w < 2 ^ 32) (op : field w 0 5 = 31) : Encodes w (decodeOp31 w) := by
  obtain ⟨sum, hd, ha, hb, hx, hr⟩ := parts_of_word h op
  clear h op
  unfold decodeOp31
  repeat' refine Encodes.ite ?_ ?_
  all_goals
    simp only [encodes_ok, encodes_whenZero, encodes_illegal, List.forall_mem_cons, and_imp, encodeNat, toNat_fieldBits,
      toNat_fieldBit, swappedField_high, swappedField_low, splitShift_high, splitShift_low, field_within_d, field_within_a,
      field_within_b, field_within_extended, field_join_d, field_join_a, field_join_extended, Nat.reduceAdd, Nat.reduceSub,
      Nat.reducePow, Nat.reduceLeDiff, Nat.reduceLT, Nat.reduceEqDiff, and_true, and_false, not_false_eq_true, Nat.div_one]
  all_goals omega

/-- The other opcodes that have extended ones. -/
theorem encodes_extended {w : Nat} (h : w < 2 ^ 32) :
    (field w 0 5 = 17 → Encodes w (decodeOp17 w)) ∧ (field w 0 5 = 19 → Encodes w (decodeOp19 w)) ∧
    (field w 0 5 = 30 → Encodes w (decodeOp30 w)) ∧ (field w 0 5 = 58 → Encodes w (decodeOp58 w)) ∧
    (field w 0 5 = 59 → Encodes w (decodeOp59 w)) ∧ (field w 0 5 = 62 → Encodes w (decodeOp62 w)) ∧
    (field w 0 5 = 63 → Encodes w (decodeOp63 w)) := by
  obtain ⟨sum, hd, ha, hb, hx, hr⟩ := parts_of_word h rfl
  unfold decodeOp17 decodeOp19 decodeOp30 decodeOp58 decodeOp59 decodeOp62 decodeOp63
  refine ⟨?_, ?_, ?_, ?_, ?_, ?_, ?_⟩
  all_goals
    intro op
    repeat' refine Encodes.ite ?_ ?_
  all_goals
    simp only [encodes_ok, encodes_whenZero, encodes_illegal, List.forall_mem_cons, and_imp, encodeNat, toNat_fieldBits,
      toNat_fieldBit, splitMask_high, splitMask_low, splitShift_high, splitShift_low, field_within_d, field_within_a,
      field_within_b, field_within_extended, field_join_d, field_join_a, field_join_b, field_join_extended, Nat.reduceAdd,
      Nat.reduceSub, Nat.reducePow, Nat.reduceLeDiff, Nat.reduceLT, Nat.reduceEqDiff, and_true, and_false,
      not_false_eq_true, Nat.div_one]
  all_goals omega

theorem encodes_decodeNat {w : Nat} (h : w < 2 ^ 32) : Encodes w (decodeNat w) := by
  obtain ⟨sum, hd, ha, hb, hx, hr⟩ := parts_of_word h rfl
  obtain ⟨op17, op19, op30, op58, op59, op62, op63⟩ := encodes_extended h
  have op31 := encodes_op31 h
  unfold decodeNat
  repeat' with_reducible refine Encodes.ite ?_ ?_
  any_goals assumption
  all_goals
    simp only [encodes_ok, encodes_whenZero, encodes_illegal, List.forall_mem_cons, and_imp, encodeNat, toNat_fieldBits,
      toNat_fieldBit, field_within_d, field_within_extended, field_join_d, field_join_a, field_join_b, field_join_extended,
      Nat.reduceAdd, Nat.reduceSub, Nat.reducePow, Nat.reduceLeDiff, Nat.reduceLT, Nat.reduceEqDiff, and_true, and_false,
      not_false_eq_true, Nat.div_one]
  all_goals omega

/-- Settles O2: every row that decoding finds is one whose word `encodeNat` writes. -/
theorem encodeDecode : Obligations.EncodeDecode := by
  unfold Obligations.EncodeDecode
  intro w i h
  rw [encode, encodes_decodeNat w.isLt i h, BitVec.ofNat_toNat, BitVec.setWidth_eq]

end Sys2Proof
end

section
/-!
PROOFS. The word of every instruction decodes to the instruction (`DecodeEncode`).
-/

namespace Sys2Proof

/-! ## The parts of an encoded word

`encodeNat` adds operands to a row's fixed bits `c`. Where the operands lie in zero bits of `c` there is no carry, and the parts of
the sum can be read off. -/

/-- The number of the word of `i` has 32 bits and decodes to `i`. -/
def Decodes (i : Instr) : Prop := encodeNat i < 2 ^ 32 ∧ decodeNat (encodeNat i) = .ok i

/-- Operands `d`, `a`, `b` of five bits, `e` in the zero bits of the extended opcode and `r` in a zero last bit. -/
theorem decodes_of_parts {c operands : Nat} {i : Instr} (d a b e r : Nat)
    (h : operands = d * 2097152 + a * 65536 + b * 2048 + e * 2 + r ∧ d < 32 ∧ a < 32 ∧ b < 32 ∧ r < 2 ∧
      c / 2048 % 32768 = 0 ∧ c / 2 % 1024 + e < 1024 ∧ c % 2 + r < 2 ∧ c < 2 ^ 32)
    (found : ∀ w, field w 0 5 = c / 67108864 → field w 6 10 = d → field w 11 15 = a → field w 16 20 = b →
      field w 21 30 = c / 2 % 1024 + e → field w 31 31 = c % 2 + r → decodeNat w = .ok i) :
    c + operands < 2 ^ 32 ∧ decodeNat (c + operands) = .ok i := by
  obtain ⟨rfl, h⟩ := h
  refine ⟨by omega, ?_⟩
  apply found <;> simp only [field] <;> omega

/-- Operands `d` and `a` of five bits, and an immediate with its flags in the zero bits of the low half. -/
theorem decodes_of_parts_immediate {c operands : Nat} {i : Instr} (d a n : Nat)
    (h : operands = d * 2097152 + a * 65536 + n ∧ d < 32 ∧ a < 32 ∧ c / 65536 % 1024 = 0 ∧ c % 65536 + n < 65536 ∧
      c < 2 ^ 32)
    (found : ∀ w, field w 0 5 = c / 67108864 → field w 6 10 = d → field w 11 15 = a → field w 16 31 = c % 65536 + n →
      decodeNat w = .ok i) :
    c + operands < 2 ^ 32 ∧ decodeNat (c + operands) = .ok i := by
  obtain ⟨rfl, h⟩ := h
  refine ⟨by omega, ?_⟩
  apply found <;> simp only [field] <;> omega

/-! ## The decoder's branches -/

section
variable {w : Nat}

theorem decodeNat_op19 (h : field w 0 5 = 19) : decodeNat w = decodeOp19 w := by rw [decodeNat, h]; rfl
theorem decodeNat_op30 (h : field w 0 5 = 30) : decodeNat w = decodeOp30 w := by rw [decodeNat, h]; rfl
theorem decodeNat_op31 (h : field w 0 5 = 31) : decodeNat w = decodeOp31 w := by rw [decodeNat, h]; rfl
theorem decodeNat_op58 (h : field w 0 5 = 58) : decodeNat w = decodeOp58 w := by rw [decodeNat, h]; rfl
theorem decodeNat_op59 (h : field w 0 5 = 59) : decodeNat w = decodeOp59 w := by rw [decodeNat, h]; rfl
theorem decodeNat_op62 (h : field w 0 5 = 62) : decodeNat w = decodeOp62 w := by rw [decodeNat, h]; rfl
theorem decodeNat_op63 (h : field w 0 5 = 63) : decodeNat w = decodeOp63 w := by rw [decodeNat, h]; rfl

end

/-- A flag read from a bit that holds it. -/
@[simp] theorem toNat_beq_one (v : Bool) : (v.toNat == 1) = v := by cases v <;> rfl

/-! ## Rows with an immediate -/

theorem decodes_d {C} (h : C ∈ [Instr.tdi, .twi, .mulli, .subfic, .addic, .addicDot, .addi, .addis, .ori, .oris, .xori, .xoris,
    .andiDot, .andisDot, .lwz, .lwzu, .lbz, .lbzu, .stw, .stwu, .stb, .stbu, .lhz, .lhzu, .lha, .lhau, .sth, .sthu, .lmw,
    .stmw, .lfs, .lfsu, .lfd, .lfdu, .stfs, .stfsu, .stfd, .stfdu]) (d a : BitVec 5) (n : BitVec 16) :
    Decodes (C d a n) := by
  fin_cases h
  all_goals
    simp only [Decodes, encodeNat, Nat.add_assoc]
    refine decodes_of_parts_immediate d.toNat a.toNat n.toNat (by omega) fun w hop hd ha hn => ?_
    simp [decodeNat, fieldBits, hop, hd, ha, hn]

theorem decodes_compareImmediate {C} (h : C ∈ [Instr.cmpi, .cmpli]) (f : BitVec 3) (l : Bool) (a : BitVec 5)
    (n : BitVec 16) : Decodes (C f l a n) := by
  have := Laws.toNat_lt_two l
  fin_cases h
  all_goals
    simp only [Decodes, encodeNat, Nat.add_assoc]
    refine decodes_of_parts_immediate (f.toNat * 4 + l.toNat) a.toNat n.toNat (by omega) fun w hop hd ha hn => ?_
    have crf : field w 6 8 = f.toNat := by rw [field_within_d w (by decide), hd]; omega
    have reserved : field w 9 9 = 0 := by rw [field_within_d w (by decide), hd]; omega
    have wide : field w 10 10 = l.toNat := by rw [field_within_d w (by decide), hd]; omega
    simp [decodeNat, fieldBits, fieldBit, hop, crf, reserved, wide, ha, hn]

theorem decodes_ds {C} (h : C ∈ [Instr.lwa, .ld, .ldu, .std, .stdu]) (d a : BitVec 5) (n : BitVec 14) :
    Decodes (C d a n) := by
  fin_cases h
  all_goals
    simp only [Decodes, encodeNat, Nat.add_assoc]
    refine decodes_of_parts_immediate d.toNat a.toNat (n.toNat * 4) (by omega) fun w hop hd ha hn => ?_
    have extended : field w 30 31 = field w 16 31 % 4 := by simp only [field]; omega
    have offset : field w 16 29 = n.toNat := by
      have : field w 16 29 = field w 16 31 / 4 := by simp only [field]; omega
      omega
    simp [decodeNat_op58, decodeNat_op62, decodeOp58, decodeOp62, fieldBits, hop, hd, ha, hn, extended, offset]

theorem decodes_bcx (bo bi : BitVec 5) (bd : BitVec 14) (aa lk : Bool) : Decodes (.bcx bo bi bd aa lk) := by
  have := Laws.toNat_lt_two aa
  have := Laws.toNat_lt_two lk
  simp only [Decodes, encodeNat, Nat.add_assoc]
  refine decodes_of_parts_immediate bo.toNat bi.toNat (bd.toNat * 4 + aa.toNat * 2 + lk.toNat) (by omega)
    fun w hop hd ha hn => ?_
  have halves : field w 16 29 = field w 16 31 / 4 ∧ field w 30 30 = field w 16 31 / 2 % 2 ∧
    field w 31 31 = field w 16 31 % 2 := by simp only [field]; omega
  have displacement : field w 16 29 = bd.toNat := by omega
  have absolute : field w 30 30 = aa.toNat := by omega
  have link : field w 31 31 = lk.toNat := by omega
  simp [decodeNat, fieldBits, fieldBit, hop, hd, ha, displacement, absolute, link]

theorem decodes_bx (li : BitVec 24) (aa lk : Bool) : Decodes (.bx li aa lk) := by
  have := Laws.toNat_lt_two aa
  have := Laws.toNat_lt_two lk
  have op : field (encodeNat (.bx li aa lk)) 0 5 = 18 := by simp only [field, encodeNat]; omega
  have displacement : field (encodeNat (.bx li aa lk)) 6 29 = li.toNat := by simp only [field, encodeNat]; omega
  have absolute : field (encodeNat (.bx li aa lk)) 30 30 = aa.toNat := by simp only [field, encodeNat]; omega
  have link : field (encodeNat (.bx li aa lk)) 31 31 = lk.toNat := by simp only [field, encodeNat]; omega
  refine ⟨by simp only [encodeNat]; omega, ?_⟩
  simp [decodeNat, fieldBits, fieldBit, op, displacement, absolute, link]

/-! ## Rotates -/

/-- The low-word rotates, which have no extended opcode. -/
theorem decodes_m {C} (h : C ∈ [Instr.rlwinmx, .rlwnmx, .rlwimix]) (d a b mb me : BitVec 5) (r : Bool) :
    Decodes (C d a b mb me r) := by
  have := Laws.toNat_lt_two r
  fin_cases h
  all_goals
    simp only [Decodes, encodeNat, Nat.add_assoc]
    refine decodes_of_parts d.toNat a.toNat b.toNat (mb.toNat * 32 + me.toNat) r.toNat (by omega)
      fun w hop hd ha hb he hr => ?_
    have first : field w 21 25 = mb.toNat := by rw [field_within_extended w (by decide), he]; omega
    have last : field w 26 30 = me.toNat := by rw [field_within_extended w (by decide), he]; omega
    simp [decodeNat, fieldBits, fieldBit, hop, hd, ha, hb, hr, first, last]

/-- Bits 21 to 30 of a double-word rotate: the halves of the mask bound, the extended opcode, the high bit of the shift. -/
theorem field_of_rotate {w x m s : Nat} (h : field w 21 30 = x + (m % 32 * 32 + m / 32 * 16 + s)) (hm : m < 64)
    (hx : x < 16 ∧ x % 2 + s < 2) :
    field w 21 25 = m % 32 ∧ field w 26 26 = m / 32 ∧ field w 27 29 = x / 2 ∧ field w 27 30 = x + s ∧
      field w 30 30 = x % 2 + s := by
  simp only [field_within_extended, h, Nat.reduceLeDiff, Nat.reduceEqDiff, Nat.reduceSub, Nat.reduceAdd, Nat.reducePow,
    Nat.div_one, and_true, and_false, not_false_eq_true]
  have low : m % 32 < 32 := Nat.mod_lt _ (by decide)
  have high : m / 32 < 2 := by omega
  have rest : x + s < 16 := by omega
  generalize m % 32 = l at *
  generalize m / 32 = k at *
  omega

theorem decodes_md {C} (h : C ∈ [Instr.rldiclx, .rldicrx, .rldicx, .rldimix]) (d a : BitVec 5) (s m : BitVec 6) (r : Bool) :
    Decodes (C d a s m r) := by
  have := Laws.toNat_lt_two r
  fin_cases h
  all_goals
    simp only [Decodes, encodeNat, Nat.add_assoc]
    refine decodes_of_parts d.toNat a.toNat (s.toNat % 32)
      (m.toNat % 32 * 32 + m.toNat / 32 * 16 + s.toNat / 32) r.toNat (by omega) fun w hop hd ha hb he hr => ?_
    obtain ⟨low, high, extended, -, shift⟩ := field_of_rotate he m.isLt (by omega)
    rw [decodeNat_op30 hop]
    simp [decodeOp30, fieldBits, fieldBit, splitMask_eq high low, hd, ha, hr, extended, splitShift_eq (v := s) (by omega) hb]

theorem decodes_mds {C} (h : C ∈ [Instr.rldclx, .rldcrx]) (d a b : BitVec 5) (m : BitVec 6) (r : Bool) :
    Decodes (C d a b m r) := by
  have := Laws.toNat_lt_two r
  fin_cases h
  all_goals
    simp only [Decodes, encodeNat, Nat.add_assoc]
    refine decodes_of_parts d.toNat a.toNat b.toNat (m.toNat % 32 * 32 + m.toNat / 32 * 16 + 0) r.toNat (by omega)
      fun w hop hd ha hb he hr => ?_
    obtain ⟨low, high, extended, extended', -⟩ := field_of_rotate he m.isLt (by omega)
    rw [decodeNat_op30 hop]
    simp [decodeOp30, fieldBits, fieldBit, splitMask_eq high low, hd, ha, hb, hr, extended, extended']

/-- Bit 30 is the high bit of the shift, so that two extended opcodes are this row's. -/
theorem decodes_sradix (d a : BitVec 5) (s : BitVec 6) (r : Bool) : Decodes (.sradix d a s r) := by
  have := Laws.toNat_lt_two r
  simp only [Decodes, encodeNat, Nat.add_assoc]
  refine decodes_of_parts d.toNat a.toNat (s.toNat % 32) (s.toNat / 32) r.toNat (by omega) fun w hop hd ha hb he hr => ?_
  have shift : splitShift w = s := splitShift_eq (by rw [field_within_extended w (by decide), he]; omega) hb
  have bit : s.toNat / 32 = 0 ∨ s.toNat / 32 = 1 := by omega
  rw [decodeNat_op31 hop]
  obtain bit | bit := bit <;> simp [decodeOp31, field_within_extended, fieldBits, fieldBit, bit, shift, hd, ha, he, hr]

/-! ## Primary opcode 31 -/

/-- The rows with OE and Rc. -/
theorem decodes_xo {C} (h : C ∈ [Instr.addx, .addcx, .addex, .subfx, .subfcx, .subfex, .mullwx, .mulldx, .divwx, .divwux,
    .divdx, .divdux]) (d a b : BitVec 5) (o r : Bool) : Decodes (C d a b o r) := by
  have := Laws.toNat_lt_two o
  have := Laws.toNat_lt_two r
  fin_cases h
  all_goals
    simp only [Decodes, encodeNat, Nat.add_assoc]
    refine decodes_of_parts d.toNat a.toNat b.toNat (o.toNat * 512) r.toNat (by omega) fun w hop hd ha hb he hr => ?_
    have overflow : field w 21 21 = o.toNat := by rw [field_within_extended w (by decide), he]; omega
    rw [decodeNat_op31 hop]
    simp [decodeOp31, field_within_extended w (x := 22), fieldBits, fieldBit, hd, ha, hb, he, hr, overflow]

/-- The negations and the additions of a carry. -/
theorem decodes_xo_unary {C} (h : C ∈ [Instr.addmex, .addzex, .subfmex, .subfzex, .negx]) (d a : BitVec 5) (o r : Bool) :
    Decodes (C d a o r) := by
  have := Laws.toNat_lt_two o
  have := Laws.toNat_lt_two r
  fin_cases h
  all_goals
    simp only [Decodes, encodeNat, Nat.add_assoc]
    refine decodes_of_parts d.toNat a.toNat 0 (o.toNat * 512) r.toNat (by omega) fun w hop hd ha hb he hr => ?_
    have overflow : field w 21 21 = o.toNat := by rw [field_within_extended w (by decide), he]; omega
    rw [decodeNat_op31 hop]
    simp [decodeOp31, field_within_extended w (x := 22), fieldBits, fieldBit, hd, ha, hb, he, hr, overflow]

/-- Three registers, and Rc. -/
theorem decodes_x31_rc {C} (h : C ∈ [Instr.mulhwx, .mulhwux, .mulhdx, .mulhdux, .andx, .orx, .xorx, .nandx, .norx, .eqvx, .andcx,
    .orcx, .slwx, .srwx, .srawx, .srawix, .sldx, .srdx, .sradx]) (d a b : BitVec 5) (r : Bool) : Decodes (C d a b r) := by
  have := Laws.toNat_lt_two r
  fin_cases h
  all_goals
    simp only [Decodes, encodeNat, Nat.add_assoc]
    refine decodes_of_parts d.toNat a.toNat b.toNat 0 r.toNat (by omega) fun w hop hd ha hb he hr => ?_
    rw [decodeNat_op31 hop]
    simp [decodeOp31, field_within_extended, fieldBits, fieldBit, hd, ha, hb, he, hr]

/-- Two registers, and Rc. -/
theorem decodes_x31_unary {C} (h : C ∈ [Instr.extsbx, .extshx, .extswx, .cntlzwx, .cntlzdx]) (d a : BitVec 5) (r : Bool) :
    Decodes (C d a r) := by
  have := Laws.toNat_lt_two r
  fin_cases h
  all_goals
    simp only [Decodes, encodeNat, Nat.add_assoc]
    refine decodes_of_parts d.toNat a.toNat 0 0 r.toNat (by omega) fun w hop hd ha hb he hr => ?_
    rw [decodeNat_op31 hop]
    simp [decodeOp31, field_within_extended, fieldBits, fieldBit, hd, ha, hb, he, hr]

/-- Three operands and no Rc; the last bit is 0, or 1 of the store conditionals. -/
theorem decodes_x31 {C} (h : C ∈ [Instr.lbzx, .lbzux, .lhzx, .lhzux, .lhax, .lhaux, .lwzx, .lwzux, .lwax, .lwaux, .ldx, .ldux,
    .stbx, .stbux, .sthx, .sthux, .stwx, .stwux, .stdx, .stdux, .lhbrx, .lwbrx, .sthbrx, .stwbrx, .lswi, .lswx, .stswi,
    .stswx, .lfsx, .lfsux, .lfdx, .lfdux, .stfsx, .stfsux, .stfdx, .stfdux, .stfiwx, .tw, .td, .lwarx, .ldarx, .eciwx,
    .ecowx, .stwcxDot, .stdcxDot]) (d a b : BitVec 5) : Decodes (C d a b) := by
  fin_cases h
  all_goals
    simp only [Decodes, encodeNat, Nat.add_assoc]
    refine decodes_of_parts d.toNat a.toNat b.toNat 0 0 (by omega) fun w hop hd ha hb he hr => ?_
    rw [decodeNat_op31 hop]
    simp [decodeOp31, field_within_extended, field_join_extended, fieldBits, hd, ha, hb, he, hr]

/-- The cache operations. -/
theorem decodes_x31_block {C} (h : C ∈ [Instr.dcbt, .dcbtst, .dcbst, .dcbf, .dcbi, .dcba, .dcbz, .icbi]) (a b : BitVec 5) :
    Decodes (C a b) := by
  fin_cases h
  all_goals
    simp only [Decodes, encodeNat, Nat.add_assoc]
    refine decodes_of_parts 0 a.toNat b.toNat 0 0 (by omega) fun w hop hd ha hb he hr => ?_
    rw [decodeNat_op31 hop]
    simp [decodeOp31, field_within_extended, field_join_extended, fieldBits, hd, ha, hb, he, hr]

theorem decodes_x31_d {C} (h : C ∈ [Instr.mfcr, .mfmsr, .mtmsr, .mtmsrd]) (d : BitVec 5) : Decodes (C d) := by
  fin_cases h
  all_goals
    simp only [Decodes, encodeNat]
    refine decodes_of_parts d.toNat 0 0 0 0 (by omega) fun w hop hd ha hb he hr => ?_
    rw [decodeNat_op31 hop]
    simp [decodeOp31, field_within_extended, field_join_a, fieldBits, hd, ha, hb, he, hr]

theorem decodes_x31_db {C} (h : C ∈ [Instr.mfsrin, .mtsrin, .mtsrdin]) (d b : BitVec 5) : Decodes (C d b) := by
  fin_cases h
  all_goals
    simp only [Decodes, encodeNat, Nat.add_assoc]
    refine decodes_of_parts d.toNat 0 b.toNat 0 0 (by omega) fun w hop hd ha hb he hr => ?_
    rw [decodeNat_op31 hop]
    simp [decodeOp31, field_within_extended, field_join_extended, fieldBits, hd, ha, hb, he, hr]

theorem decodes_x31_b {C} (h : C ∈ [Instr.slbie, .tlbie]) (b : BitVec 5) : Decodes (C b) := by
  fin_cases h
  all_goals
    simp only [Decodes, encodeNat]
    refine decodes_of_parts 0 0 b.toNat 0 0 (by omega) fun w hop hd ha hb he hr => ?_
    rw [decodeNat_op31 hop]
    simp [decodeOp31, field_within_extended, field_join_extended, field_join_d, fieldBits, hd, ha, hb, he, hr]

/-- The segment register number stands in the low bits of the second operand. -/
theorem decodes_segment {C} (h : C ∈ [Instr.mfsr, .mtsr, .mtsrd]) (d : BitVec 5) (n : BitVec 4) : Decodes (C d n) := by
  fin_cases h
  all_goals
    simp only [Decodes, encodeNat, Nat.add_assoc]
    refine decodes_of_parts d.toNat n.toNat 0 0 0 (by omega) fun w hop hd ha hb he hr => ?_
    have reserved : field w 11 11 = 0 := by rw [field_within_a w (by decide), ha]; omega
    have number : field w 12 15 = n.toNat := by rw [field_within_a w (by decide), ha]; omega
    rw [decodeNat_op31 hop]
    simp [decodeOp31, field_within_extended, field_join_extended, fieldBits, hd, hb, he, hr, reserved, number]

/-- The register number's halves are exchanged. -/
theorem decodes_xfx {C} (h : C ∈ [Instr.mfspr, .mtspr, .mftb]) (d : BitVec 5) (n : BitVec 10) : Decodes (C d n) := by
  fin_cases h
  all_goals
    simp only [Decodes, encodeNat, Nat.add_assoc]
    refine decodes_of_parts d.toNat (n.toNat % 32) (n.toNat / 32) 0 0 (by omega) fun w hop hd ha hb he hr => ?_
    rw [decodeNat_op31 hop]
    simp [decodeOp31, field_within_extended, fieldBits, swappedField_eq hb ha, hd, he, hr]

theorem decodes_mtcrf (d : BitVec 5) (m : BitVec 8) : Decodes (.mtcrf d m) := by
  simp only [Decodes, encodeNat, Nat.add_assoc]
  refine decodes_of_parts d.toNat (m.toNat / 16) (m.toNat % 16 * 2) 0 0 (by omega) fun w hop hd ha hb he hr => ?_
  have reserved : field w 11 11 = 0 := by rw [field_within_a w (by decide), ha]; omega
  have reserved' : field w 20 20 = 0 := by rw [field_within_b w (by decide), hb]; omega
  have mask : field w 12 19 = m.toNat := by
    rw [field_join_a w (by decide), field_within_a w (x := 12) (by decide), field_within_b w (x := 16) (by decide), ha, hb]
    omega
  rw [decodeNat_op31 hop]
  simp [decodeOp31, field_within_extended, fieldBits, hd, he, hr, reserved, reserved', mask]

theorem decodes_mcrxr (f : BitVec 3) : Decodes (.mcrxr f) := by
  simp only [Decodes, encodeNat]
  refine decodes_of_parts (f.toNat * 4) 0 0 0 0 (by omega) fun w hop hd ha hb he hr => ?_
  have crf : field w 6 8 = f.toNat := by rw [field_within_d w (by decide), hd]; omega
  have reserved : field w 9 20 = 0 := by
    rw [field_join_a w (by decide), field_join_d w (by decide), field_within_d w (x := 9) (y := 10) (by decide), hd, ha, hb]
    omega
  rw [decodeNat_op31 hop]
  simp [decodeOp31, field_within_extended, fieldBits, he, hr, reserved, crf]

theorem decodes_compare {C} (h : C ∈ [Instr.cmp, .cmpl]) (f : BitVec 3) (l : Bool) (a b : BitVec 5) :
    Decodes (C f l a b) := by
  have := Laws.toNat_lt_two l
  fin_cases h
  all_goals
    simp only [Decodes, encodeNat, Nat.add_assoc]
    refine decodes_of_parts (f.toNat * 4 + l.toNat) a.toNat b.toNat 0 0 (by omega) fun w hop hd ha hb he hr => ?_
    have crf : field w 6 8 = f.toNat := by rw [field_within_d w (by decide), hd]; omega
    have reserved : field w 9 9 = 0 := by rw [field_within_d w (by decide), hd]; omega
    have wide : field w 10 10 = l.toNat := by rw [field_within_d w (by decide), hd]; omega
    rw [decodeNat_op31 hop]
    simp [decodeOp31, field_within_extended, fieldBits, fieldBit, crf, reserved, wide, ha, hb, he, hr]

/-! ## Primary opcode 19 -/

theorem decodes_branchRegister {C} (h : C ∈ [Instr.bclrx, .bcctrx]) (d a : BitVec 5) (r : Bool) : Decodes (C d a r) := by
  have := Laws.toNat_lt_two r
  fin_cases h
  all_goals
    simp only [Decodes, encodeNat, Nat.add_assoc]
    refine decodes_of_parts d.toNat a.toNat 0 0 r.toNat (by omega) fun w hop hd ha hb he hr => ?_
    rw [decodeNat_op19 hop]
    simp [decodeOp19, fieldBits, fieldBit, hd, ha, hb, he, hr]

theorem decodes_crLogical {C} (h : C ∈ [Instr.crand, .cror, .crxor, .crnand, .crnor, .creqv, .crandc, .crorc])
    (d a b : BitVec 5) : Decodes (C d a b) := by
  fin_cases h
  all_goals
    simp only [Decodes, encodeNat, Nat.add_assoc]
    refine decodes_of_parts d.toNat a.toNat b.toNat 0 0 (by omega) fun w hop hd ha hb he hr => ?_
    rw [decodeNat_op19 hop]
    simp [decodeOp19, fieldBits, hd, ha, hb, he, hr]

/-- The moves of a field of CR, or from the FPSCR to CR. -/
theorem decodes_moveField {C} (h : C ∈ [Instr.mcrf, .mcrfs]) (f g : BitVec 3) : Decodes (C f g) := by
  fin_cases h
  all_goals
    simp only [Decodes, encodeNat, Nat.add_assoc]
    refine decodes_of_parts (f.toNat * 4) (g.toNat * 4) 0 0 0 (by omega) fun w hop hd ha hb he hr => ?_
    have target : field w 6 8 = f.toNat := by rw [field_within_d w (by decide), hd]; omega
    have reserved : field w 9 10 = 0 := by rw [field_within_d w (by decide), hd]; omega
    have source : field w 11 13 = g.toNat := by rw [field_within_a w (by decide), ha]; omega
    have reserved' : field w 14 20 = 0 := by
      rw [field_join_a w (by decide), field_within_a w (by decide), ha, hb]; omega
    simp [decodeNat_op19, decodeNat_op63, decodeOp19, decodeOp63, field_within_extended, fieldBits, hop, he, hr, target,
      reserved, source, reserved']

/-! ## Primary opcodes 59 and 63 -/

theorem decodes_float_ab {C} (h : C ∈ [Instr.faddx, .faddsx, .fsubx, .fsubsx, .fdivx, .fdivsx]) (d a b : BitVec 5) (r : Bool) :
    Decodes (C d a b r) := by
  have := Laws.toNat_lt_two r
  fin_cases h
  all_goals
    simp only [Decodes, encodeNat, Nat.add_assoc]
    refine decodes_of_parts d.toNat a.toNat b.toNat 0 r.toNat (by omega) fun w hop hd ha hb he hr => ?_
    simp [decodeNat_op59, decodeNat_op63, decodeOp59, decodeOp63, field_within_extended, fieldBits, fieldBit, hop, hd, ha, hb,
      he, hr]

theorem decodes_float_ac {C} (h : C ∈ [Instr.fmulx, .fmulsx]) (d a c : BitVec 5) (r : Bool) : Decodes (C d a c r) := by
  have := Laws.toNat_lt_two r
  fin_cases h
  all_goals
    simp only [Decodes, encodeNat, Nat.add_assoc]
    refine decodes_of_parts d.toNat a.toNat 0 (c.toNat * 32) r.toNat (by omega) fun w hop hd ha hb he hr => ?_
    have factor : field w 21 25 = c.toNat := by rw [field_within_extended w (by decide), he]; omega
    simp [decodeNat_op59, decodeNat_op63, decodeOp59, decodeOp63, field_within_extended w (x := 26), fieldBits, fieldBit, hop,
      hd, ha, hb, he, hr, factor]

theorem decodes_float_abc {C} (h : C ∈ [Instr.fselx, .fmaddx, .fmaddsx, .fmsubx, .fmsubsx, .fnmaddx, .fnmaddsx, .fnmsubx,
    .fnmsubsx]) (d a b c : BitVec 5) (r : Bool) : Decodes (C d a b c r) := by
  have := Laws.toNat_lt_two r
  fin_cases h
  all_goals
    simp only [Decodes, encodeNat, Nat.add_assoc]
    refine decodes_of_parts d.toNat a.toNat b.toNat (c.toNat * 32) r.toNat (by omega) fun w hop hd ha hb he hr => ?_
    have factor : field w 21 25 = c.toNat := by rw [field_within_extended w (by decide), he]; omega
    simp [decodeNat_op59, decodeNat_op63, decodeOp59, decodeOp63, field_within_extended w (x := 26), fieldBits, fieldBit, hop,
      hd, ha, hb, he, hr, factor]

theorem decodes_float_b {C} (h : C ∈ [Instr.fsqrtx, .fsqrtsx, .fresx, .frsqrtex, .fmrx, .fnegx, .fabsx, .fnabsx, .frspx, .fctiwx,
    .fctiwzx, .fctidx, .fctidzx, .fcfidx]) (d b : BitVec 5) (r : Bool) : Decodes (C d b r) := by
  have := Laws.toNat_lt_two r
  fin_cases h
  all_goals
    simp only [Decodes, encodeNat, Nat.add_assoc]
    refine decodes_of_parts d.toNat 0 b.toNat 0 r.toNat (by omega) fun w hop hd ha hb he hr => ?_
    simp [decodeNat_op59, decodeNat_op63, decodeOp59, decodeOp63, field_within_extended, fieldBits, fieldBit, hop, hd, ha, hb,
      he, hr]

theorem decodes_float_d {C} (h : C ∈ [Instr.mffsx, .mtfsb0x, .mtfsb1x]) (d : BitVec 5) (r : Bool) : Decodes (C d r) := by
  have := Laws.toNat_lt_two r
  fin_cases h
  all_goals
    simp only [Decodes, encodeNat, Nat.add_assoc]
    refine decodes_of_parts d.toNat 0 0 0 r.toNat (by omega) fun w hop hd ha hb he hr => ?_
    rw [decodeNat_op63 hop]
    simp [decodeOp63, field_within_extended, field_join_a, fieldBits, fieldBit, hd, ha, hb, he, hr]

theorem decodes_float_compare {C} (h : C ∈ [Instr.fcmpu, .fcmpo]) (f : BitVec 3) (a b : BitVec 5) : Decodes (C f a b) := by
  fin_cases h
  all_goals
    simp only [Decodes, encodeNat, Nat.add_assoc]
    refine decodes_of_parts (f.toNat * 4) a.toNat b.toNat 0 0 (by omega) fun w hop hd ha hb he hr => ?_
    have crf : field w 6 8 = f.toNat := by rw [field_within_d w (by decide), hd]; omega
    have reserved : field w 9 10 = 0 := by rw [field_within_d w (by decide), hd]; omega
    rw [decodeNat_op63 hop]
    simp [decodeOp63, field_within_extended, fieldBits, crf, reserved, ha, hb, he, hr]

theorem decodes_mtfsfx (m : BitVec 8) (b : BitVec 5) (r : Bool) : Decodes (.mtfsfx m b r) := by
  have := Laws.toNat_lt_two r
  simp only [Decodes, encodeNat, Nat.add_assoc]
  refine decodes_of_parts (m.toNat / 16) (m.toNat % 16 * 2) b.toNat 0 r.toNat (by omega) fun w hop hd ha hb he hr => ?_
  have reserved : field w 6 6 = 0 := by rw [field_within_d w (by decide), hd]; omega
  have reserved' : field w 15 15 = 0 := by rw [field_within_a w (by decide), ha]; omega
  have mask : field w 7 14 = m.toNat := by
    rw [field_join_d w (by decide), field_within_d w (x := 7) (by decide), field_within_a w (x := 11) (by decide), hd, ha]
    omega
  rw [decodeNat_op63 hop]
  simp [decodeOp63, field_within_extended, fieldBits, fieldBit, hb, he, hr, reserved, reserved', mask]

theorem decodes_mtfsfix (f : BitVec 3) (n : BitVec 4) (r : Bool) : Decodes (.mtfsfix f n r) := by
  have := Laws.toNat_lt_two r
  simp only [Decodes, encodeNat, Nat.add_assoc]
  refine decodes_of_parts (f.toNat * 4) 0 (n.toNat * 2) 0 r.toNat (by omega) fun w hop hd ha hb he hr => ?_
  have crf : field w 6 8 = f.toNat := by rw [field_within_d w (by decide), hd]; omega
  have reserved : field w 9 15 = 0 := by
    rw [field_join_d w (by decide), field_within_d w (by decide), hd, ha]; omega
  have value : field w 16 19 = n.toNat := by rw [field_within_b w (by decide), hb]; omega
  have reserved' : field w 20 20 = 0 := by rw [field_within_b w (by decide), hb]; omega
  rw [decodeNat_op63 hop]
  simp [decodeOp63, field_within_extended, fieldBits, fieldBit, he, hr, crf, reserved, value, reserved']

/-! ## All instructions -/

/-- The rows without operands. -/
theorem decodes_constant {i : Instr} (h : i ∈ [Instr.sc, .rfi, .rfid, .sync, .isync, .eieio, .slbia, .tlbia, .tlbsync]) :
    Decodes i := by
  fin_cases h <;> exact ⟨by decide, rfl⟩

theorem decodes (i : Instr) : Decodes i := by
  cases i with
  | tdi d a n | twi d a n | mulli d a n | subfic d a n | addic d a n | addicDot d a n | addi d a n | addis d a n
  | ori d a n | oris d a n | xori d a n | xoris d a n | andiDot d a n | andisDot d a n | lwz d a n | lwzu d a n
  | lbz d a n | lbzu d a n | stw d a n | stwu d a n | stb d a n | stbu d a n | lhz d a n | lhzu d a n | lha d a n
  | lhau d a n | sth d a n | sthu d a n | lmw d a n | stmw d a n | lfs d a n | lfsu d a n | lfd d a n | lfdu d a n
  | stfs d a n | stfsu d a n | stfd d a n | stfdu d a n => exact decodes_d (by simp) d a n
  | cmpi f l a n | cmpli f l a n => exact decodes_compareImmediate (by simp) f l a n
  | lwa d a n | ld d a n | ldu d a n | std d a n | stdu d a n => exact decodes_ds (by simp) d a n
  | rlwinmx d a b mb me r | rlwnmx d a b mb me r | rlwimix d a b mb me r => exact decodes_m (by simp) d a b mb me r
  | rldiclx d a s m r | rldicrx d a s m r | rldicx d a s m r | rldimix d a s m r =>
    exact decodes_md (by simp) d a s m r
  | rldclx d a b m r | rldcrx d a b m r => exact decodes_mds (by simp) d a b m r
  | addx d a b o r | addcx d a b o r | addex d a b o r | subfx d a b o r | subfcx d a b o r | subfex d a b o r
  | mullwx d a b o r | mulldx d a b o r | divwx d a b o r | divwux d a b o r | divdx d a b o r | divdux d a b o r =>
    exact decodes_xo (by simp) d a b o r
  | addmex d a o r | addzex d a o r | subfmex d a o r | subfzex d a o r | negx d a o r =>
    exact decodes_xo_unary (by simp) d a o r
  | mulhwx d a b r | mulhwux d a b r | mulhdx d a b r | mulhdux d a b r | andx d a b r | orx d a b r | xorx d a b r
  | nandx d a b r | norx d a b r | eqvx d a b r | andcx d a b r | orcx d a b r | slwx d a b r | srwx d a b r
  | srawx d a b r | srawix d a b r | sldx d a b r | srdx d a b r | sradx d a b r =>
    exact decodes_x31_rc (by simp) d a b r
  | extsbx d a r | extshx d a r | extswx d a r | cntlzwx d a r | cntlzdx d a r =>
    exact decodes_x31_unary (by simp) d a r
  | lbzx d a b | lbzux d a b | lhzx d a b | lhzux d a b | lhax d a b | lhaux d a b | lwzx d a b | lwzux d a b
  | lwax d a b | lwaux d a b | ldx d a b | ldux d a b | stbx d a b | stbux d a b | sthx d a b | sthux d a b
  | stwx d a b | stwux d a b | stdx d a b | stdux d a b | lhbrx d a b | lwbrx d a b | sthbrx d a b | stwbrx d a b
  | lswi d a b | lswx d a b | stswi d a b | stswx d a b | lfsx d a b | lfsux d a b | lfdx d a b | lfdux d a b
  | stfsx d a b | stfsux d a b | stfdx d a b | stfdux d a b | stfiwx d a b | tw d a b | td d a b | lwarx d a b
  | ldarx d a b | eciwx d a b | ecowx d a b | stwcxDot d a b | stdcxDot d a b => exact decodes_x31 (by simp) d a b
  | dcbt a b | dcbtst a b | dcbst a b | dcbf a b | dcbi a b | dcba a b | dcbz a b | icbi a b =>
    exact decodes_x31_block (by simp) a b
  | mfcr d | mfmsr d | mtmsr d | mtmsrd d => exact decodes_x31_d (by simp) d
  | mfsrin d b | mtsrin d b | mtsrdin d b => exact decodes_x31_db (by simp) d b
  | slbie b | tlbie b => exact decodes_x31_b (by simp) b
  | mfsr d n | mtsr d n | mtsrd d n => exact decodes_segment (by simp) d n
  | mfspr d n | mtspr d n | mftb d n => exact decodes_xfx (by simp) d n
  | cmp f l a b | cmpl f l a b => exact decodes_compare (by simp) f l a b
  | bclrx d a r | bcctrx d a r => exact decodes_branchRegister (by simp) d a r
  | crand d a b | cror d a b | crxor d a b | crnand d a b | crnor d a b | creqv d a b | crandc d a b | crorc d a b =>
    exact decodes_crLogical (by simp) d a b
  | mcrf f g | mcrfs f g => exact decodes_moveField (by simp) f g
  | faddx d a b r | faddsx d a b r | fsubx d a b r | fsubsx d a b r | fdivx d a b r | fdivsx d a b r =>
    exact decodes_float_ab (by simp) d a b r
  | fmulx d a c r | fmulsx d a c r => exact decodes_float_ac (by simp) d a c r
  | fselx d a b c r | fmaddx d a b c r | fmaddsx d a b c r | fmsubx d a b c r | fmsubsx d a b c r | fnmaddx d a b c r
  | fnmaddsx d a b c r | fnmsubx d a b c r | fnmsubsx d a b c r => exact decodes_float_abc (by simp) d a b c r
  | fsqrtx d b r | fsqrtsx d b r | fresx d b r | frsqrtex d b r | fmrx d b r | fnegx d b r | fabsx d b r
  | fnabsx d b r | frspx d b r | fctiwx d b r | fctiwzx d b r | fctidx d b r | fctidzx d b r | fcfidx d b r =>
    exact decodes_float_b (by simp) d b r
  | mffsx d r | mtfsb0x d r | mtfsb1x d r => exact decodes_float_d (by simp) d r
  | fcmpu f a b | fcmpo f a b => exact decodes_float_compare (by simp) f a b
  | bcx bo bi bd aa lk => exact decodes_bcx bo bi bd aa lk
  | bx li aa lk => exact decodes_bx li aa lk
  | sradix d a s r => exact decodes_sradix d a s r
  | mtcrf d m => exact decodes_mtcrf d m
  | mcrxr f => exact decodes_mcrxr f
  | mtfsfx m b r => exact decodes_mtfsfx m b r
  | mtfsfix f n r => exact decodes_mtfsfix f n r
  | sc | rfi | rfid | sync | isync | eieio | slbia | tlbia | tlbsync => exact decodes_constant (by simp)

/-- Settles O1: `encode` drops no bit of the word, and the word's parts select the row and give its operands. -/
theorem decodeEncode : Obligations.DecodeEncode := by
  unfold Obligations.DecodeEncode
  intro i
  obtain ⟨fits, decoded⟩ := decodes i
  have word : (encode i).toNat = encodeNat i := by
    rw [encode, BitVec.toNat_ofNat, Nat.mod_eq_of_lt fits]
  rw [decode, word]
  exact decoded

end Sys2Proof
end

section
/-!
PROOFS. What becomes of a word (30_encoding R160 to R165, R172): the words of the vectors, invalid forms, illegal words and reserved
bits, and the step that fetches a word and runs it.
-/

namespace Sys2Proof.Machine

/-! ## Words of the vectors (O3) -/

/-- Settles O3: the decoder runs on each of the eight words. -/
theorem wordsDecode : Obligations.WordsDecode := by
  unfold Obligations.WordsDecode
  refine ⟨?addi, ?rldicr, ?mfspr, ?stwcx, ?fmadd, ?bcctr, ?reserved, ?illegal⟩ <;> decide

/-! ## Invalid forms (O23) -/

/-- Where no exception comes first, an invalid form stops. -/
theorem guarded_invalid {i : Instr} {s : State} {k : Result} (p : preCheck i s = none)
    (f : i.wellFormed s.cfg.impl64 = false) : guarded i s k = .fault .invalidForm := by
  rw [guarded, p]
  simp only [formOk, f, Bool.false_eq_true, if_false]

/-- The instructions that R165 gives invalid forms are checked for them: compares, loads and stores with update, `lmw`, string
loads and `bcctr`. Of every other instruction each form is valid. -/
theorem exec_guarded_of_invalid {i : Instr} {impl64 : Bool} (f : i.wellFormed impl64 = false) (s : State) :
    ∃ k, exec i s = guarded i s k := by
  cases i with
  | cmpi | cmp | cmpli | cmpl => exact ⟨_, rfl⟩
  | lbzu | lbzux | lhzu | lhzux | lhau | lhaux | lwzu | lwzux | lwaux | ldu | ldux => exact ⟨_, rfl⟩
  | stbu | stbux | sthu | sthux | stwu | stwux | stdu | stdux => exact ⟨_, rfl⟩
  | lfsu | lfsux | lfdu | lfdux | stfsu | stfsux | stfdu | stfdux => exact ⟨_, rfl⟩
  | lmw | lswi | lswx => exact ⟨_, rfl⟩
  | bcctrx => exact ⟨_, rfl⟩
  | _ => cases f

/-- Settles O23: an instruction with invalid forms is guarded, and a guarded instruction stops at one. -/
theorem invalidFormsStop : Obligations.InvalidFormsStop := by
  unfold Obligations.InvalidFormsStop
  intro s i p f
  obtain ⟨k, e⟩ := exec_guarded_of_invalid f s
  rw [e]
  exact guarded_invalid p f

/-! ## Illegal words and reserved bits (O5) -/

section
variable {s : State} {w : Word} {i : Instr}

theorem runWord_ok (h : decode w = .ok i) : runWord w s = afterInstr i s (exec i s) := by rw [runWord, h]

theorem runWord_illegal (h : decode w = .illegal) : runWord w s = .next (enter (.program .illegal) s.nia s) := by
  rw [runWord, h]
  rfl

theorem runWord_reserved (h : decode w = .reserved i) (p : preCheck i s = none) :
    runWord w s = .fault .reservedBitsNonZero := by
  rw [runWord, h]
  simp only [p]

theorem runWord_reserved_raise {e : Exc} (h : decode w = .reserved i) (p : preCheck i s = some e) :
    runWord w s = .next (enter e s.nia s) := by
  rw [runWord, h]
  simp only [p, raise]

end

/-- The low-order word of a value is the same in a register of either width. -/
theorem State.norm_getMsbD (s : State) (v : Dword) {k : Nat} (low_word : 32 ≤ k) : (s.norm v).getMsbD k = v.getMsbD k := by
  have narrow : (zext (low v)).getMsbD k = v.getMsbD k := by
    simp only [zext, low, BitVec.getMsbD_eq_getLsbD]
    grind
  unfold State.norm
  split
  · rfl
  · exact narrow

/-- The vector depends on MSR[IP] alone, which is in the low-order word. -/
theorem vectorBase_norm (s : State) (msr : Dword) : vectorBase (s.norm msr) = vectorBase msr := by
  rw [vectorBase, s.norm_getMsbD msr (by decide), vectorBase]

/-- An entry leaves user mode. -/
theorem enter_pr (e : Exc) (ret : Dword) (s : State) : (enter e ret s).pr = false := by
  have clears : entryClears.getMsbD 49 = true := by decide
  have sf : (entrySf s.cfg.impl64).getMsbD 49 = false := by cases s.cfg.impl64 <;> decide
  have le : (entryLe s.msr).getMsbD 49 = false := by cases h : s.msr.getMsbD 47 <;> simp only [entryLe, h] <;> decide
  rw [State.pr, enter_msr, s.norm_getMsbD _ (by decide), entryMsr]
  simp only [BitVec.getMsbD_or, BitVec.getMsbD_and, BitVec.getMsbD_not, clears, sf, le]
  simp

/-- The status bits of an exception in the low-order word are 1 in SRR1. -/
theorem enter_srr1_status (e : Exc) (ret : Dword) (s : State) {k : Nat} (low_word : 32 ≤ k)
    (status : e.status.getMsbD k = true) : (enter e ret s).srr1.getMsbD k = true := by
  rw [enter_srr1, s.norm_getMsbD _ low_word, entrySrr1, BitVec.getMsbD_or, status, Bool.or_true]

/-- The pc after an entry is the vector of the exception in the table that MSR[IP] selects. -/
theorem enter_nia_vector (e : Exc) (ret : Dword) (s : State) :
    (enter e ret s).nia = vectorBase (enter e ret s).msr + e.offset := by
  rw [enter_nia, enter_msr, vectorBase_norm]

/-- Settles O5: a word's outcome is that of its decoding, and the illegal instruction exception is an entry like any other. -/
theorem badWords : Obligations.BadWords := by
  unfold Obligations.BadWords
  intro s w
  constructor
  · intro illegal
    have cause : (Exc.program .illegal).status.getMsbD 44 = true := by decide
    exact ⟨_, runWord_illegal illegal, rfl, rfl, enter_srr1_status _ _ s (by decide) cause, enter_nia_vector _ _ s,
      enter_pr _ _ s, enter_gpr _ _ s, fun a => by rw [enter_mem]⟩
  · intro i reserved
    exact ⟨runWord_reserved reserved, fun _ => runWord_reserved_raise reserved⟩

/-! ## The fetch (O4) -/

/-- The number that the low-order bytes of a value make. -/
theorem bigEndian_lowBytes (n : Nat) (v : Dword) : bigEndian (lowBytes n v) = v.toNat % 256 ^ n := by
  induction n with
  | zero => simp [lowBytes, bigEndian, Nat.mod_one]
  | succ n ih =>
    have head : ((v >>> (8 * n)).setWidth 8).toNat = v.toNat / 256 ^ n % 256 := by
      rw [BitVec.toNat_setWidth, BitVec.toNat_ushiftRight, Nat.shiftRight_eq_div_pow, Nat.pow_mul]
    have length : (lowBytes n v).length = n := by rw [lowBytes_eq, toBytes_length]
    rw [lowBytes, bigEndian, ih, head, length, Nat.mod_pow_succ, Nat.mul_comm, Nat.add_comm]

/-- A word is read back from its bytes. -/
theorem ofBytes_lowBytes_zext (w : Word) : ofBytes 32 (lowBytes 4 (zext w)) = w := by
  have value : (zext w).toNat = w.toNat := by rw [zext, BitVec.toNat_setWidth]; omega
  apply BitVec.eq_of_toNat_eq
  rw [ofBytes, ← bigEndian_eq, bigEndian_lowBytes, value, BitVec.toNat_ofNat]
  omega

/-- The word at an address in no stale block, whose bytes memory holds. -/
theorem readInstruction_of_holds {s : State} {pa : Dword} {w : Word} (fresh : ¬ staleWord s pa)
    (h : s.holds pa (lowBytes 4 (zext w))) : readInstruction pa s = .ok w s := by
  have read : s.mem.readAll (bytesFrom pa 4) = .ok (lowBytes 4 (zext w)) :=
    Memory.readAll_ok _ _ _ rfl fun k hk => by simpa using h k hk
  have current : (s.blocksOfWord pa).any s.staleInsn.contains = false :=
    Bool.eq_false_iff.mpr fun stale => fresh ((s.blocksOfWord_stale pa).mp stale)
  simp only [readInstruction, current, read, ofBytes_lowBytes_zext, Bool.false_eq_true, if_false]

section
variable {u v : State} {pa : Dword}

/-- In real addressing mode an instruction is fetched at its own address. -/
theorem fetch_real (current : u.staleFetch (u.ea32 u.nia) = false) (real : u.ir = false) :
    fetch u = readInstruction (u.ea32 u.nia) u := by
  have view : u.mmuView.ir = false := real
  have address : physical ((u.ea32 u.nia).extractLsb' 12 52) (u.ea32 u.nia) = u.ea32 u.nia := by
    unfold physical
    exact BitVec.extractLsb'_append_extractLsb'_eq_extractLsb' (by rfl) |>.trans (by simp)
  simp only [fetch, current, fetchResult, fetchXlate, view, realXlate, Bool.false_eq_true, if_false, Bool.false_and, address]
  rfl

/-- With translation on, it is fetched where its address translates to, if that may be executed. -/
theorem fetch_translated (current : u.staleFetch (u.ea32 u.nia) = false) (on : u.ir = true) {f : BitVec 52} {a : Attributes}
    (translates : (Config.translate u.mmuView u.mem .fetch u.pr (u.ea32 u.nia)).result = .frame f a)
    (unguarded : a.guarded = false)
    (ordinary : ¬ directSegment u (Config.translate u.mmuView u.mem .fetch u.pr (u.ea32 u.nia)) (u.ea32 u.nia)) :
    fetch u = readInstruction (physical f (u.ea32 u.nia))
      (u.fill (Config.translate u.mmuView u.mem .fetch u.pr (u.ea32 u.nia))) := by
  have view : u.mmuView.ir = true := on
  have segment := Bool.eq_false_iff.mpr (mt (directStore_iff u _ _).mp ordinary)
  simp only [fetch, current, fetchResult, fetchXlate, view, translates, unguarded, segment, Bool.false_eq_true, if_false,
    if_true, Bool.or_false, Bool.and_false]

/-- A fetch that the statements describe reads the instruction's word. -/
theorem fetch_of_fetchesFrom (h : fetchesFrom u pa v) : fetch u = readInstruction pa v := by
  obtain ⟨current, ⟨real, rfl, rfl⟩ | ⟨on, f, a, translates, unguarded, ordinary, rfl, rfl⟩⟩ := h
  · exact fetch_real current real
  · exact fetch_translated current on translates unguarded ordinary

/-- It leaves the blocks' marks, and their size, as they are. -/
theorem staleWord_of_fetchesFrom (h : fetchesFrom u pa v) (q : Dword) : staleWord v q ↔ staleWord u q := by
  obtain ⟨-, ⟨-, -, rfl⟩ | ⟨-, _, _, -, -, -, -, rfl⟩⟩ := h <;> rfl

end

theorem step_of_fetch {s v : State} {w : Word} (le : s.le = false) (pow : s.pow = false) (none : recognise s.environment = none)
    (fetched : fetch s.environment = .ok w v) : step s = runWord w v := by
  simp only [step, le, pow, none, fetched, Bool.false_eq_true, if_false, Access.ok_finish]

/-! ## After the instruction (O4) -/

theorem noteWrap_eq (t s : State) (i : Instr) :
    t.noteWrap s i = { t with stale := { t.stale with
      sfCut := t.stale.sfCut || (t.stale.sf && !isBranch i && s.nia == 0xFFFFFFFC && t.nia == 0) } } := by
  unfold State.noteWrap
  split
  · next wraps => rw [wraps, Bool.or_true]
  · next stays => rw [Bool.eq_false_iff.mpr stays, Bool.or_false]

theorem noteTrace_eq (t : State) (i : Instr) :
    t.noteTrace i = { t with
      tracePending := t.tracePending || (t.cfg.optTrace && ((t.se && !isReturn i) || (t.be && isBranch i))) } := by
  unfold State.noteTrace
  split
  · next due => rw [due, Bool.or_true]
  · next not_due => rw [Bool.eq_false_iff.mpr not_due, Bool.or_false]

/-- Settles O4: the fetch that the statement describes gives the word, and both notes are the updates that it writes out. -/
theorem stepRunsInstruction : Obligations.StepRunsInstruction := by
  unfold Obligations.StepRunsInstruction
  intro s pa v w u le pow none fetches fresh holds
  have read : readInstruction pa v = .ok w v :=
    readInstruction_of_holds (mt (staleWord_of_fetchesFrom fetches pa).mp fresh) holds
  have runs : step s = runWord w v := step_of_fetch le pow none ((fetch_of_fetchesFrom fetches).trans read)
  refine ⟨runs, fun i decodes => ?_⟩
  rw [runs, runWord_ok decodes]
  cases exec i v with
  | next t => rw [afterInstr, noteTrace_eq, noteWrap_eq]; rfl
  | fault f => rfl
  | refused f => rfl

end Sys2Proof.Machine
end

section
/-!
PROOFS. Integer arithmetic (40_integer_arithmetic R201 to R229). Every instruction of the family ends alike: it writes rD, then
XER, then CR0. That end is reasoned about once (`State.completes`); what an instruction has of its own is its numbers.
-/

namespace Sys2Proof.Machine

/-! ## Words in registers -/

@[simp] theorem low_zext (w : Word) : low (zext w) = w :=
  (BitVec.setWidth_setWidth_of_le w (by decide)).trans (BitVec.setWidth_eq w)

@[simp] theorem low_joinWords (h l : Word) : low (joinWords h l) = l := BitVec.setWidth_append_eq_right

@[simp] theorem State.norm_zext (s : State) (w : Word) : s.norm (zext w) = zext w := by
  rw [State.norm, low_zext, ite_self]

/-! ## XER -/

/-- CA, and OV with SO, take what is given or stay: the change of the XER that all these instructions share. -/
def State.setXer (s : State) (ca ov : Option Bool) : State :=
  match ca, ov with
  | none, none => s
  | some c, none => s.setCa c
  | none, some v => s.setOv v
  | some c, some v => (s.setCa c).setOv v

theorem State.setXer_frame (s : State) (ca ov : Option Bool) : s.setXer ca ov = { s with xer := (s.setXer ca ov).xer } := by
  cases ca <;> cases ov <;> rfl

@[simp] theorem State.setXer_getGpr (s : State) (ca ov : Option Bool) (q : BitVec 5) :
    (s.setXer ca ov).getGpr q = s.getGpr q := by rw [s.setXer_frame]; rfl
@[simp] theorem State.setXer_cr (s : State) (ca ov : Option Bool) : (s.setXer ca ov).cr = s.cr := by rw [s.setXer_frame]
@[simp] theorem State.setXer_draws (s : State) (ca ov : Option Bool) : (s.setXer ca ov).draws = s.draws := by rw [s.setXer_frame]
@[simp] theorem State.setXer_mode64 (s : State) (ca ov : Option Bool) : (s.setXer ca ov).mode64 = s.mode64 := by
  rw [s.setXer_frame]; rfl

theorem State.setXer_effect (s : State) (ca ov : Option Bool) : xerEffect s (s.setXer ca ov) ca ov := by
  cases ca <;> cases ov <;> simp [xerEffect, State.setXer, State.setCa_xer, State.setOv_xer]

/-! ## CR0 -/

/-- The last bit of a comparison's field is SO. -/
theorem orderOf_so (a b : Int) (so : Bool) : (orderOf a b so).getLsbD 0 = so := by
  unfold orderOf
  split_ifs <;> simp_all

/-- So is the last bit of a field whose other bits are undefined. -/
theorem ofBool_last (x : BitVec 3) (so : Bool) : (x ++ BitVec.ofBool so).getLsbD 0 = so := by
  rw [BitVec.getLsbD_append]
  cases so <;> rfl

theorem State.recordUndefined_crField (s : State) (q : BitVec 3) :
    s.recordUndefined.crField q = if q = 0 then s.draw 3 ++ BitVec.ofBool s.so else s.crField q :=
  s.setCrField_crField 0 q _

/-- `t` is `w` with CR0 recorded when `rc`, perhaps from a draw. -/
structure State.Records (w t : State) (rc : Bool) : Prop where
  frame : t = { w with cr := t.cr, draws := t.draws }
  kept : crKept w t [0]
  unrecorded : rc = false → t.cr = w.cr

section
variable (w : State)

theorem State.records_refl : w.Records w false := ⟨rfl, fun _ _ => rfl, fun _ => rfl⟩

theorem State.recordCr0_records (v : Dword) : w.Records (w.recordCr0 v) true := by
  refine ⟨rfl, fun q other => ?_, nofun⟩
  rw [w.recordCr0_crField, if_neg (by simpa using other)]

theorem State.recordUndefined_records : w.Records w.recordUndefined true := by
  refine ⟨rfl, fun q other => ?_, nofun⟩
  rw [w.recordUndefined_crField, if_neg (by simpa using other)]

theorem State.recordIf_records (rc : Bool) (v : Dword) : w.Records (w.recordIf rc v) rc := by
  cases rc with
  | false => exact w.records_refl
  | true => exact w.recordCr0_records v

theorem State.recordUndefinedIf_records (rc : Bool) : w.Records (if rc then w.recordUndefined else w) rc := by
  cases rc with
  | false => exact w.records_refl
  | true => exact w.recordUndefined_records

theorem State.recordWordIf_records (rc : Bool) (x : Word) : w.Records (w.recordWordIf rc x) rc := by
  cases rc with
  | false => exact w.records_refl
  | true =>
    rw [State.recordWordIf, if_pos rfl]
    split
    · exact w.recordUndefined_records
    · exact w.recordCr0_records (zext x)

end

/-! ## rD -/

/-- `u` is `s` with rD written, perhaps from a draw. -/
structure State.WritesGpr (s u : State) (rd : BitVec 5) : Prop where
  frame : u = { s with gpr := u.gpr, draws := u.draws }
  kept : gprsKept s u [rd]

theorem State.setGpr_writesGpr (s : State) (rd : BitVec 5) (v : Dword) : s.WritesGpr (s.setGpr rd v) rd := by
  refine ⟨rfl, fun q other => ?_⟩
  rw [s.setGpr_getGpr, if_neg (by simpa using other)]

theorem State.WritesGpr.drew {s u : State} {rd : BitVec 5} (h : s.WritesGpr u rd) : s.WritesGpr u.drew rd :=
  ⟨congrArg State.drew h.frame, h.kept⟩

theorem State.setGprWord_writesGpr (s : State) (rd : BitVec 5) (w : Word) : s.WritesGpr (s.setGprWord rd w) rd := by
  unfold State.setGprWord
  split
  · exact (s.setGpr_writesGpr rd _).drew
  · exact s.setGpr_writesGpr rd _

/-- The low half of rD after a word has been written. -/
theorem State.setGprWord_low (s : State) (rd : BitVec 5) (w : Word) : low ((s.setGprWord rd w).getGpr rd) = w := by
  unfold State.setGprWord
  split
  · next wide => simp [State.norm, wide]
  · simp

/-- On a 32-bit implementation the word is all of rD. -/
theorem State.setGprWord_narrow {s : State} (narrow : s.cfg.impl64 = false) (rd : BitVec 5) (w : Word) :
    (s.setGprWord rd w).getGpr rd = zext w := by
  simp [State.setGprWord, narrow]

/-! ## The end of an instruction -/

/-- What every end of these instructions does beside the values of rD and CR0. -/
structure State.Completes (s t : State) (rd : BitVec 5) (ca ov : Option Bool) (rc : Bool) : Prop where
  frame : integerFrame s t
  kept : gprsKept s t [rd]
  xer : xerEffect s t ca ov
  crKept : crKept s t [0]
  unrecorded : rc = false → t.cr = s.cr

section
variable {s u t : State} {rd : BitVec 5} {ca ov : Option Bool} {rc : Bool}

theorem State.WritesGpr.cr (g : s.WritesGpr u rd) : u.cr = s.cr := by rw [g.frame]

theorem State.WritesGpr.xer (g : s.WritesGpr u rd) : u.xer = s.xer := by rw [g.frame]

theorem State.WritesGpr.mode64 (g : s.WritesGpr u rd) : u.mode64 = s.mode64 := by rw [g.frame]; rfl

theorem State.Records.getGpr (h : s.Records t rc) (q : BitVec 5) : t.getGpr q = s.getGpr q := by rw [h.frame]; rfl

theorem State.Records.xer (h : s.Records t rc) : t.xer = s.xer := by rw [h.frame]

theorem State.Records.so (h : s.Records t rc) : t.so = s.so := congrArg (·.getMsbD 0) h.xer

theorem xerEffect_congr {s' t' : State} (before : s'.xer = s.xer) (after : t'.xer = t.xer) (h : xerEffect s t ca ov) :
    xerEffect s' t' ca ov := by
  simpa only [xerEffect, State.ca, State.ov, State.so, before, after] using h

theorem State.crField_congr (same : t.cr = s.cr) (q : BitVec 3) : t.crField q = s.crField q := by
  rw [State.crField, same, State.crField]

theorem State.signedPart_congr (same : t.mode64 = s.mode64) (v : Dword) : t.signedPart v = s.signedPart v := by
  rw [State.signedPart, same, State.signedPart]

/-- An instruction that writes rD, then XER, then CR0, and completes. -/
theorem State.completes (g : s.WritesGpr u rd) (h : (u.setXer ca ov).Records t rc) : s.Completes t.advance rd ca ov rc where
  frame := by
    refine ⟨?_, fun a => ?_⟩ <;> rw [h.frame, u.setXer_frame, g.frame] <;> rfl
  kept q other := (h.getGpr q).trans ((u.setXer_getGpr ca ov q).trans (g.kept q other))
  xer := xerEffect_congr g.xer.symm h.xer (u.setXer_effect ca ov)
  crKept q other := (h.kept q other).trans (State.crField_congr ((u.setXer_cr ca ov).trans g.cr) q)
  unrecorded off := (h.unrecorded off).trans ((u.setXer_cr ca ov).trans g.cr)

end

/-- An instruction whose result is defined in full. -/
theorem integerEffect_done (s : State) (rd : BitVec 5) (v : Dword) (ca ov : Option Bool) (rc : Bool) :
    integerEffect s rd v ca ov rc (done (((s.setGpr rd v).setXer ca ov).recordIf rc v)) := by
  have records := ((s.setGpr rd v).setXer ca ov).recordIf_records rc v
  have ends := State.completes (s.setGpr_writesGpr rd v) records
  refine ⟨_, rfl, ends.frame, ?draws, ?rd, ends.kept, ends.xer, ?cr0, ends.crKept⟩
  case draws => cases rc <;> exact (s.setGpr rd v).setXer_draws ca ov
  case rd => rw [State.advance_getGpr, records.getGpr, State.setXer_getGpr, s.setGpr_getGpr, if_pos rfl]
  case cr0 =>
    cases rc with
    | false => exact State.crField_congr (ends.unrecorded rfl) 0
    | true =>
      have mode : s.signedPart v = ((s.setGpr rd v).setXer ca ov).signedPart v := State.signedPart_congr (by simp) v
      rw [if_pos rfl, State.advance_so, records.so, mode]
      exact State.recordCr0_crField _ v 0

/-- An instruction whose result is a word, the high half of rD undefined on a 64-bit implementation. -/
theorem wordEffect_done (s : State) (rd : BitVec 5) (w : Word) (ov : Option Bool) (rc : Bool) :
    wordEffect s rd w ov rc (done (((s.setGprWord rd w).setXer none ov).recordWordIf rc w)) := by
  have writes := s.setGprWord_writesGpr rd w
  have records := ((s.setGprWord rd w).setXer none ov).recordWordIf_records rc w
  have ends := State.completes writes records
  have value : (((s.setGprWord rd w).setXer none ov).recordWordIf rc w).getGpr rd = (s.setGprWord rd w).getGpr rd := by
    rw [records.getGpr, State.setXer_getGpr]
  have mode : ((s.setGprWord rd w).setXer none ov).mode64 = s.mode64 := by rw [State.setXer_mode64, writes.mode64]
  refine ⟨_, rfl, ends.frame, ?low, ?narrow, ends.kept, ends.xer, ends.crKept, ends.unrecorded, ?so, ?cr0⟩
  case low => rw [State.advance_getGpr, value, State.setGprWord_low]
  case narrow => exact fun narrow => value.trans (State.setGprWord_narrow narrow rd w)
  case so =>
    rintro rfl
    rw [State.advance_so, records.so, State.advance_crField, State.recordWordIf, if_pos rfl]
    split
    · rw [State.recordUndefined_crField, if_pos rfl, ofBool_last]
    · rw [State.recordCr0_crField, if_pos rfl, orderOf_so]
  case cr0 =>
    rintro rfl narrow
    rw [State.advance_so, records.so, State.advance_crField, State.recordWordIf, if_pos rfl, mode, narrow, if_neg (by decide),
      State.recordCr0_crField, if_pos rfl, State.signedPart, mode, narrow, if_neg (by decide), low_zext]

/-- A division with no defined quotient. -/
theorem undefinedEffect_finishBadDivide (s : State) (rd : BitVec 5) (oe rc : Bool) :
    undefinedEffect s rd oe rc (finishBadDivide rd oe rc s) := by
  have writes := (s.setGpr_writesGpr rd (s.draw 64)).drew
  have records := ((s.setGpr rd (s.draw 64)).drew.setXer none (if oe then some true else none)).recordUndefinedIf_records rc
  have ends := State.completes writes records
  refine ⟨_, ?next, ends.frame, ends.kept, ends.xer, ends.crKept, ends.unrecorded, ?so⟩
  case next => cases oe <;> rfl
  case so =>
    rintro rfl
    rw [State.advance_so, records.so, State.advance_crField, if_pos rfl, State.recordUndefined_crField, if_pos rfl, ofBool_last]

/-- An adding instruction ends so, with the sum, carry and overflow that it is given. -/
theorem finishAdd_eq (rd : BitVec 5) (carries oe rc : Bool) (r : AddResult) (s : State) :
    finishAdd rd carries oe rc r s = done (((s.setGpr rd r.sum).setXer (if carries then some r.ca else none)
      (if oe then some r.ov else none)).recordIf rc r.sum) := by
  cases carries <;> cases oe <;> rfl

section
variable {s : State} {i : Instr} {rd : BitVec 5} {oe rc ov : Bool}

theorem integerEffect_of_exec {v v' : Dword} (e : exec i s = finishResult rd oe rc ov v' s) (value : v' = v) :
    integerEffect s rd v none (if oe then some ov else none) rc (exec i s) := by
  rw [e, value]
  cases oe <;> exact integerEffect_done s rd v none _ rc

theorem wordEffect_of_exec {w w' : Word} (e : exec i s = finishWord rd oe rc ov w' s) (value : w' = w) :
    wordEffect s rd w (if oe then some ov else none) rc (exec i s) := by
  rw [e, value]
  cases oe <;> exact wordEffect_done s rd w _ rc

theorem undefinedEffect_of_exec (e : exec i s = finishBadDivide rd oe rc s) : undefinedEffect s rd oe rc (exec i s) := by
  rw [e]
  exact undefinedEffect_finishBadDivide s rd oe rc

end

/-! ## Carry and overflow (R201, R202) -/

/-- The overflow that `add3` reads off the signs is that of the exact signed sum. -/
theorem signedOverflow_add {w : Nat} (pos : 0 < w) (x y : BitVec w) (c : Bool) :
    signedOverflow x y (x + y + BitVec.ofNat w c.toNat) = outside w (x.toInt + y.toInt + c.toNat) := by
  obtain ⟨n, rfl⟩ : ∃ n, w = n + 1 := ⟨w - 1, by omega⟩
  have hc : c.toNat < 2 := Bool.toNat_lt c
  have hx := x.isLt
  have hy := y.isLt
  have pow : (2 : Int) ^ n = ((2 ^ n : Nat) : Int) := by norm_cast
  have sum : (x + y + BitVec.ofNat (n + 1) c.toNat).toNat = (x.toNat + y.toNat + c.toNat) % 2 ^ (n + 1) := by
    simp [BitVec.toNat_add]
  have wraps : (x.toNat + y.toNat + c.toNat) % 2 ^ (n + 1) =
      if x.toNat + y.toNat + c.toNat < 2 ^ (n + 1) then x.toNat + y.toNat + c.toNat
      else x.toNat + y.toNat + c.toNat - 2 ^ (n + 1) := by
    split
    · next small => exact Nat.mod_eq_of_lt small
    · next large => rw [Nat.mod_eq_sub_mod (by omega), Nat.mod_eq_of_lt (by omega)]
  rw [Bool.eq_iff_iff]
  simp only [signedOverflow, outside, BitVec.msb_eq_decide, BitVec.toInt_eq_toNat_cond, sum.trans wraps, Nat.add_sub_cancel,
    pow, Bool.and_eq_true, beq_iff_eq, bne_iff_ne, decide_eq_true_eq]
  rw [Nat.pow_succ] at hx hy ⊢
  grind

/-- Sum, carry and overflow of `add3` are those of the exact sums in the mode's width. -/
theorem add3_eq (s : State) (x y : Dword) (c : Bool) : add3 s.mode64 x y c =
    { sum := BitVec.ofNat 64 (x.toNat + y.toNat + c.toNat)
      ca := decide (2 ^ s.width ≤ s.unsignedPart x + s.unsignedPart y + c.toNat)
      ov := outside s.width (s.signedPart x + s.signedPart y + c.toNat) } := by
  have sum : x + y + BitVec.ofNat 64 c.toNat = BitVec.ofNat 64 (x.toNat + y.toNat + c.toNat) := by
    simp [BitVec.ofNat_add]
  have lowSum : low (x + y + BitVec.ofNat 64 c.toNat) = low x + low y + BitVec.ofNat 32 c.toNat := by
    simp [low, BitVec.setWidth_add, BitVec.setWidth_ofNat_of_le]
  cases mode : s.mode64 with
  | true =>
    have hx : x.toNat % 2 ^ 64 = x.toNat := Nat.mod_eq_of_lt x.isLt
    have hy : y.toNat % 2 ^ 64 = y.toNat := Nat.mod_eq_of_lt y.isLt
    simp only [add3, if_true, State.width, State.unsignedPart, State.signedPart, mode, carryOut, hx, hy,
      signedOverflow_add (by decide : 0 < 64)]
    rw [sum]
  | false =>
    simp only [add3, if_false, Bool.false_eq_true, State.width, State.unsignedPart, State.signedPart, mode, carryOut, lowSum,
      signedOverflow_add (by decide : 0 < 32)]
    rw [sum]
    simp [low]

/-! ## Adding (O24) -/

theorem addEffect_finishAdd (s : State) (rd : BitVec 5) (carries oe rc : Bool) (x y : Dword) (c : Bool) :
    addEffect s rd carries oe rc x y c (finishAdd rd carries oe rc (add3 s.mode64 x y c) s) := by
  rw [finishAdd_eq, add3_eq]
  exact integerEffect_done ..

/-- A sum that sets no flags. -/
theorem addEffect_setGpr {s : State} {rd : BitVec 5} {x y v : Dword} (sum : v = x + y) :
    addEffect s rd false false false x y false (done (s.setGpr rd v)) := by
  have exact_sum : BitVec.ofNat 64 (x.toNat + y.toNat + false.toNat) = v := by simp [sum, BitVec.ofNat_add]
  rw [addEffect, exact_sum]
  exact integerEffect_done s rd v none none false

/-- The operand of `addis` is its immediate times 2^16. -/
theorem extShifted_eq (simm : BitVec 16) : extShifted simm = BitVec.ofInt 64 (simm.toInt * 65536) := by
  rw [extShifted, BitVec.signExtend, Int.mul_comm]
  exact congrArg (BitVec.ofInt 64) BitVec.toInt_append_zero

/-- Settles O24: the instructions end as `finishAdd` does with the flags of `add3`, or write a sum alone. -/
theorem addFamily : Obligations.AddFamily := by
  unfold Obligations.AddFamily
  intro s rd ra rb oe rc simm
  refine ⟨addEffect_setGpr rfl, addEffect_setGpr ?addis, ?_, ?_, ?_, ?_, ?_, ?_, ?_, ?_, ?_, ?_⟩
  case addis => rw [extShifted_eq]; rfl
  all_goals exact addEffect_finishAdd s rd _ _ _ _ _ _

/-! ## Subtracting (O25) -/

/-- The complement of a number reflects its range (R212). -/
theorem toInt_not_eq {w : Nat} (pos : 0 < w) (x : BitVec w) : (~~~ x).toInt = -1 - x.toInt := by
  obtain ⟨n, rfl⟩ : ∃ n, w = n + 1 := ⟨w - 1, by omega⟩
  have := x.isLt
  simp only [BitVec.toInt_eq_toNat_cond, BitVec.toNat_not]
  omega

theorem State.unsignedPart_not (s : State) (v : Dword) : s.unsignedPart (~~~ v) = 2 ^ s.width - 1 - s.unsignedPart v := by
  have := v.isLt
  rw [State.unsignedPart, State.unsignedPart, BitVec.toNat_not]
  obtain wide | narrow : s.width = 64 ∨ s.width = 32 := by unfold State.width; split <;> simp
  · rw [wide]; omega
  · rw [narrow]; omega

theorem State.signedPart_not (s : State) (v : Dword) : s.signedPart (~~~ v) = -1 - s.signedPart v := by
  unfold State.signedPart low
  split
  · exact toInt_not_eq (by decide) v
  · rw [BitVec.setWidth_not (by decide), toInt_not_eq (by decide)]

/-- Adding the complement and 1 subtracts: no borrow is a carry, and the overflow is that of the exact difference. -/
theorem integerEffect_of_addEffect {s : State} {rd : BitVec 5} {carries oe rc : Bool} {a b : Dword} {r : Result}
    (h : addEffect s rd carries oe rc (~~~ a) b true r) :
    integerEffect s rd (b - a) (if carries then some (decide (s.unsignedPart a ≤ s.unsignedPart b)) else none)
      (if oe then some (outside s.width (s.signedPart b - s.signedPart a)) else none) rc r := by
  have difference : BitVec.ofNat 64 ((~~~ a).toNat + b.toNat + true.toNat) = b - a := by
    have := a.isLt
    bv_omega
  have borrow : 2 ^ s.width ≤ s.unsignedPart (~~~ a) + s.unsignedPart b + true.toNat ↔
      s.unsignedPart a ≤ s.unsignedPart b := by
    have : s.unsignedPart a < 2 ^ s.width := Nat.mod_lt _ (Nat.two_pow_pos _)
    rw [s.unsignedPart_not, Bool.toNat_true]
    omega
  have signed : s.signedPart (~~~ a) + s.signedPart b + (true.toNat : Nat) = s.signedPart b - s.signedPart a := by
    rw [s.signedPart_not, Bool.toNat_true]
    omega
  rwa [addEffect, difference, signed, decide_eq_decide.mpr borrow] at h

/-- Settles O25: each of them adds a complement and 1; `neg` subtracts from 0. -/
theorem subtractFamily : Obligations.SubtractFamily := by
  unfold Obligations.SubtractFamily
  intro s rd ra rb oe rc simm
  refine ⟨?subf, ?subfc, ?subfic, ?neg⟩
  case subf => exact integerEffect_of_addEffect (addEffect_finishAdd s rd false oe rc _ _ true)
  case subfc => exact integerEffect_of_addEffect (addEffect_finishAdd s rd true oe rc _ _ true)
  case subfic => exact integerEffect_of_addEffect (addEffect_finishAdd s rd true false false _ _ true)
  case neg =>
    have zero : s.signedPart 0 = 0 := by unfold State.signedPart; split <;> rfl
    have effect := integerEffect_of_addEffect (addEffect_finishAdd s rd false oe rc (~~~ s.getGpr ra) 0 true)
    rw [zero, zero_sub, zero_sub] at effect
    exact effect

/-! ## Multiplying (O26) -/

theorem outOfRange_eq (w : Nat) (p : Int) : outOfRange w p = outside w p := (Bool.decide_or _ _).symm

/-- The high half of an unsigned product. -/
theorem productHigh_natCast (w a b : Nat) : productHigh w ((a : Int) * b) = BitVec.ofNat w (a * b / 2 ^ w) := by
  rw [productHigh, ← BitVec.ofInt_natCast]
  norm_cast

theorem mul_extSimm (a : Dword) (simm : BitVec 16) : a * extSimm simm = BitVec.ofInt 64 (a.toInt * simm.toInt) := by
  rw [BitVec.ofInt_mul, BitVec.ofInt_toInt, extSimm, BitVec.signExtend]

theorem mul_eq_ofInt {w : Nat} (a b : BitVec w) : a * b = BitVec.ofInt w (a.toInt * b.toInt) := by
  rw [BitVec.ofInt_mul, BitVec.ofInt_toInt, BitVec.ofInt_toInt]

/-- Settles O26: the instructions end with the halves of the exact product, and the model's test for OV is the statement's. -/
theorem multiply : Obligations.Multiply := by
  unfold Obligations.Multiply
  intro s rd ra rb oe rc simm
  refine ⟨?mulli, ?mullw, ?mulhw, ?mulhwu, fun wide => ⟨?mulld, ?mulhd, ?mulhdu⟩⟩
  case mulli =>
    rw [← mul_extSimm]
    exact integerEffect_done s rd _ none none false
  case mullw =>
    rw [← outOfRange_eq]
    exact integerEffect_of_exec rfl rfl
  case mulhw => exact wordEffect_of_exec (oe := false) (ov := false) rfl rfl
  case mulhwu => exact wordEffect_of_exec (oe := false) (ov := false) rfl (productHigh_natCast 32 _ _)
  case mulld =>
    rw [← outOfRange_eq]
    exact integerEffect_of_exec (exec_only64 wide rfl rfl rfl) (mul_eq_ofInt _ _)
  case mulhd => exact integerEffect_of_exec (oe := false) (ov := false) (exec_only64 wide rfl rfl rfl) rfl
  case mulhdu =>
    exact integerEffect_of_exec (oe := false) (ov := false) (exec_only64 wide rfl rfl rfl) (productHigh_natCast 64 _ _)

/-! ## Dividing (O27) -/

/-- The quotient that R226 describes is the truncated one. -/
theorem tdiv_of_quotientOf {a b q : Int} (h : quotientOf a b q) : a.tdiv b = q := by
  obtain ⟨small, sign⟩ := h
  have nonzero : b ≠ 0 := by omega
  have split : a - q * b + b * q = a := by ring
  obtain neg | zero | pos := lt_trichotomy a 0
  · have remainder : a - q * b ≤ 0 := nonpos_of_mul_nonneg_left sign neg
    exact ((Int.tdiv_tmod_unique' neg.le nonzero).mpr ⟨split, by omega, remainder⟩).1
  · have bound : q.natAbs * b.natAbs < 1 * b.natAbs := by
      calc q.natAbs * b.natAbs = (a - q * b).natAbs := by rw [zero, zero_sub, Int.natAbs_neg, Int.natAbs_mul]
        _ < 1 * b.natAbs := by rwa [Nat.one_mul]
    have none : q.natAbs < 1 := Nat.lt_of_mul_lt_mul_right bound
    rw [zero, Int.zero_tdiv]
    omega
  · have remainder : 0 ≤ a - q * b := nonneg_of_mul_nonneg_left sign pos
    exact ((Int.tdiv_tmod_unique pos.le nonzero).mpr ⟨split, remainder, by omega⟩).1

theorem badSigned_iff {w : Nat} (a b : BitVec w) :
    badSigned a b = true ↔ b = 0 ∨ (a = BitVec.intMin w ∧ b = BitVec.allOnes w) := by
  simp [badSigned]

/-- Where the described quotient is in range, the division is not one of the undefined ones. -/
theorem not_badSigned_of_quotientOf {w : Nat} (pos : 0 < w) {a b : BitVec w} {q : Int} (h : quotientOf a.toInt b.toInt q)
    (range : q < 2 ^ (w - 1)) : ¬ badSigned a b = true := by
  intro bad
  obtain rfl | ⟨rfl, rfl⟩ := (badSigned_iff a b).mp bad
  · obtain ⟨small, -⟩ := h
    simp at small
  · have quotient := tdiv_of_quotientOf h
    have half : 2 ^ (w - 1) % 2 ^ w = 2 ^ (w - 1) := Nat.mod_eq_of_lt (Nat.pow_lt_pow_right (by decide) (by omega))
    rw [BitVec.toInt_intMin, BitVec.toInt_allOnes, half, if_pos pos, Int.tdiv_neg, Int.neg_tdiv, neg_neg, Int.tdiv_one,
      Nat.cast_pow, Nat.cast_ofNat] at quotient
    exact absurd quotient range.ne'

/-- Settles O27: the described quotient is the one that the model truncates, and the undefined divisions are those that it tests
for. -/
theorem divide : Obligations.Divide := by
  unfold Obligations.Divide
  intro s rd ra rb oe rc
  refine ⟨?divw, ?divwBad, ?divwu, ?divwuZero, fun wide => ⟨?divd, ?divdBad, ?divdu, ?divduZero⟩⟩
  case divw =>
    intro q _ range h
    have defined := not_badSigned_of_quotientOf (by decide) h range
    exact wordEffect_of_exec (if_neg defined) (by rw [tdiv_of_quotientOf h])
  case divwBad => exact fun bad => undefinedEffect_of_exec (if_pos ((badSigned_iff _ _).mpr bad))
  case divwu => exact fun nonzero => wordEffect_of_exec (if_neg nonzero) BitVec.udiv_def.symm
  case divwuZero => exact fun zero => undefinedEffect_of_exec (if_pos zero)
  case divd =>
    intro q _ range h
    have defined := not_badSigned_of_quotientOf (by decide) h range
    exact integerEffect_of_exec ((exec_only64 wide rfl rfl rfl).trans (if_neg defined))
      (by rw [tdiv_of_quotientOf h])
  case divdBad =>
    intro bad
    exact undefinedEffect_of_exec ((exec_only64 wide rfl rfl rfl).trans (if_pos ((badSigned_iff _ _).mpr bad)))
  case divdu =>
    intro nonzero
    exact integerEffect_of_exec ((exec_only64 wide rfl rfl rfl).trans (if_neg nonzero)) BitVec.udiv_def.symm
  case divduZero => exact fun zero => undefinedEffect_of_exec ((exec_only64 wide rfl rfl rfl).trans (if_pos zero))

end Sys2Proof.Machine
end

section
/-!
PROOFS. Integer compare and logical instructions (41_integer_compare_logical R241 to R263). A compare ends with one CR field
written (`finishCompare`), a logical instruction with rA and perhaps CR0 (`finishLogical`). Both ends are reasoned about once;
what an instruction has of its own is its operands as numbers, or the bits of its result.
-/

namespace Sys2Proof.Machine

/-! ## Compare (O28): immediates and low words keep their value as numbers when they are extended -/

theorem toInt_extSimm (simm : BitVec 16) : (extSimm simm).toInt = simm.toInt := BitVec.toInt_signExtend_of_le (by decide)

theorem toNat_extUimm (uimm : BitVec 16) : (extUimm uimm).toNat = uimm.toNat := BitVec.toNat_setWidth_of_le (by decide)

theorem toInt_signedOperand_low (v : Dword) : (signedOperand false v).toInt = (low v).toInt :=
  BitVec.toInt_signExtend_of_le (by decide)

theorem toNat_unsignedOperand_low (v : Dword) : (unsignedOperand false v).toNat = (low v).toNat :=
  BitVec.toNat_setWidth_of_le (b := low v) (by decide)

/-- A compare that completes with the flags of an order writes its field and nothing else. -/
theorem compareEffect_finishCompare {s : State} {lt gt : Bool} {a b : Int} (crfd : BitVec 3)
    (order : orderField lt gt s.so = orderOf a b s.so) : compareEffect s crfd a b (finishCompare crfd lt gt s) := by
  refine ⟨_, rfl, rfl, fun _ => rfl, ?field, fun q other => ?kept⟩
  case field => rw [State.advance_crField, State.setCrField_crField, if_pos rfl, order]
  case kept => rw [State.advance_crField, State.setCrField_crField, if_neg (by simpa using other)]

section
variable {s : State} {i : Instr} {crfd : BitVec 3} {x y : Dword}

theorem compareEffect_of_slt {a b : Int} (e : exec i s = finishCompare crfd (x.slt y) (y.slt x) s) (hx : x.toInt = a)
    (hy : y.toInt = b) : compareEffect s crfd a b (exec i s) := by
  rw [e, ← hx, ← hy]
  exact compareEffect_finishCompare crfd (orderField_slt x y s.so)

theorem compareEffect_of_ult {a b : Nat} (e : exec i s = finishCompare crfd (x.ult y) (y.ult x) s) (hx : x.toNat = a)
    (hy : y.toNat = b) : compareEffect s crfd a b (exec i s) := by
  rw [e, ← hx, ← hy]
  exact compareEffect_finishCompare crfd (orderField_ult x y s.so)

end

/-- A compare of low words is a valid form everywhere (R165). -/
theorem compareOk_low (impl64 : Bool) : compareOk impl64 false = true := Bool.or_true impl64

/-- A compare of whole registers is one on 64-bit implementations (R165). -/
theorem compareOk_wide {impl64 : Bool} (wide : impl64 = true) : compareOk impl64 true = true := by rw [wide]; rfl

/-- Settles O28: the compares end alike, with operands that are the numbers of the statement. -/
theorem compare : Obligations.Compare := by
  unfold Obligations.Compare
  intro s crfd ra rb imm
  have valid := compareOk_low s.cfg.impl64
  refine ⟨?cmpi, ?cmp, ?cmpli, ?cmpl, fun wide => ?_⟩
  case cmpi => exact compareEffect_of_slt (exec_user rfl rfl valid) (toInt_signedOperand_low _) (toInt_extSimm imm)
  case cmp => exact compareEffect_of_slt (exec_user rfl rfl valid) (toInt_signedOperand_low _) (toInt_signedOperand_low _)
  case cmpli => exact compareEffect_of_ult (exec_user rfl rfl valid) (toNat_unsignedOperand_low _) (toNat_extUimm imm)
  case cmpl => exact compareEffect_of_ult (exec_user rfl rfl valid) (toNat_unsignedOperand_low _) (toNat_unsignedOperand_low _)
  have whole := compareOk_wide wide
  exact ⟨compareEffect_of_slt (exec_user rfl rfl whole) rfl (toInt_extSimm imm),
    compareEffect_of_slt (exec_user rfl rfl whole) rfl rfl,
    compareEffect_of_ult (exec_user rfl rfl whole) rfl (toNat_extUimm imm),
    compareEffect_of_ult (exec_user rfl rfl whole) rfl rfl⟩

/-! ## Logical instructions (O29) -/

/-! ### Bits of the operands -/

/-- The low-order `n` bits of a register, numbered from the most significant one (R11). -/
theorem setWidth_getMsbD {n : Nat} (narrow : n ≤ 64) (x : Dword) (k : Nat) :
    (x.setWidth n).getMsbD k = x.getMsbD (64 - n + k) := by
  have inside : n - 64 ≤ k := by omega
  have position : k + 64 - n = 64 - n + k := by omega
  rw [BitVec.getMsbD_setWidth, position, decide_eq_true inside, Bool.true_and]

/-- Sign extension of the low-order `n` bits repeats the first of them (R259 to R261). -/
theorem signExtend_setWidth_getMsbD {n : Nat} (narrow : n ≤ 64) (x : Dword) {k : Nat} (inside : k < 64) :
    ((x.setWidth n).signExtend 64).getMsbD k = if k < 64 - n then x.getMsbD (64 - n) else x.getMsbD k := by
  rw [BitVec.getMsbD_signExtend, BitVec.msb_eq_getMsbD_zero, setWidth_getMsbD narrow, setWidth_getMsbD narrow,
    decide_eq_true inside, Bool.true_and]
  by_cases extended : k < 64 - n
  · rw [if_neg (by omega), if_pos extended, Nat.add_zero]
  · have position : 64 - n + (k + n - 64) = k := by omega
    rw [if_pos (by omega), if_neg extended, position]

/-- An immediate stands in bits 48:63 (R245, R247, R249). -/
theorem extUimm_getMsbD (uimm : BitVec 16) (k : Nat) :
    (extUimm uimm).getMsbD k = (48 ≤ k && uimm.getMsbD (k - 48)) := by
  rw [extUimm, BitVec.getMsbD_setWidth, Nat.add_sub_add_right k 16 48]

/-- A shifted immediate stands in bits 32:47 (R246, R248, R250). -/
theorem extUimmShifted_getMsbD (uimm : BitVec 16) (k : Nat) :
    (extUimmShifted uimm).getMsbD k = (32 ≤ k && k < 48 && uimm.getMsbD (k - 32)) := by
  rw [extUimmShifted, BitVec.getMsbD_shiftLeft, ← extUimm, extUimm_getMsbD, Nat.add_sub_add_right k 16 32]
  by_cases below : k < 48
  · simp [below]
  · have past : uimm.getMsbD (k - 32) = false := BitVec.getMsbD_of_ge uimm _ (by omega)
    simp [past]

theorem low_getMsbD (x : Dword) (k : Nat) : (low x).getMsbD k = x.getMsbD (32 + k) := setWidth_getMsbD (by decide) x k

theorem not_getMsbD (x : Dword) {k : Nat} (inside : k < 64) : (~~~ x).getMsbD k = !x.getMsbD k := by
  rw [BitVec.getMsbD_not, decide_eq_true inside, Bool.true_and]

/-- The count of leading zeros among `m` bits from position `i` on is the place of the first one there, or `m`. -/
theorem leadingZeros_eq {w : Nat} (x : BitVec w) {i m n : Nat} (bound : n ≤ m)
    (zeros : ∀ k, k < n → x.getMsbD (i + k) = false) (one : n < m → x.getMsbD (i + n) = true) : leadingZeros x i m = n := by
  induction m generalizing i n with
  | zero => exact (Nat.le_zero.mp bound).symm
  | succ m ih =>
    cases n with
    | zero => exact if_pos (one (Nat.succ_pos m))
    | succ n =>
      have first : x.getMsbD i = false := zeros 0 (Nat.succ_pos n)
      have rest : leadingZeros x (i + 1) m = n := by
        refine ih (by omega) (fun k hk => ?_) (fun hn => ?_)
        · rw [Nat.add_right_comm]; exact zeros (k + 1) (by omega)
        · rw [Nat.add_right_comm]; exact one (by omega)
      rw [leadingZeros, first, if_neg Bool.false_ne_true, rest]

theorem leadingZeros_eq_of_first_one {w n : Nat} (x : BitVec w) (bound : n ≤ w) (zeros : ∀ k, k < n → x.getMsbD k = false)
    (one : n < w → x.getMsbD n = true) : leadingZeros x 0 w = n :=
  leadingZeros_eq x bound (by simpa using zeros) (by simpa using one)

/-! ### The end of an instruction -/

section
variable {s : State} {i : Instr} {ra : BitVec 5} {rc : Bool} {v : Dword}

theorem integerEffect_of_finishLogical {v' : Dword} (e : exec i s = finishLogical ra rc v' s) (value : v' = v) :
    integerEffect s ra v none none rc (exec i s) := by
  rw [e, value]
  exact integerEffect_done s ra v none none rc

theorem logicalEffect_of_exec {f : Nat → Bool} (e : exec i s = finishLogical ra rc v s)
    (bits : ∀ k, k < 64 → v.getMsbD k = f k) : logicalEffect s ra rc f (exec i s) :=
  ⟨v, bits, integerEffect_of_finishLogical e rfl⟩

end

/-- Settles O29: the instructions end alike, with the bits that the statement gives; a count is the place of the first
one. -/
theorem logical : Obligations.Logical := by
  unfold Obligations.Logical
  intro s rs ra rb rc imm a b i j
  refine ⟨?andi, ?andis, ?ori, ?oris, ?xori, ?xoris, ?and, ?or, ?xor, ?nand, ?nor, ?eqv, ?andc, ?orc, ?extsb, ?extsh, ?extsw,
    ?cntlzw, ?cntlzd⟩
  case andi => exact logicalEffect_of_exec rfl fun k _ => by rw [BitVec.getMsbD_and, extUimm_getMsbD]
  case andis => exact logicalEffect_of_exec rfl fun k _ => by rw [BitVec.getMsbD_and, extUimmShifted_getMsbD]
  case ori => exact logicalEffect_of_exec rfl fun k _ => by rw [BitVec.getMsbD_or, extUimm_getMsbD]
  case oris => exact logicalEffect_of_exec rfl fun k _ => by rw [BitVec.getMsbD_or, extUimmShifted_getMsbD]
  case xori => exact logicalEffect_of_exec rfl fun k _ => by rw [BitVec.getMsbD_xor, extUimm_getMsbD]
  case xoris => exact logicalEffect_of_exec rfl fun k _ => by rw [BitVec.getMsbD_xor, extUimmShifted_getMsbD]
  case and => exact logicalEffect_of_exec rfl fun _ _ => BitVec.getMsbD_and
  case or => exact logicalEffect_of_exec rfl fun _ _ => BitVec.getMsbD_or
  case xor => exact logicalEffect_of_exec rfl fun _ _ => BitVec.getMsbD_xor
  case nand => exact logicalEffect_of_exec rfl fun k inside => by rw [not_getMsbD _ inside, BitVec.getMsbD_and]
  case nor => exact logicalEffect_of_exec rfl fun k inside => by rw [not_getMsbD _ inside, BitVec.getMsbD_or]
  case eqv =>
    refine logicalEffect_of_exec rfl fun k inside => ?_
    rw [not_getMsbD _ inside, BitVec.getMsbD_xor]
    exact Bool.not_not _
  case andc => exact logicalEffect_of_exec rfl fun k inside => by rw [BitVec.getMsbD_and, not_getMsbD _ inside]
  case orc => exact logicalEffect_of_exec rfl fun k inside => by rw [BitVec.getMsbD_or, not_getMsbD _ inside]
  case extsb => exact logicalEffect_of_exec rfl fun _ => signExtend_setWidth_getMsbD (by decide) _
  case extsh => exact logicalEffect_of_exec rfl fun _ => signExtend_setWidth_getMsbD (by decide) _
  case extsw =>
    exact fun wide => logicalEffect_of_exec (exec_only64 wide rfl rfl rfl) fun _ => signExtend_setWidth_getMsbD (by decide) _
  case cntlzw =>
    intro n bound zeros one
    have count : leadingZeros (low (s.getGpr rs)) 0 32 = n := leadingZeros_eq_of_first_one _ bound
      (fun k before => (low_getMsbD _ k).trans (zeros k before)) (fun inside => (low_getMsbD _ n).trans (one inside))
    exact integerEffect_of_finishLogical rfl (congrArg _ count)
  case cntlzd =>
    intro wide n bound zeros one
    have count : leadingZeros (s.getGpr rs) 0 64 = n := leadingZeros_eq_of_first_one _ bound zeros one
    exact integerEffect_of_finishLogical (exec_only64 wide rfl rfl rfl) (congrArg _ count)

end Sys2Proof.Machine
end

section
/-!
PROOFS. Integer rotates and shifts (42_integer_rotate_shift R281 to R298). A rotate is settled by the bits of its mask and of the
rotated value. A shift is a rotate under a mask that lets through what a shift keeps; so its value is that of a shift of bit
vectors, and with it a product or a quotient.
-/

namespace Sys2Proof.Machine

/-! ## Rotates and masks, bit by bit (00_scope R11 to R15) -/

theorem rotl64_eq (x : Dword) (n : Nat) : rotl64 x n = x.rotateLeft n := BitVec.rotateLeft_mod_eq_rotateLeft

theorem rotl32_eq (x : Word) (n : Nat) : rotl32 x n = x.rotateLeft n := BitVec.rotateLeft_mod_eq_rotateLeft

theorem rotateLeft_getMsbD {w : Nat} (x : BitVec w) (n : Nat) {k : Nat} (inside : k < w) :
    (x.rotateLeft n).getMsbD k = x.getMsbD ((k + n) % w) := by
  rw [BitVec.getMsbD_rotateLeft, decide_eq_true inside, Bool.true_and, Nat.add_comm]

/-- A zero-extended value has its bits at the end of the register. -/
theorem extended_getMsbD {w : Nat} (x : BitVec w) {d k : Nat} (width : d + w = 64) :
    (x.setWidth 64).getMsbD k = (d ≤ k && x.getMsbD (k - d)) := by
  have position : k + w - 64 = k - d := by omega
  have offset : 64 - w = d := by omega
  rw [BitVec.getMsbD_setWidth, position, offset]

theorem zext_getMsbD_low (x : Word) (k : Nat) : (zext x).getMsbD (32 + k) = x.getMsbD k := by
  rw [zext, extended_getMsbD x (d := 32) rfl, Nat.add_sub_cancel_left, decide_eq_true (Nat.le_add_right 32 k), Bool.true_and]

@[simp] theorem high_joinWords (h l : Word) : high (joinWords h l) = h := BitVec.extractLsb'_append_eq_left

theorem onesFrom_getMsbD (x : Nat) {k : Nat} (inside : k < 64) : (onesFrom x).getMsbD k = decide (x ≤ k) := by
  have below : k - x < 64 := by omega
  rw [onesFrom, BitVec.getMsbD_ushiftRight, BitVec.getMsbD_allOnes, decide_eq_true inside, decide_eq_true below, Bool.true_and,
    Bool.and_true, ← decide_not, decide_eq_decide, Nat.not_lt]

/-- The mask of R14 is the statement's. -/
theorem mask64_getMsbD (x y : Nat) {k : Nat} (inside : k < 64) : (mask64 x y).getMsbD k = inMask x y k := by
  have upTo : (~~~ onesFrom (y + 1)).getMsbD k = decide (k ≤ y) := by
    rw [not_getMsbD _ inside, onesFrom_getMsbD _ inside, ← decide_not, decide_eq_decide, Nat.not_le, Nat.lt_succ_iff]
  unfold mask64 inMask
  split
  · rw [BitVec.getMsbD_and, onesFrom_getMsbD _ inside, upTo]
  · rw [BitVec.getMsbD_or, onesFrom_getMsbD _ inside, upTo]

/-- A mask that ends with the last bit. -/
theorem inMask_to_last {x k : Nat} (start : x ≤ 63) (inside : k < 64) : inMask x 63 k = decide (x ≤ k) := by
  rw [inMask, if_pos start, decide_eq_true (Nat.le_of_lt_succ inside), Bool.and_true]

/-- A mask that begins with the first bit. -/
theorem inMask_from_first (y k : Nat) : inMask 0 y k = decide (k ≤ y) := by
  rw [inMask, if_pos (Nat.zero_le y), decide_eq_true (Nat.zero_le k), Bool.true_and]

/-- The mask of a word rotate, in the low half of a register (R281). -/
theorem wordMask_getMsbD (mb me : BitVec 5) {k : Nat} (inside : k < 32) :
    (wordMask mb me).getMsbD (32 + k) = inMask mb.toNat me.toNat k := by
  have place : 32 + k < 64 := by omega
  unfold wordMask
  split
  · next ordered => simp [mask64_getMsbD _ _ place, inMask, ordered, Nat.add_comm _ 32]
  · next wraps =>
    have start : mb.toNat + 32 ≤ 63 := by omega
    rw [BitVec.getMsbD_or, mask64_getMsbD _ _ place, mask64_getMsbD _ _ place, inMask_to_last start place]
    simp [inMask, wraps, Nat.add_comm _ 32]

/-! ## Word rotates (O30) -/

/-- The low word of `rlwinm` and `rlwnm` (R282, R283). -/
theorem rotatedWord_getMsbD (v : Dword) (n : Nat) (mb me : BitVec 5) {k : Nat} (inside : k < 32) :
    (rotatedWord v n mb me).getMsbD k = (inMask mb.toNat me.toNat k && (low v).getMsbD ((k + n) % 32)) := by
  rw [rotatedWord, low_getMsbD, BitVec.getMsbD_and, zext_getMsbD_low, wordMask_getMsbD mb me inside, rotl32_eq,
    rotateLeft_getMsbD _ _ inside, Bool.and_comm]

/-- The low word of `rlwimi` (R284). -/
theorem insertedWord_getMsbD (v old : Dword) (n : Nat) (mb me : BitVec 5) {k : Nat} (inside : k < 32) :
    (insertedWord v old n mb me).getMsbD k =
      if inMask mb.toNat me.toNat k then (low v).getMsbD ((k + n) % 32) else (low old).getMsbD k := by
  rw [insertedWord, low_getMsbD, merge_getMsbD, zext_getMsbD_low, wordMask_getMsbD mb me inside, rotl32_eq,
    rotateLeft_getMsbD _ _ inside, ← low_getMsbD]

/-- A word rotate ends with the low word that it is given, and with its high word where that is defined (R281). -/
theorem wordRotateEffect_finishRotateWord {s : State} {ra : BitVec 5} {rc : Bool} {mb me : BitVec 5} {h l : Word}
    {f : Nat → Bool} (bits : ∀ k, k < 32 → l.getMsbD k = f k) :
    wordRotateEffect s ra rc (decide (me.toNat < mb.toNat)) h f (finishRotateWord ra rc mb me h l s) := by
  have lowBits (x : Word) (k : Nat) (inside : k < 32) : (low (joinWords x l)).getMsbD k = f k := by
    rw [low_joinWords, bits k inside]
  unfold finishRotateWord
  split
  · next undefined =>
    obtain ⟨t, next, frame, -, value, kept, xer, cr0⟩ := integerEffect_done s.drew ra (joinWords (s.draw 32) l) none none rc
    exact ⟨t, _, next, frame, value, lowBits _, fun defined => absurd (undefined.symm.trans defined) nofun, kept, xer, cr0⟩
  · obtain ⟨t, next, frame, draws, value, kept, xer, cr0⟩ := integerEffect_done s ra (joinWords h l) none none rc
    exact ⟨t, _, next, frame, value, lowBits _, fun _ => ⟨high_joinWords h l, draws⟩, kept, xer, cr0⟩

theorem wordRotates_hold : wordRotates := by
  intro s rs ra rb sh mb me rc a n
  refine ⟨?rlwinm, ?rlwnm, ?rlwimi⟩
  case rlwinm => exact wordRotateEffect_finishRotateWord fun k inside => rotatedWord_getMsbD _ _ mb me inside
  case rlwnm => exact wordRotateEffect_finishRotateWord fun k inside => rotatedWord_getMsbD _ _ mb me inside
  case rlwimi => exact wordRotateEffect_finishRotateWord fun k inside => insertedWord_getMsbD _ _ _ mb me inside

/-! ## Double-word rotates (O30) -/

/-- A rotated double word under a mask (R285 to R287, R289, R290). -/
theorem rotl64_masked_getMsbD (v : Dword) (n x y : Nat) {k : Nat} (inside : k < 64) :
    (rotl64 v n &&& mask64 x y).getMsbD k = (inMask x y k && v.getMsbD ((k + n) % 64)) := by
  rw [BitVec.getMsbD_and, mask64_getMsbD _ _ inside, rotl64_eq, rotateLeft_getMsbD _ _ inside, Bool.and_comm]

/-- The same with the mask from bit `mb` on (R285, R289). -/
theorem rotl64_masked_left_getMsbD (v : Dword) (n : Nat) (mb : BitVec 6) {k : Nat} (inside : k < 64) :
    (rotl64 v n &&& mask64 mb.toNat 63).getMsbD k = (mb.toNat ≤ k && v.getMsbD ((k + n) % 64)) := by
  rw [rotl64_masked_getMsbD _ _ _ _ inside, inMask_to_last (Nat.le_of_lt_succ mb.isLt) inside]

/-- The same with the mask up to bit `me` (R286, R290). -/
theorem rotl64_masked_right_getMsbD (v : Dword) (n : Nat) (me : BitVec 6) {k : Nat} (inside : k < 64) :
    (rotl64 v n &&& mask64 0 me.toNat).getMsbD k = (k ≤ me.toNat && v.getMsbD ((k + n) % 64)) := by
  rw [rotl64_masked_getMsbD _ _ _ _ inside, inMask_from_first]

/-- A rotated double word inserted under a mask (R288). -/
theorem rotl64_inserted_getMsbD (v old : Dword) (n x y : Nat) {k : Nat} (inside : k < 64) :
    (merge (mask64 x y) (rotl64 v n) old).getMsbD k =
      if inMask x y k then v.getMsbD ((k + n) % 64) else old.getMsbD k := by
  rw [merge_getMsbD, mask64_getMsbD _ _ inside, rotl64_eq, rotateLeft_getMsbD _ _ inside]

theorem doubleRotates_hold : doubleRotates := by
  intro s rs ra rb sh mb rc wide a n
  refine ⟨?rldicl, ?rldicr, ?rldic, ?rldimi, ?rldcl, ?rldcr⟩ <;>
    refine logicalEffect_of_exec (exec_only64 wide rfl rfl rfl) fun k inside => ?_
  case rldicl => exact rotl64_masked_left_getMsbD _ _ mb inside
  case rldicr => exact rotl64_masked_right_getMsbD _ _ mb inside
  case rldic => exact rotl64_masked_getMsbD _ _ _ _ inside
  case rldimi => exact rotl64_inserted_getMsbD _ _ _ _ _ inside
  case rldcl => exact rotl64_masked_left_getMsbD _ _ mb inside
  case rldcr => exact rotl64_masked_right_getMsbD _ _ mb inside

/-- Settles O30: word and double-word rotates give the bits that the statement names. -/
theorem rotate : Obligations.Rotate := ⟨wordRotates_hold, doubleRotates_hold⟩

/-! ## Shifts as rotates under a mask (R291 to R298)

A value `x` of `w` bits stands at the end of a register, after `d` bits. A shift by `n` rotates it by a count that is `n` where
`n < w`, and takes the bits that a mask of ones lets through.
-/

theorem onesFrom_past {x : Nat} (past : 64 ≤ x) : onesFrom x = 0 := by
  refine eq_of_getMsbD _ _ fun k inside => ?_
  rw [onesFrom_getMsbD x inside, decide_eq_false (by omega)]
  exact BitVec.getMsbD_zero.symm

theorem mask64_to_last {x : Nat} (start : x ≤ 63) : mask64 x 63 = onesFrom x := by
  refine eq_of_getMsbD _ _ fun k inside => ?_
  rw [mask64_getMsbD _ _ inside, inMask_to_last start inside, onesFrom_getMsbD _ inside]

section
variable {w d c n : Nat} (x : BitVec w)

theorem rotateLeft_getMsbD_right {j : Nat} (count : n < w → c = n) (kept : n ≤ j) (inside : j < w) :
    (x.rotateLeft (w - c)).getMsbD j = x.getMsbD (j - n) := by
  obtain rfl := count (by omega)
  have position : j + (w - c) = j - c + w := by omega
  rw [rotateLeft_getMsbD _ _ inside, position, Nat.add_mod_right, Nat.mod_eq_of_lt (by omega)]

theorem rotateLeft_getMsbD_left {j : Nat} (count : n < w → c = n) (inside : j + n < w) :
    (x.rotateLeft c).getMsbD j = x.getMsbD (j + n) := by
  obtain rfl := count (by omega)
  rw [rotateLeft_getMsbD _ _ (by omega), Nat.mod_eq_of_lt inside]

/-- A right shift divides (R292, R296). -/
theorem rotate_masked_right (width : d + w = 64) (count : n < w → c = n) :
    (x.rotateLeft (w - c)).setWidth 64 &&& onesFrom (d + n) = BitVec.ofNat 64 (x.toNat / 2 ^ n) := by
  have shifted : (x.rotateLeft (w - c)).setWidth 64 &&& onesFrom (d + n) = (x >>> n).setWidth 64 := by
    refine eq_of_getMsbD _ _ fun k inside => ?_
    rw [BitVec.getMsbD_and, onesFrom_getMsbD _ inside, extended_getMsbD _ width, extended_getMsbD _ width,
      BitVec.getMsbD_ushiftRight]
    by_cases kept : d + n ≤ k
    · rw [rotateLeft_getMsbD_right x count (by omega) (by omega)]
      simp [kept, show d ≤ k by omega, show k - d < w by omega, show ¬ k - d < n by omega]
    · have lost : d ≤ k → k - d < n := by omega
      simpa [kept] using fun after _ past => absurd (lost after) (by omega)
  rw [shifted, ← BitVec.ofNat_toNat, BitVec.toNat_ushiftRight, Nat.shiftRight_eq_div_pow]

/-- A left shift multiplies (R291, R295). -/
theorem rotate_masked_left (width : d + w = 64) (count : n < w → c = n) :
    (x.rotateLeft c).setWidth 64 &&& (onesFrom d &&& ~~~ onesFrom (64 - n)) = BitVec.ofNat 64 (x.toNat * 2 ^ n % 2 ^ w) := by
  have shifted : (x.rotateLeft c).setWidth 64 &&& (onesFrom d &&& ~~~ onesFrom (64 - n)) = (x <<< n).setWidth 64 := by
    refine eq_of_getMsbD _ _ fun k inside => ?_
    rw [BitVec.getMsbD_and, BitVec.getMsbD_and, not_getMsbD _ inside, onesFrom_getMsbD _ inside, onesFrom_getMsbD _ inside,
      extended_getMsbD _ width, extended_getMsbD _ width, BitVec.getMsbD_shiftLeft]
    by_cases after : d ≤ k
    · by_cases kept : k - d + n < w
      · rw [rotateLeft_getMsbD_left x count kept]
        simp [after, show ¬ 64 - n ≤ k by omega]
      · rw [BitVec.getMsbD_of_ge x _ (Nat.le_of_not_lt kept)]
        simp [show 64 - n ≤ k by omega]
    · simp [after]
  rw [shifted, ← BitVec.ofNat_toNat, BitVec.toNat_shiftLeft, Nat.shiftLeft_eq]

/-- An algebraic right shift divides and rounds down (R293, R297). -/
theorem rotate_merged_sign (width : d + w = 64) (count : n < w → c = n) :
    merge (onesFrom (d + n)) ((x.rotateLeft (w - c)).setWidth 64) (if x.msb then BitVec.allOnes 64 else 0) =
      BitVec.ofInt 64 (x.toInt / 2 ^ n) := by
  have shifted : merge (onesFrom (d + n)) ((x.rotateLeft (w - c)).setWidth 64) (if x.msb then BitVec.allOnes 64 else 0) =
      (x.sshiftRight n).signExtend 64 := by
    refine eq_of_getMsbD _ _ fun k inside => ?_
    have position : k + w - 64 = k - d := by omega
    have offset : 64 - w = d := by omega
    have sign : (if x.msb then BitVec.allOnes 64 else 0).getMsbD k = x.msb := by
      cases x.msb with
      | false => exact BitVec.getMsbD_zero
      | true => exact BitVec.getMsbD_allOnes.trans (decide_eq_true inside)
    rw [merge_getMsbD, onesFrom_getMsbD _ inside, extended_getMsbD _ width, sign, BitVec.getMsbD_signExtend,
      BitVec.getMsbD_sshiftRight, BitVec.msb_sshiftRight, position, offset]
    by_cases kept : d + n ≤ k
    · rw [rotateLeft_getMsbD_right x count (by omega) (by omega)]
      simp [inside, kept, show d ≤ k by omega, show k - d < w by omega, show n ≤ k - d by omega]
    · by_cases after : d ≤ k
      · simp [inside, kept, after, show k - d < w by omega, show k - d < n by omega]
      · simp [inside, kept, after]
  have power : ((2 ^ n : Nat) : Int) = 2 ^ n := by norm_cast
  rw [shifted, BitVec.signExtend, BitVec.toInt_sshiftRight, Int.shiftRight_eq_div_pow, power]

/-! ### The bits that an algebraic shift loses -/

theorem rotateLeft_eq_zero_iff (m : Nat) : x.rotateLeft m = 0 ↔ x = 0 := by
  constructor
  · intro zero
    refine eq_of_getMsbD _ _ fun k inside => ?_
    have place : (k + (w - m % w)) % w < w := Nat.mod_lt _ (by omega)
    have returns : ((k + (w - m % w)) % w + m) % w = k := by
      have small : m % w < w := Nat.mod_lt _ (by omega)
      have around : k + (w - m % w) + m = k + w * (m / w + 1) := by
        have := Nat.mod_add_div m w
        rw [Nat.mul_add]
        omega
      rw [Nat.mod_add_mod, around, Nat.add_mul_mod_self_left, Nat.mod_eq_of_lt inside]
    have bit := rotateLeft_getMsbD x m place
    rw [returns, zero] at bit
    exact bit.symm.trans (BitVec.getMsbD_zero.trans BitVec.getMsbD_zero.symm)
  · rintro rfl
    refine eq_of_getMsbD _ _ fun k inside => ?_
    rw [rotateLeft_getMsbD _ m inside]
    exact BitVec.getMsbD_zero.trans BitVec.getMsbD_zero.symm

theorem two_pow_dvd_toInt (bound : n ≤ w) : (2 : Int) ^ n ∣ x.toInt ↔ 2 ^ n ∣ x.toNat := by
  have residue : x.toInt % (2 : Int) ^ n = x.toNat % (2 : Int) ^ n := by
    have divides : (2 : Int) ^ n ∣ ((2 ^ w : Nat) : Int) := by exact_mod_cast Nat.pow_dvd_pow 2 bound
    rw [← Int.emod_emod_of_dvd x.toInt divides, BitVec.toInt_eq_toNat_bmod, Int.bmod_emod, Int.emod_emod_of_dvd _ divides]
  rw [Int.dvd_iff_emod_eq_zero, residue, ← Int.dvd_iff_emod_eq_zero]
  norm_cast

theorem shiftLeft_eq_zero_iff (bound : n ≤ w) : x <<< (w - n) = 0 ↔ 2 ^ n ∣ x.toNat := by
  have power : 2 ^ w = 2 ^ n * 2 ^ (w - n) := by rw [← Nat.pow_add, Nat.add_sub_cancel' bound]
  rw [← BitVec.toNat_inj, BitVec.toNat_shiftLeft, Nat.shiftLeft_eq, BitVec.ofNat_eq_ofNat, BitVec.toNat_ofNat, Nat.zero_mod,
    ← Nat.dvd_iff_mod_eq_zero, power, Nat.mul_dvd_mul_iff_right (Nat.two_pow_pos _)]

/-- A 1-bit is lost exactly where the division leaves a remainder (R293, R297). -/
theorem rotate_lost (width : d + w = 64) (count : n < w → c = n) :
    ((x.rotateLeft (w - c)).setWidth 64 &&& ~~~ onesFrom (d + n)).setWidth w = 0 ↔ (2 : Int) ^ n ∣ x.toInt := by
  have bits {j : Nat} (inside : j < w) : (((x.rotateLeft (w - c)).setWidth 64 &&& ~~~ onesFrom (d + n)).setWidth w).getMsbD j =
      (j < n && (x.rotateLeft (w - c)).getMsbD j) := by
    have offset : 64 - w = d := by omega
    have below : ¬ d + n ≤ d + j ↔ j < n := by omega
    rw [setWidth_getMsbD (by omega), offset, BitVec.getMsbD_and, extended_getMsbD _ width, not_getMsbD _ (by omega),
      onesFrom_getMsbD _ (by omega), Nat.add_sub_cancel_left]
    rw [decide_eq_true (Nat.le_add_right d j), Bool.true_and, Bool.and_comm, ← decide_not, decide_eq_decide.mpr below]
  by_cases short : n < w
  · obtain rfl := count short
    have lost : ((x.rotateLeft (w - c)).setWidth 64 &&& ~~~ onesFrom (d + c)).setWidth w = x <<< (w - c) := by
      refine eq_of_getMsbD _ _ fun j inside => ?_
      rw [bits inside, rotateLeft_getMsbD x _ inside, BitVec.getMsbD_shiftLeft]
      by_cases out : j < c
      · rw [decide_eq_true out, Bool.true_and, Nat.mod_eq_of_lt (by omega)]
      · rw [decide_eq_false out, Bool.false_and, BitVec.getMsbD_of_ge _ _ (by omega)]
    rw [lost, shiftLeft_eq_zero_iff x short.le, two_pow_dvd_toInt x short.le]
  · have lost : ((x.rotateLeft (w - c)).setWidth 64 &&& ~~~ onesFrom (d + n)).setWidth w = x.rotateLeft (w - c) := by
      refine eq_of_getMsbD _ _ fun j inside => ?_
      rw [bits inside, decide_eq_true (by omega), Bool.true_and]
    rw [lost, rotateLeft_eq_zero_iff]
    constructor
    · rintro rfl
      rw [BitVec.ofNat_eq_ofNat, BitVec.toInt_zero]
      exact Int.dvd_zero _
    · intro divides
      have whole : 2 ^ w ∣ x.toNat := (two_pow_dvd_toInt x le_rfl).mp ((pow_dvd_pow 2 (by omega)).trans divides)
      exact BitVec.eq_of_toNat_eq (Nat.eq_zero_of_dvd_of_lt whole x.isLt)

end

theorem ofNat_mod_two_pow (w a : Nat) : BitVec.ofNat w (a % 2 ^ w) = BitVec.ofNat w a := BitVec.eq_of_toNat_eq (Nat.mod_mod a _)

/-! ### Counts and masks of a register (R291 to R293, R295 to R297) -/

section
variable (b : Dword)

theorem getMsbD_58 : b.getMsbD 58 = decide (32 ≤ b.toNat % 64) := by
  rw [BitVec.getMsbD_eq_getLsbD, decide_eq_true (by decide), Bool.true_and, BitVec.getLsbD, Nat.testBit_eq_decide_div_mod_eq,
    decide_eq_decide]
  omega

theorem getMsbD_57 : b.getMsbD 57 = decide (64 ≤ b.toNat % 128) := by
  rw [BitVec.getMsbD_eq_getLsbD, decide_eq_true (by decide), Bool.true_and, BitVec.getLsbD, Nat.testBit_eq_decide_div_mod_eq,
    decide_eq_decide]
  omega

theorem count5_eq (short : b.toNat % 64 < 32) : count5 b = b.toNat % 64 := by
  rw [count5, BitVec.toNat_setWidth]
  omega

theorem count6_eq (short : b.toNat % 128 < 64) : count6 b = b.toNat % 128 := by
  rw [count6, BitVec.toNat_setWidth]
  omega

theorem wordShiftMask_eq {m v : Dword} (short : b.toNat % 64 < 32 → m = v) (long : 32 ≤ b.toNat % 64 → v = 0) :
    wordShiftMask b m = v := by
  rw [wordShiftMask, getMsbD_58]
  split
  · next h => exact (long (of_decide_eq_true h)).symm
  · next h => exact short (by simpa using h)

theorem dwordShiftMask_eq {m v : Dword} (short : b.toNat % 128 < 64 → m = v) (long : 64 ≤ b.toNat % 128 → v = 0) :
    dwordShiftMask b m = v := by
  rw [dwordShiftMask, getMsbD_57]
  split
  · next h => exact (long (of_decide_eq_true h)).symm
  · next h => exact short (by simpa using h)

/-- The mask of `srw` and `sraw`. -/
theorem wordShiftMask_right : wordShiftMask b (mask64 (count5 b + 32) 63) = onesFrom (32 + b.toNat % 64) := by
  refine wordShiftMask_eq b (fun short => ?_) (fun long => onesFrom_past (by omega))
  rw [count5_eq b short, Nat.add_comm, mask64_to_last (by omega)]

/-- The mask of `srd` and `srad`. -/
theorem dwordShiftMask_right : dwordShiftMask b (mask64 (count6 b) 63) = onesFrom (0 + b.toNat % 128) := by
  refine dwordShiftMask_eq b (fun short => ?_) (fun long => onesFrom_past (by omega))
  rw [count6_eq b short, Nat.zero_add, mask64_to_last (by omega)]

/-- Ones from bit `d` on, without those from bit `e` on. -/
theorem onesFrom_and_not {d e : Nat} (h : e ≤ d) : onesFrom d &&& ~~~ onesFrom e = 0 := by
  refine eq_of_getMsbD _ _ fun k inside => ?_
  rw [BitVec.getMsbD_and, not_getMsbD _ inside, onesFrom_getMsbD _ inside, onesFrom_getMsbD _ inside]
  by_cases after : d ≤ k
  · simp [h.trans after]
  · simp [after]

/-- The mask of `slw`. -/
theorem wordShiftMask_left :
    wordShiftMask b (mask64 32 (63 - count5 b)) = onesFrom 32 &&& ~~~ onesFrom (64 - b.toNat % 64) := by
  refine wordShiftMask_eq b (fun short => ?_) (fun long => onesFrom_and_not (by omega))
  have last : 63 - b.toNat % 64 + 1 = 64 - b.toNat % 64 := by omega
  rw [count5_eq b short, mask64, if_pos (by omega), last]

/-- The mask of `sld`. -/
theorem dwordShiftMask_left :
    dwordShiftMask b (mask64 0 (63 - count6 b)) = onesFrom 0 &&& ~~~ onesFrom (64 - b.toNat % 128) := by
  refine dwordShiftMask_eq b (fun short => ?_) (fun long => onesFrom_and_not (by omega))
  have last : 63 - b.toNat % 128 + 1 = 64 - b.toNat % 128 := by omega
  rw [count6_eq b short, mask64, if_pos (Nat.zero_le _), last]

end

/-! ### The end of an algebraic shift -/

section
variable {s : State} {ra : BitVec 5} {rc : Bool} {c n : Nat} {m : Dword}

theorem algebraicEffect_finishAlgebraic {w d : Nat} (x : BitVec w) (width : d + w = 64) (count : n < w → c = n) :
    let r := (x.rotateLeft (w - c)).setWidth 64
    algebraicEffect s ra rc x.toInt n
      (finishAlgebraic ra rc x.msb ((r &&& ~~~ onesFrom (d + n)).setWidth w != 0) r (onesFrom (d + n)) s) := by
  intro r
  have carry : (x.msb && ((r &&& ~~~ onesFrom (d + n)).setWidth w != 0)) =
      decide (x.toInt < 0 ∧ x.toInt % (2 : Int) ^ n ≠ 0) := by
    rw [Bool.eq_iff_iff, Bool.and_eq_true, bne_iff_ne, decide_eq_true_iff, BitVec.msb_eq_toInt, decide_eq_true_iff, ne_eq,
      rotate_lost x width count, Int.dvd_iff_emod_eq_zero]
  rw [algebraicEffect, ← carry, ← rotate_merged_sign x width count]
  exact integerEffect_done s ra _ (some _) none rc

theorem algebraicEffect_shiftWord (v : Dword) (count : n < 32 → c = n) (mask : m = onesFrom (32 + n)) :
    algebraicEffect s ra rc (low v).toInt n (shiftWordAlgebraic ra rc v c m s) := by
  have sign : v.getMsbD 32 = (low v).msb := by rw [BitVec.msb_eq_getMsbD_zero, low_getMsbD]
  rw [shiftWordAlgebraic, mask, sign, rotl32_eq]
  exact algebraicEffect_finishAlgebraic (low v) (d := 32) rfl count

theorem algebraicEffect_shiftDword (v : Dword) (count : n < 64 → c = n) (mask : m = onesFrom (0 + n)) :
    algebraicEffect s ra rc v.toInt n (shiftDwordAlgebraic ra rc v c m s) := by
  have effect := algebraicEffect_finishAlgebraic (s := s) (ra := ra) (rc := rc) v (d := 0) rfl count
  rw [shiftDwordAlgebraic, mask, ← BitVec.msb_eq_getMsbD_zero, rotl64_eq]
  simpa only [BitVec.setWidth_eq] using effect

end

/-- Settles O31: each shift rotates under the mask that belongs to its count, and so multiplies or divides. -/
theorem shift : Obligations.Shift := by
  unfold Obligations.Shift
  intro s rs ra rb sh sh6 rc a n m
  have wordCount : n < 32 → count5 (s.getGpr rb) = n := count5_eq _
  have dwordCount : m < 64 → count6 (s.getGpr rb) = m := count6_eq _
  refine ⟨?slw, ?srw, ?sraw, ?srawi, fun wide => ⟨?sld, ?srd, ?srad, ?sradi⟩⟩
  case slw =>
    refine integerEffect_of_finishLogical rfl ?_
    rw [wordShiftMask_left, rotl32_eq]
    exact rotate_masked_left a (d := 32) rfl wordCount
  case srw =>
    refine integerEffect_of_finishLogical rfl ?_
    rw [wordShiftMask_right, rotl32_eq]
    exact rotate_masked_right a (d := 32) rfl wordCount
  case sraw => exact algebraicEffect_shiftWord _ wordCount (wordShiftMask_right _)
  case srawi =>
    have start : sh.toNat + 32 ≤ 63 := by omega
    exact algebraicEffect_shiftWord _ (fun _ => rfl) ((mask64_to_last start).trans (congrArg onesFrom (Nat.add_comm _ _)))
  case sld =>
    refine integerEffect_of_finishLogical (exec_only64 wide rfl rfl rfl) ?_
    have product := rotate_masked_left (s.getGpr rs) (d := 0) rfl dwordCount
    rw [BitVec.setWidth_eq, ofNat_mod_two_pow] at product
    rw [dwordShiftMask_left, rotl64_eq]
    exact product
  case srd =>
    refine integerEffect_of_finishLogical (exec_only64 wide rfl rfl rfl) ?_
    have quotient := rotate_masked_right (s.getGpr rs) (d := 0) rfl dwordCount
    rw [BitVec.setWidth_eq] at quotient
    rw [dwordShiftMask_right, rotl64_eq]
    exact quotient
  case srad =>
    rw [exec_only64 (i := .sradx rs ra rb rc) wide rfl rfl rfl]
    exact algebraicEffect_shiftDword _ dwordCount (dwordShiftMask_right _)
  case sradi =>
    rw [exec_only64 (i := .sradix rs ra sh6 rc) wide rfl rfl rfl]
    have start : sh6.toNat ≤ 63 := by omega
    exact algebraicEffect_shiftDword _ (fun _ => rfl)
      ((mask64_to_last start).trans (congrArg onesFrom (Nat.zero_add _).symm))

end Sys2Proof.Machine
end

section
/-!
PROOFS. Doubles by their fields (43_float_arithmetic R311): sign, exponent and fraction determine a double, the class and the number
that it stands for; and the exact arithmetic of R313 on these numbers.
-/

namespace Sys2Proof.Machine

/-! ## The fields of a double -/

section
variable {d e : Dword} {neg : Bool} {k f : Nat}

theorem expField_eq (d : Dword) : expField d = d.toNat / 2 ^ 52 % 2 ^ 11 := by
  rw [expField, slice, BitVec.extractLsb'_toNat, Nat.shiftRight_eq_div_pow]

theorem fracField_eq (d : Dword) : fracField d = d.toNat % 2 ^ 52 := by
  rw [fracField, slice, BitVec.extractLsb'_toNat, Nat.shiftRight_eq_div_pow, Nat.pow_zero, Nat.div_one]

theorem magnitude_eq (d : Dword) : (slice 63 d 1).toNat = d.toNat % 2 ^ 63 := by
  rw [slice, BitVec.extractLsb'_toNat, Nat.shiftRight_eq_div_pow, Nat.pow_zero, Nat.div_one]

theorem signOf_eq (d : Dword) : signOf d = decide (2 ^ 63 ≤ d.toNat) := BitVec.msb_eq_decide d

theorem expField_lt (d : Dword) : expField d < 2048 := (slice 11 d 1).isLt

theorem fracField_lt (d : Dword) : fracField d < 2 ^ 52 := (slice 52 d 12).isLt

theorem toNat_fields (d : Dword) : d.toNat = (signOf d).toNat * 2 ^ 63 + expField d * 2 ^ 52 + fracField d := by
  have lt := d.isLt
  rw [expField_eq, fracField_eq, signOf_eq]
  by_cases h : 2 ^ 63 ≤ d.toNat
  · rw [decide_eq_true h, Bool.toNat_true]; omega
  · rw [decide_eq_false h, Bool.toNat_false]; omega

/-- Equal fields, equal doubles. -/
theorem eq_of_fields (sign : signOf d = signOf e) (exp : expField d = expField e) (frac : fracField d = fracField e) :
    d = e := by
  apply BitVec.eq_of_toNat_eq
  rw [toNat_fields d, toNat_fields e, sign, exp, frac]

theorem magnitude_fields (d : Dword) : (slice 63 d 1).toNat = expField d * 2 ^ 52 + fracField d := by
  have fields := toNat_fields d
  have he := expField_lt d
  have hf := fracField_lt d
  rw [magnitude_eq, fields]
  cases signOf d <;> simp only [Bool.toNat_true, Bool.toNat_false] <;> omega

theorem magnitude_zero_iff (d : Dword) : slice 63 d 1 = 0 ↔ expField d = 0 ∧ fracField d = 0 := by
  rw [← BitVec.toNat_inj, magnitude_fields]
  change expField d * 2 ^ 52 + fracField d = 0 ↔ _
  omega

theorem makeDouble_toNat (hk : k < 2048) (hf : f < 2 ^ 52) :
    (makeDouble neg k f).toNat = neg.toNat * 2 ^ 63 + k * 2 ^ 52 + f := by
  have hn := Bool.toNat_lt neg
  rw [makeDouble, BitVec.toNat_append, BitVec.toNat_append, BitVec.toNat_ofNat, BitVec.toNat_ofNat, Nat.mod_eq_of_lt hk,
    Nat.mod_eq_of_lt hf, BitVec.toNat_ofBool, ← Nat.shiftLeft_add_eq_or_of_lt hf, ← Nat.shiftLeft_add_eq_or_of_lt hk,
    Nat.shiftLeft_eq, Nat.shiftLeft_eq]
  ring

theorem makeDouble_fields (hk : k < 2048) (hf : f < 2 ^ 52) : signOf (makeDouble neg k f) = neg ∧
    expField (makeDouble neg k f) = k ∧ fracField (makeDouble neg k f) = f := by
  have value := makeDouble_toNat (neg := neg) hk hf
  rw [signOf_eq, expField_eq, fracField_eq, value]
  cases neg <;> simp only [Bool.toNat_true, Bool.toNat_false, decide_eq_true_eq, decide_eq_false_iff_not] <;> omega

/-- Inverting the sign bit. -/
theorem xor_sign_fields (d : Dword) : signOf (d ^^^ 0x8000000000000000) = !signOf d ∧
    expField (d ^^^ 0x8000000000000000) = expField d ∧ fracField (d ^^^ 0x8000000000000000) = fracField d := by
  refine ⟨?_, congrArg BitVec.toNat ?_, congrArg BitVec.toNat ?_⟩
  · rw [signOf, BitVec.msb_xor]
    exact Bool.xor_true _
  · rw [slice, slice, BitVec.extractLsb'_xor]
    exact BitVec.xor_zero
  · rw [slice, slice, BitVec.extractLsb'_xor]
    exact BitVec.xor_zero

/-- A property of exponent and fraction is one of the double with its sign inverted. -/
theorem isNan_xor_sign (d : Dword) : isNan (d ^^^ 0x8000000000000000) = isNan d := by
  obtain ⟨-, exp, frac⟩ := xor_sign_fields d
  rw [isNan, isNan, exp, frac]

end

/-! ## Classes -/

section
variable {d : Dword}

theorem isNan_iff : isNan d = true ↔ expField d = 2047 ∧ fracField d ≠ 0 := by
  rw [isNan, Bool.and_eq_true, beq_iff_eq, bne_iff_ne]

theorem isNumber_iff : isNumber d = true ↔ expField d ≠ 2047 := by
  rw [isNumber, bne_iff_ne, expField, ne_eq, ne_eq, ← BitVec.toNat_inj]
  exact Iff.rfl

theorem isNan_of_isNumber (h : isNumber d = true) : isNan d = false :=
  Bool.eq_false_iff.mpr fun nan => isNumber_iff.mp h (isNan_iff.mp nan).1

theorem infinite_iff : infinite d = true ↔ expField d = 2047 ∧ fracField d = 0 := by
  have he := expField_lt d
  have hf := fracField_lt d
  rw [infinite, beq_iff_eq, ← BitVec.toNat_inj, magnitude_fields]
  change expField d * 2 ^ 52 + fracField d = 0x7FF0000000000000 ↔ _
  omega

theorem zero_iff : zero d = true ↔ expField d = 0 ∧ fracField d = 0 := by
  rw [zero, beq_iff_eq, magnitude_zero_iff]

/-- The finite value of a double that is neither zero nor infinite nor a NaN. -/
def finiteOf (d : Dword) : Exact :=
  if expField d = 0 then ⟨signOf d, fracField d, -1074⟩ else ⟨signOf d, 2 ^ 52 + fracField d, (expField d : Int) - 1075⟩

/-- The four classes, each with its test. -/
theorem classify_cases (d : Dword) :
    (isNan d = true ∧ classify d = .nan) ∨
    (isNan d = false ∧ infinite d = true ∧ classify d = .inf d.msb) ∨
    (isNumber d = true ∧ zero d = true ∧ classify d = .zero d.msb) ∨
    (isNumber d = true ∧ zero d = false ∧ classify d = .finite (finiteOf d)) := by
  unfold classify
  split_ifs with nan inf zero' small
  · exact .inl ⟨nan, rfl⟩
  · have quiet := Bool.eq_false_of_not_eq_true nan
    rw [isNan_iff, not_and_not_right] at nan
    exact .inr (.inl ⟨quiet, infinite_iff.mpr ⟨inf, nan inf⟩, rfl⟩)
  · exact .inr (.inr (.inl ⟨isNumber_iff.mpr inf, beq_iff_eq.mpr zero', rfl⟩))
  · exact .inr (.inr (.inr ⟨isNumber_iff.mpr inf, beq_eq_false_iff_ne.mpr zero', by rw [finiteOf, if_pos small]⟩))
  · exact .inr (.inr (.inr ⟨isNumber_iff.mpr inf, beq_eq_false_iff_ne.mpr zero', by rw [finiteOf, if_neg small]⟩))

end

/-! ## Numbers -/

/-- The sign of a number as a factor. -/
def signFactor (neg : Bool) : ℚ := if neg then -1 else 1

theorem Exact.toRat_eq (v : Exact) : v.toRat = signFactor v.neg * v.mant * 2 ^ v.exp := rfl

theorem finiteOf_neg (d : Dword) : (finiteOf d).neg = d.msb := by
  unfold finiteOf
  split <;> rfl

/-- The number of a double is that of its class. -/
theorem numberOf_eq {d : Dword} (h : isNumber d = true) : numberOf d = (classify d).toRat := by
  have exponent : slice 11 d 1 = 0 ↔ expField d = 0 := by rw [← BitVec.toNat_inj]; exact Iff.rfl
  obtain ⟨nan, -⟩ | ⟨-, inf, -⟩ | ⟨-, zero, is⟩ | ⟨-, -, is⟩ := classify_cases d
  · exact absurd (isNan_iff.mp nan).1 (isNumber_iff.mp h)
  · exact absurd (infinite_iff.mp inf).1 (isNumber_iff.mp h)
  · obtain ⟨exp, frac⟩ := zero_iff.mp zero
    rw [is, numberOf, if_pos (exponent.mpr exp)]
    change _ * (((fracField d : ℕ) : ℚ) * _) = 0
    rw [frac, Nat.cast_zero, zero_mul, mul_zero]
  · rw [is, FpVal.toRat, Exact.toRat_eq, finiteOf_neg, mul_assoc, numberOf, finiteOf]
    by_cases exp : expField d = 0
    · rw [if_pos (exponent.mpr exp), if_pos exp]
      rfl
    · rw [if_neg (fun h => exp (exponent.mp h)), if_neg exp]
      rfl

theorem isNumber_classify {d : Dword} : (classify d).isNumber = isNumber d := by
  obtain ⟨nan, is⟩ | ⟨-, inf, is⟩ | ⟨num, -, is⟩ | ⟨num, -, is⟩ := classify_cases d
  · rw [is, Bool.eq_false_iff.mpr (fun h => isNumber_iff.mp h (isNan_iff.mp nan).1)]; rfl
  · rw [is, Bool.eq_false_iff.mpr (fun h => isNumber_iff.mp h (infinite_iff.mp inf).1)]; rfl
  · rw [is, num]; rfl
  · rw [is, num]; rfl

/-! ## Exact arithmetic (R313) -/

/-- An integer of units of `2 ^ e` stands for that number. -/
theorem toRat_ofInt (z : Bool) (i e : Int) : (ofInt z i e).toRat = i * 2 ^ e := by
  unfold ofInt
  split
  · next zero => rw [zero, Int.cast_zero, zero_mul]; rfl
  · have value : signFactor (decide (i < 0)) * (i.natAbs : ℚ) = i := by
      rw [Nat.cast_natAbs, signFactor]
      by_cases h : i < 0
      · rw [decide_eq_true h, abs_of_neg h, if_pos rfl, Int.cast_neg]; ring
      · rw [decide_eq_false h, abs_of_nonneg (not_lt.mp h), if_neg Bool.false_ne_true, one_mul]
    rw [FpVal.toRat, Exact.toRat_eq, value]

theorem isNumber_ofInt (z : Bool) (i e : Int) : (ofInt z i e).isNumber = true := by
  unfold ofInt
  split <;> rfl

/-- A value in units no greater than its own keeps its number. -/
theorem Exact.units_mul (v : Exact) {e : Int} (h : e ≤ v.exp) : (v.units e : ℚ) * 2 ^ e = v.toRat := by
  have scale : (2 : ℚ) ^ (v.exp - e).toNat * 2 ^ e = 2 ^ v.exp := by
    rw [← zpow_natCast, ← zpow_add₀ two_ne_zero, Int.toNat_of_nonneg (by omega), sub_add_cancel]
  rw [Exact.toRat_eq, Exact.units, signFactor]
  cases v.neg
  · rw [if_neg Bool.false_ne_true, if_neg Bool.false_ne_true]
    push_cast
    rw [mul_assoc, scale, one_mul]
  · rw [if_pos rfl, if_pos rfl]
    push_cast
    rw [neg_mul, mul_assoc, scale]
    ring

theorem signFactor_bne (a b : Bool) : signFactor (a != b) = signFactor a * signFactor b := by
  cases a <;> cases b <;> simp [signFactor]

theorem toRat_add (z : Bool) {x y : FpVal} (hx : x.isNumber = true) (hy : y.isNumber = true) :
    (x.add z y).toRat = x.toRat + y.toRat ∧ (x.add z y).isNumber = true := by
  cases x with
  | nan | inf => cases hx
  | zero a =>
    cases y with
    | nan | inf => cases hy
    | zero b => exact ⟨(add_zero _).symm, rfl⟩
    | finite w => exact ⟨(zero_add _).symm, rfl⟩
  | finite v =>
    cases y with
    | nan | inf => cases hy
    | zero b => exact ⟨(add_zero _).symm, rfl⟩
    | finite w =>
      refine ⟨?_, isNumber_ofInt _ _ _⟩
      rw [FpVal.add, toRat_ofInt, Int.cast_add, add_mul, v.units_mul (min_le_left _ _), w.units_mul (min_le_right _ _)]
      rfl

theorem toRat_mul {x y : FpVal} (hx : x.isNumber = true) (hy : y.isNumber = true) :
    (x.mul y).toRat = x.toRat * y.toRat ∧ (x.mul y).isNumber = true := by
  cases x with
  | nan | inf => cases hx
  | zero a =>
    cases y with
    | nan | inf => cases hy
    | zero b => exact ⟨(mul_zero _).symm, rfl⟩
    | finite w => exact ⟨(zero_mul _).symm, rfl⟩
  | finite v =>
    cases y with
    | nan | inf => cases hy
    | zero b => exact ⟨(mul_zero _).symm, rfl⟩
    | finite w =>
      refine ⟨?_, rfl⟩
      simp only [FpVal.mul, FpVal.toRat, Exact.toRat_eq, signFactor_bne, Nat.cast_mul, zpow_add₀ (two_ne_zero (α := ℚ))]
      ring

/-- Settles O56: a sum of finite values is one of integers of the smaller unit; a product multiplies significands. -/
theorem exactArithmetic : Obligations.ExactArithmetic := by
  unfold Obligations.ExactArithmetic
  intro z x y hx hy
  obtain ⟨sum, sumNumber⟩ := toRat_add z hx hy
  obtain ⟨product, productNumber⟩ := toRat_mul hx hy
  exact ⟨sum, product, sumNumber, productNumber⟩

end Sys2Proof.Machine
end

section
/-!
PROOFS. The end of a floating-point operation (43_float_arithmetic R310, R312; 60 R608): what `fp_finish` writes to the FPSCR, to
frD and to CR1, and when it takes the enabled exception, said once for every output; and how an arithmetic instruction comes to it.
-/

namespace Sys2Proof.Machine

/-! ## Bits of the FPSCR -/

section
variable {x y z f r : Word} {k : Nat}

/-- A bit of a word that lies within a mask is a bit of the mask. -/
theorem getMsbD_of_within (h : x &&& y = x) (hx : x.getMsbD k = true) : y.getMsbD k = true := by
  rw [← h, BitVec.getMsbD_and, Bool.and_eq_true] at hx
  exact hx.2

theorem within_trans (h : x &&& y = x) (h' : y &&& z = y) : x &&& z = x := by
  rw [← h, BitVec.and_assoc, h']

theorem within_or (h : x &&& z = x) (h' : y &&& z = y) : (x ||| y) &&& z = x ||| y := by
  rw [BitVec.and_or_distrib_right, h, h']

theorem within_bitIf (c : Bool) (h : x &&& z = x) : bitIf c x &&& z = bitIf c x := by
  cases c
  · exact BitVec.zero_and
  · exact h

/-- The exception bits are bits 3 to 12 and 21 to 23. -/
theorem fpscrExceptions_getMsbD (hk : k < 32) : fpscrExceptions.getMsbD k = exceptionBit k := by
  have all : ∀ k : Fin 32, fpscrExceptions.getMsbD k.val = exceptionBit k.val := by decide
  exact all ⟨k, hk⟩

theorem getMsbD_of_not_exceptionBit (hr : r &&& fpscrExceptions = r) (hk : k < 32) (h : exceptionBit k = false) :
    r.getMsbD k = false := by
  by_contra set
  have bit := getMsbD_of_within hr (Bool.eq_true_of_not_eq_false set)
  rw [fpscrExceptions_getMsbD hk, h] at bit
  exact Bool.false_ne_true bit

/-- VX summarises the bits of both words. -/
theorem fpscrVx_or (x y : Word) : fpscrVx (x ||| y) = (fpscrVx x || fpscrVx y) := by
  have parts : (x ||| y) &&& 0x01F80700 = (x &&& 0x01F80700) ||| (y &&& 0x01F80700) := BitVec.and_or_distrib_right
  have zero (a b : Word) : a ||| b = 0 ↔ a = 0 ∧ b = 0 := BitVec.or_eq_zero_iff
  rw [fpscrVx, fpscrVx, fpscrVx, parts, Bool.eq_iff_iff]
  simp only [bne_iff_ne, Bool.or_eq_true, ne_eq, zero]
  exact Decidable.not_and_iff_or_not

/-- Which exception that an instruction raises is enabled. -/
theorem enabledAmong_eq (hr : r &&& fpscrExceptions = r) : enabledAmong f r =
    ((fpscrVx r && f.getMsbD 24) || (r.getMsbD 3 && f.getMsbD 25) || (r.getMsbD 4 && f.getMsbD 26) ||
      (r.getMsbD 5 && f.getMsbD 27) || (r.getMsbD 6 && f.getMsbD 28)) := by
  have clear {k : Nat} (hk : k < 32) (h : exceptionBit k = false) := getMsbD_of_not_exceptionBit hr hk h
  simp [enabledAmong, fpscrFex, BitVec.getMsbD_or, BitVec.getMsbD_and, clear (k := 24) (by decide) (by decide),
    clear (k := 25) (by decide) (by decide), clear (k := 26) (by decide) (by decide),
    clear (k := 27) (by decide) (by decide), clear (k := 28) (by decide) (by decide)]

/-- FEX afterwards: FEX as it should have been before, or an enabled exception among those raised. -/
theorem leavesFex_eq (hr : r &&& fpscrExceptions = r) :
    leavesFex f r = (fpscrFex (fpscrVx f) f || enabledAmong f r) := by
  have clear {k : Nat} (hk : k < 32) (h : exceptionBit k = false) := getMsbD_of_not_exceptionBit hr hk h
  rw [enabledAmong_eq hr]
  simp only [leavesFex, fpscrFex, fpscrVx_or, BitVec.getMsbD_or, clear (k := 24) (by decide) (by decide),
    clear (k := 25) (by decide) (by decide), clear (k := 26) (by decide) (by decide),
    clear (k := 27) (by decide) (by decide), clear (k := 28) (by decide) (by decide), Bool.or_false,
    Bool.and_or_distrib_right]
  ac_rfl

end

/-! ## The FPSCR after an operation (R312) -/

section
variable {out : FpOut} {f : Word} {k : Nat}

/-- The bits of FPRF, 15 to 19, are those that an output may replace. -/
theorem putFprf_getMsbD (v : Option (BitVec 5)) (hk : k < 32) (h : k < 15 ∨ 19 < k) :
    (putFprf f v).getMsbD k = f.getMsbD k := by
  cases v with
  | none => rfl
  | some c =>
    have mask : ∀ k : Fin 32, k.val < 15 ∨ 19 < k.val → (0x0001F000 : Word).getMsbD k.val = false := by decide
    rw [putFprf, merge_getMsbD, mask ⟨k, hk⟩ h]
    rfl

theorem withFx_getMsbD (g : Word) (hk : k < 32) (h : k ≠ 0) : (withFx f g).getMsbD k = g.getMsbD k := by
  unfold withFx
  split
  · rfl
  · rw [putBit_getMsbD _ _ _ _ (by decide) hk, if_neg h]

/-- FX: set already, or an exception bit goes from 0 to 1. -/
theorem withFx_fx (g : Word) :
    (withFx f g).getMsbD 0 = (g.getMsbD 0 || g &&& ~~~ f &&& fpscrExceptions != 0) := by
  unfold withFx
  split
  · next none => rw [none]; exact (Bool.or_false _).symm
  · next some =>
    rw [putBit_getMsbD _ _ _ _ (by decide) (by decide), if_pos rfl, bne_iff_ne.mpr some, Bool.or_true]

theorem FpOut.fpscr_fr : (out.fpscr f).getMsbD 13 = out.fr := by
  rw [FpOut.fpscr, withFx_getMsbD _ (by decide) (by decide), putFprf_getMsbD _ (by decide) (by decide),
    putBit_getMsbD _ _ _ _ (by decide) (by decide), if_neg (by decide), putBit_getMsbD _ _ _ _ (by decide) (by decide), if_pos rfl]

theorem FpOut.fpscr_fi : (out.fpscr f).getMsbD 14 = out.fi := by
  rw [FpOut.fpscr, withFx_getMsbD _ (by decide) (by decide), putFprf_getMsbD _ (by decide) (by decide),
    putBit_getMsbD _ _ _ _ (by decide) (by decide), if_pos rfl]

/-- FPRF is that of the output, or stays. -/
theorem FpOut.fpscr_fprf : slice 5 (out.fpscr f) 15 = out.fprf.getD (slice 5 (f ||| out.raised) 15) := by
  apply eq_of_getMsbD
  intro k hk
  rw [slice_getMsbD 5 _ _ _ (by decide) hk, FpOut.fpscr, withFx_getMsbD _ (by omega) (by omega)]
  cases h : out.fprf with
  | none =>
    rw [putFprf, putBit_getMsbD _ _ _ _ (by decide) (by omega), if_neg (by omega), putBit_getMsbD _ _ _ _ (by decide) (by omega),
      if_neg (by omega)]
    exact (slice_getMsbD 5 _ _ _ (by decide) hk).symm
  | some c =>
    have mask : ∀ k : Fin 5, (0x0001F000 : Word).getMsbD (15 + k.val) = true := by decide
    have moved : (c.setWidth 32 <<< 12 : Word).getMsbD (15 + k) = c.getMsbD k := by
      simp only [BitVec.getMsbD_eq_getLsbD, BitVec.getLsbD_shiftLeft, BitVec.getLsbD_setWidth]
      have e : 32 - 1 - (15 + k) - 12 = 5 - 1 - k := by omega
      rw [e]
      simp only [hk, decide_true, Bool.true_and, show (15 + k < 32) by omega, show (32 - 1 - (15 + k) < 32) by omega,
        show ¬ (32 - 1 - (15 + k) < 12) by omega, show 5 - 1 - k < 32 by omega, decide_false, Bool.not_false]
    rw [putFprf, merge_getMsbD, mask ⟨k, hk⟩, if_pos rfl, moved]
    rfl

/-- Beside FX, the summaries, FR, FI and FPRF the bits are those of before and those raised. -/
theorem summary_fpscr_getMsbD (hk : k < 32) (h : 3 ≤ k) (h' : k < 13 ∨ 19 < k) :
    (fpscrSummary (out.fpscr f)).getMsbD k = (f.getMsbD k || out.raised.getMsbD k) := by
  rw [fpscrSummary_getMsbD _ _ hk, if_neg (by omega), if_neg (by omega),
    FpOut.fpscr_getMsbD _ _ _ hk (by omega) h', BitVec.getMsbD_or]

theorem exceptionBit_bounds (h : exceptionBit k = true) : 3 ≤ k ∧ (k < 13 ∨ 19 < k) := by
  simp only [exceptionBit, Bool.or_eq_true, Bool.and_eq_true, decide_eq_true_eq] at h
  omega

/-- The exception bits afterwards are those of before and those raised. -/
theorem summary_fpscr_exceptions (hr : out.raised &&& fpscrExceptions = out.raised) :
    fpscrSummary (out.fpscr f) &&& fpscrExceptions = f &&& fpscrExceptions ||| out.raised := by
  apply eq_of_getMsbD
  intro k hk
  rw [BitVec.getMsbD_and, BitVec.getMsbD_or, BitVec.getMsbD_and, fpscrExceptions_getMsbD hk]
  cases e : exceptionBit k with
  | false => simp [getMsbD_of_not_exceptionBit hr hk e]
  | true =>
    obtain ⟨low, high⟩ := exceptionBit_bounds e
    simp [summary_fpscr_getMsbD hk low high]

/-- What R310 item 1 and R312 say of the FPSCR. -/
theorem fpscrEffect_summary {affected : Word} (hr : out.raised &&& affected = out.raised)
    (ha : affected &&& fpscrExceptions = affected) : fpscrEffect f (fpscrSummary (out.fpscr f)) affected := by
  have hre := within_trans hr ha
  have after := summary_fpscr_exceptions (f := f) hre
  have plain {k : Nat} (hk : k < 32) (h : exceptionBit k = true) :
      (fpscrSummary (out.fpscr f)).getMsbD k = (f.getMsbD k || out.raised.getMsbD k) :=
    summary_fpscr_getMsbD hk (exceptionBit_bounds h).1 (exceptionBit_bounds h).2
  refine ⟨?kept, ?raised, ?fx, fpscrSummary_idem _, ?enables⟩
  case kept =>
    apply eq_of_getMsbD
    intro k hk
    simp only [BitVec.getMsbD_and, BitVec.getMsbD_not, fpscrExceptions_getMsbD hk, hk, decide_true, Bool.true_and]
    cases e : exceptionBit k with
    | false => simp
    | true => rw [plain hk e]; cases f.getMsbD k <;> simp
  case raised =>
    apply eq_of_getMsbD
    intro k hk
    rw [after]
    have listed := @getMsbD_of_within _ _ k hr
    simp only [BitVec.getMsbD_and, BitVec.getMsbD_or, BitVec.getMsbD_not, hk, decide_true, Bool.true_and]
    cases hf : f.getMsbD k <;> cases hk : out.raised.getMsbD k <;> simp_all
  case fx =>
    have zero : out.raised.getMsbD 0 = false := getMsbD_of_not_exceptionBit hre (by decide) (by decide)
    have start : (putFprf (putBit (putBit (f ||| out.raised) 13 out.fr) 14 out.fi) out.fprf).getMsbD 0 = f.getMsbD 0 := by
      rw [putFprf_getMsbD _ (by decide) (by decide), putBit_getMsbD _ _ _ _ (by decide) (by decide), if_neg (by decide),
        putBit_getMsbD _ _ _ _ (by decide) (by decide), if_neg (by decide), BitVec.getMsbD_or, zero, Bool.or_false]
    have fresh : putFprf (putBit (putBit (f ||| out.raised) 13 out.fr) 14 out.fi) out.fprf &&& ~~~ f &&& fpscrExceptions =
        fpscrSummary (out.fpscr f) &&& fpscrExceptions &&& ~~~ f := by
      apply eq_of_getMsbD
      intro k hk
      simp only [BitVec.getMsbD_and, BitVec.getMsbD_not, fpscrExceptions_getMsbD hk, hk, decide_true, Bool.true_and]
      cases e : exceptionBit k with
      | false => simp
      | true =>
        obtain ⟨low, high⟩ := exceptionBit_bounds e
        rw [plain hk e, putFprf_getMsbD _ hk (by omega), putBit_getMsbD _ _ _ _ (by decide) hk,
          if_neg (by rintro rfl; simp [exceptionBit] at e), putBit_getMsbD _ _ _ _ (by decide) hk,
          if_neg (by rintro rfl; simp [exceptionBit] at e), BitVec.getMsbD_or]
        simp
    rw [fpscrSummary_getMsbD _ _ (by decide), if_neg (by decide), if_neg (by decide), FpOut.fpscr, withFx_fx, start, fresh]
    rfl
  case enables =>
    apply eq_of_getMsbD
    intro k hk
    have mask : ∀ k : Fin 32, (0x8FF : Word).getMsbD k.val = true → exceptionBit k.val = false ∧ 19 < k.val := by decide
    rw [BitVec.getMsbD_and, BitVec.getMsbD_and]
    cases m : (0x8FF : Word).getMsbD k with
    | false => simp
    | true =>
      obtain ⟨e, low⟩ := mask ⟨k, hk⟩ m
      change 19 < k at low
      rw [summary_fpscr_getMsbD hk (by omega) (.inr low), getMsbD_of_not_exceptionBit hre hk e, Bool.or_false]

end

/-! ## The updates of `fp_finish` -/

section
variable (d : BitVec 5) (single rc : Bool) (out : FpOut) (s : State)

/-- The floating-point registers after the result. -/
def fprAfter (file : Vector Dword 32) (v : Option Dword) : Vector Dword 32 :=
  match v with
  | none => file
  | some v => file.set d.toFin.val v d.toFin.isLt

/-- Their tags. -/
def tagsAfter (tags : Vector Bool 32) (v : Option Dword) : Vector Bool 32 :=
  match v with
  | none => tags
  | some _ => tags.set d.toFin.val single d.toFin.isLt

/-- CR after CR1 has been recorded from the FPSCR `f`, if it is recorded. -/
def crAfter (cr f : Word) : Word := if rc then putField cr 1 (slice 4 f 0) else cr

/-- The updates change the floating-point registers, the FPSCR and CR alone. -/
theorem fpUpdate_eq : fpUpdate d single rc out s =
    { s with fpr := fprAfter d s.fpr out.value, fprSingle := tagsAfter d single s.fprSingle out.value,
             fpscr := fpscrSummary (out.fpscr s.fpscr), cr := crAfter rc s.cr (fpscrSummary (out.fpscr s.fpscr)) } := by
  cases rc <;> cases h : out.value <;> simp only [fpUpdate, State.recordCr1If, State.setResult, h] <;> rfl

theorem fpUpdate_fpscr : (fpUpdate d single rc out s).fpscr = fpscrSummary (out.fpscr s.fpscr) := by
  cases rc <;> rfl

theorem fpUpdate_getFpr (q : BitVec 5) :
    (fpUpdate d single rc out s).getFpr q = if q = d then out.value.getD (s.getFpr d) else s.getFpr q := by
  have read : (fpUpdate d single rc out s).getFpr q = (s.setResult d out.value single).getFpr q := by cases rc <;> rfl
  rw [read]
  cases out.value with
  | none =>
    change s.getFpr q = if q = d then s.getFpr d else s.getFpr q
    split
    · next h => rw [h]
    · rfl
  | some v => exact State.setFpr_getFpr ..

theorem fpUpdate_isSingle (q : BitVec 5) : (fpUpdate d single rc out s).isSingle q =
    if q = d ∧ out.value.isSome = true then single else s.isSingle q := by
  have read : (fpUpdate d single rc out s).isSingle q = (s.setResult d out.value single).isSingle q := by cases rc <;> rfl
  rw [read]
  cases out.value with
  | none => simp [State.setResult]
  | some v =>
    simp only [Option.isSome_some, and_true]
    exact State.setFpr_isSingle ..

theorem fpUpdate_fprsKept : fprsKept s (fpUpdate d single rc out s) [d] := by
  intro q hq
  have other : q ≠ d := by simpa using hq
  rw [fpUpdate_getFpr, fpUpdate_isSingle, if_neg other, if_neg (fun h => other h.1)]
  exact ⟨rfl, rfl⟩

theorem State.recordCr1If_frame : s.recordCr1If rc = { s with cr := (s.recordCr1If rc).cr } := by
  cases rc <;> rfl

theorem State.recordCr1If_crField (q : BitVec 3) :
    (s.recordCr1If rc).crField q = if q = 1 ∧ rc = true then slice 4 s.fpscr 0 else s.crField q := by
  cases rc with
  | false => simp [State.recordCr1If]
  | true => simp [State.recordCr1If, State.recordCr1]

theorem State.recordCr1If_cr1Effect : cr1Effect s (s.recordCr1If rc) rc := by
  have same : (s.recordCr1If rc).fpscr = s.fpscr := by cases rc <;> rfl
  refine ⟨?_, fun q hq => ?_⟩
  · rw [State.recordCr1If_crField, same]
    simp
  · have other : q ≠ 1 := by simpa using hq
    rw [State.recordCr1If_crField, if_neg (fun h => other h.1)]

theorem fpUpdate_cr1Effect : cr1Effect s (fpUpdate d single rc out s) rc := by
  have recorded := ((s.setResult d out.value single).setFpscr (out.fpscr s.fpscr)).recordCr1If_cr1Effect rc
  have same (q : BitVec 3) : ((s.setResult d out.value single).setFpscr (out.fpscr s.fpscr)).crField q = s.crField q := by
    cases out.value <;> rfl
  obtain ⟨one, others⟩ := recorded
  rw [same] at one
  exact ⟨one, fun q hq => (others q hq).trans (same q)⟩

/-- An operation that takes no exception completes with the updates, and the pc is the next in sequence. -/
theorem done_fpUpdate : done (fpUpdate d single rc out s) = .next { fpUpdate d single rc out s with nia := s.nextPc } := by
  rw [done_eq, fpUpdate_eq]
  rfl

end

/-! ## The end of an operation -/

/-- The output `out` of an operation of `s` stands in `t`: in frD, the FPSCR and CR1. -/
structure OutputStands (s t : State) (d : BitVec 5) (rc : Bool) (out : FpOut) : Prop where
  kept : fprsKept s t [d]
  fpscr : t.fpscr = fpscrSummary (out.fpscr s.fpscr)
  value : t.getFpr d = out.value.getD (s.getFpr d)
  tag : out.value = none → t.isSingle d = s.isSingle d
  cr1 : cr1Effect s t rc

theorem fpUpdate_stands (d : BitVec 5) (single rc : Bool) (out : FpOut) (s : State) :
    OutputStands s (fpUpdate d single rc out s) d rc out where
  kept := fpUpdate_fprsKept d single rc out s
  fpscr := fpUpdate_fpscr ..
  value := by rw [fpUpdate_getFpr, if_pos rfl]
  tag := fun h => by simp [fpUpdate_isSingle, h]
  cr1 := fpUpdate_cr1Effect ..

/-- It stands as well in a state with the same registers. -/
theorem OutputStands.congr {s s' t t' : State} {d : BitVec 5} {rc : Bool} {out : FpOut} (h : OutputStands s t d rc out)
    (hs : s' = { s with draws := s'.draws }) (fpr : t'.fpr = t.fpr) (tags : t'.fprSingle = t.fprSingle)
    (fpscr : t'.fpscr = t.fpscr) (cr : t'.cr = t.cr) : OutputStands s' t' d rc out := by
  obtain ⟨kept, fs, value, tag, one, others⟩ := h
  have get (q : BitVec 5) : t'.getFpr q = t.getFpr q := by rw [State.getFpr, fpr]; rfl
  have isSingle (q : BitVec 5) : t'.isSingle q = t.isSingle q := by rw [State.isSingle, tags]; rfl
  have field (q : BitVec 3) : t'.crField q = t.crField q := by rw [State.crField, cr]; rfl
  rw [hs]
  refine ⟨fun q hq => ?_, fpscr.trans fs, (get d).trans value, fun h => (isSingle d).trans (tag h), ?_, fun q hq => ?_⟩
  · rw [get, isSingle]
    exact kept q hq
  · rw [field, fpscr]
    exact one
  · rw [field]
    exact others q hq

section
variable {s t : State} {d : BitVec 5} {rc : Bool} {out : FpOut} {affected : Word}

theorem OutputStands.fr (h : OutputStands s t d rc out) : t.fpscr.getMsbD 13 = out.fr := by
  rw [h.fpscr, fpscrSummary_getMsbD _ _ (by decide), if_neg (by decide), if_neg (by decide), FpOut.fpscr_fr]

theorem OutputStands.fi (h : OutputStands s t d rc out) : t.fpscr.getMsbD 14 = out.fi := by
  rw [h.fpscr, fpscrSummary_getMsbD _ _ (by decide), if_neg (by decide), if_neg (by decide), FpOut.fpscr_fi]

theorem OutputStands.fex (h : OutputStands s t d rc out) : t.fpscr.getMsbD 1 = leavesFex s.fpscr out.raised := by
  rw [h.fpscr, ← fpUpdate_fpscr d false rc out s, fpUpdate_fex]

theorem OutputStands.fprf (h : OutputStands s t d rc out) (hr : out.raised &&& fpscrExceptions = out.raised) :
    slice 5 t.fpscr 15 = out.fprf.getD (slice 5 s.fpscr 15) := by
  have whole : slice 5 t.fpscr 15 = slice 5 (out.fpscr s.fpscr) 15 := by
    apply eq_of_getMsbD
    intro k hk
    rw [slice_getMsbD 5 _ _ _ (by decide) hk, slice_getMsbD 5 _ _ _ (by decide) hk, h.fpscr,
      fpscrSummary_getMsbD _ _ (by omega), if_neg (by omega), if_neg (by omega)]
  have before : slice 5 (s.fpscr ||| out.raised) 15 = slice 5 s.fpscr 15 := by
    have plain : ∀ k : Fin 5, exceptionBit (15 + k.val) = false := by decide
    apply eq_of_getMsbD
    intro k hk
    rw [slice_getMsbD 5 _ _ _ (by decide) hk, slice_getMsbD 5 _ _ _ (by decide) hk, BitVec.getMsbD_or,
      getMsbD_of_not_exceptionBit hr (by omega) (plain ⟨k, hk⟩), Bool.or_false]
  rw [whole, FpOut.fpscr_fprf, before]

theorem OutputStands.raises (h : OutputStands s t d rc out) (hr : out.raised &&& fpscrExceptions = out.raised) :
    raisesBits s t out.raised := by
  rw [raisesBits, h.fpscr]
  exact summary_fpscr_exceptions hr

theorem OutputStands.effect (h : OutputStands s t d rc out) (hr : out.raised &&& affected = out.raised)
    (ha : affected &&& fpscrExceptions = affected) : fpscrEffect s.fpscr t.fpscr affected := by
  rw [h.fpscr]
  exact fpscrEffect_summary hr ha

end

theorem enter_fprSingle (e : Exc) (ret : Dword) (s : State) : (enter e ret s).fprSingle = s.fprSingle := by
  rw [enter_frame]

section
variable {d : BitVec 5} {single rc : Bool} {out : FpOut} {s : State} {n : Nat}

theorem fpFinish_done (h : enabledAmong s.fpscr out.raised = false ∨ s.fe = false) :
    fpFinish d single rc out s = .next { fpUpdate d single rc out s with nia := s.nextPc } := by
  have fe : (fpUpdate d single rc out s).fe = s.fe := by rw [fpUpdate_eq]; rfl
  have off : (enabledAmong s.fpscr out.raised && (fpUpdate d single rc out s).fe) = false := by
    rw [fe, Bool.and_eq_false_iff]
    exact h
  rw [fpFinish, endEnabled, off]
  exact done_fpUpdate ..

theorem fpFinish_raise (h : enabledAmong s.fpscr out.raised = true) (fe : s.fe = true) :
    fpFinish d single rc out s = .next (enter (.program .fpEnabled) s.nia (fpUpdate d single rc out s)) := by
  have fe' : (fpUpdate d single rc out s).fe = s.fe := by rw [fpUpdate_eq]; rfl
  have nia : (fpUpdate d single rc out s).nia = s.nia := by rw [fpUpdate_eq]
  rw [fpFinish, endEnabled, h, fe', fe, ← nia]
  rfl

/-- Where no enabled exception is taken, the operation completes and its output stands. -/
theorem fpFinish_completes (h : enabledAmong s.fpscr out.raised = false ∨ s.fe = false) :
    ∃ t, fpFinish d single rc out { s with draws := n } = .next t ∧ floatFrame s t ∧ OutputStands s t d rc out := by
  refine ⟨_, fpFinish_done h, ⟨?_, fun a => ?_⟩, ?_⟩
  · rw [fpUpdate_eq]; rfl
  · rw [fpUpdate_eq]
  · exact (fpUpdate_stands d single rc out { s with draws := n }).congr rfl rfl rfl rfl rfl

/-- Where one is taken, the output stands too, and the exception's own address is the instruction's. -/
theorem fpFinish_takes (h : enabledAmong s.fpscr out.raised = true) (fe : s.fe = true) :
    ∃ t, fpFinish d single rc out { s with draws := n } = .next t ∧ OutputStands s t d rc out ∧
      (out.value = none → raisesIn (.program .fpEnabled) { s with fpscr := t.fpscr, cr := t.cr, draws := t.draws } (.next t)) := by
  refine ⟨_, fpFinish_raise h fe, ?_, fun none => ?_⟩
  · exact (fpUpdate_stands d single rc out { s with draws := n }).congr rfl (enter_fpr ..) (enter_fprSingle ..) (enter_fpscr ..) (enter_cr ..)
  · rw [raisesIn, enter_fpscr, enter_cr, fpUpdate_eq, none]
    rfl

end

/-! ## Arithmetic instructions (R314 to R334) -/

section
variable (op : FpOp) (x : FpOperands) (used : List Dword) (affected : Word) (out : Word → Dword → FpOut) (s : State)

/-- The output of a double-precision instruction. -/
def doubleOut : FpOut := arithResult op false x affected ((out s.fpscr (s.draw 64)).within affected) s

/-- The output of a single-precision one. -/
def singleOut : FpOut :=
  if used.all singleRepresentable then arithResult op true x affected ((out s.fpscr (s.draw 64)).within affected) s
  else (FpOut.undefined (s.draw 64) (s.drew.draw 32)).within affected

theorem runDouble_eq (d : BitVec 5) (rc : Bool) : runDouble d rc affected op x out s =
    fpFinish d false rc (doubleOut op x affected out s) { s with draws := s.draws + 1 } := rfl

theorem runSingle_eq (d : BitVec 5) (rc : Bool) : runSingle d rc used affected op x out s =
    fpFinish d true rc (singleOut op x used affected out s) { s with draws := s.draws + 2 } := by
  unfold runSingle singleOut
  split <;> rfl

theorem FpOut.within_raised (out : FpOut) (affected : Word) :
    (out.within affected).raised &&& affected = (out.within affected).raised := by
  simp only [FpOut.within, BitVec.and_assoc, BitVec.and_self]

/-- Under every arithmetic an operation raises only what its page lists (R310 item 1). -/
theorem arithResult_raised (single : Bool) {ref : FpOut} (h : ref.raised &&& affected = ref.raised) :
    (arithResult op single x affected ref s).raised &&& affected = (arithResult op single x affected ref s).raised := by
  unfold arithResult
  split
  · exact h
  · split
    · exact h
    · unfold admitAnswer
      split
      · exact h
      · rw [answerOut_raised]
        simp only [answerWithin, BitVec.and_assoc, BitVec.and_self]

theorem doubleOut_raised :
    (doubleOut op x affected out s).raised &&& affected = (doubleOut op x affected out s).raised :=
  arithResult_raised _ _ _ _ _ (FpOut.within_raised _ _)

theorem singleOut_raised :
    (singleOut op x used affected out s).raised &&& affected = (singleOut op x used affected out s).raised := by
  unfold singleOut
  split
  · exact arithResult_raised _ _ _ _ _ (FpOut.within_raised _ _)
  · exact FpOut.within_raised _ _

end

/-! ### The MSR without FE0 and FE1 -/

theorem State.quiet_fe (s : State) : State.fe { s with msr := s.msr &&& ~~~ 0x900 } = false := by
  simp only [State.fe, BitVec.getMsbD_and]
  have bits : (~~~ 0x900 : Dword).getMsbD 52 = false ∧ (~~~ 0x900 : Dword).getMsbD 55 = false := by decide
  rw [bits.1, bits.2, Bool.and_false, Bool.and_false, Bool.or_false]

theorem State.quiet_fpOn (s : State) : State.fpOn { s with msr := s.msr &&& ~~~ 0x900 } = s.fpOn := by
  have bit : (~~~ 0x900 : Dword).getMsbD 50 = true := by decide
  simp only [State.fpOn, BitVec.getMsbD_and, bit, Bool.and_true]

theorem State.quiet_nextPc (s : State) : State.nextPc { s with msr := s.msr &&& ~~~ 0x900 } = s.nextPc := by
  have bit : (~~~ 0x900 : Dword).getMsbD 0 = true := by decide
  rw [State.nextPc, State.nextPc, State.ea32, State.ea32, State.mode64, State.mode64, State.sf, State.sf, BitVec.getMsbD_and,
    bit, Bool.and_true]

/-- An instruction that ends in `fp_finish`, whatever FE0 and FE1, has the effect that O51 asks of an arithmetic one. -/
theorem arithmeticEffect_of_finish {s : State} {d : BitVec 5} {single rc : Bool} {out : FpOut} {affected : Word} {i : Instr}
    {n : Nat} (on : s.fpOn = true) (hr : out.raised &&& affected = out.raised) (ha : affected &&& fpscrExceptions = affected)
    (e : ∀ m, State.fpOn { s with msr := m } = true →
      exec i { s with msr := m } = fpFinish d single rc out { s with msr := m, draws := n }) :
    arithmeticEffect s d rc affected i := by
  have full : exec i s = fpFinish d single rc out { s with draws := n } := e s.msr on
  have quiet := (e (s.msr &&& ~~~ 0x900) (s.quiet_fpOn.trans on)).trans (fpFinish_done (.inr s.quiet_fe))
  have fex : (fpUpdate d single rc out { s with draws := n }).fpscr.getMsbD 1 = leavesFex s.fpscr out.raised := fpUpdate_fex ..
  have all := leavesFex_eq (f := s.fpscr) (within_trans hr ha)
  unfold arithmeticEffect
  refine ⟨?_, fun t ht => ?_⟩
  · have completes := fpFinish_completes (d := d) (single := single) (rc := rc) (out := out) (n := n)
      (s := { s with msr := s.msr &&& ~~~ 0x900 }) (.inr s.quiet_fe)
    rw [← e _ (s.quiet_fpOn.trans on)] at completes
    obtain ⟨t, next, frame, stands⟩ := completes
    refine ⟨t, next, frame, stands.kept, ?_, stands.cr1⟩
    rw [stands.fpscr]
    exact fpscrEffect_summary hr ha
  · have value : t = { fpUpdate d single rc out { s with draws := n } with msr := s.msr &&& ~~~ 0x900, nia := s.nextPc } := by
      rw [quiet, Host.Outcome.next.injEq] at ht
      rw [← ht, ← s.quiet_nextPc, fpUpdate_eq, fpUpdate_eq]
      rfl
    have bit : t.fpscr.getMsbD 1 = leavesFex s.fpscr out.raised := by rw [value]; exact fex
    refine ⟨fun off => ?_, fun fe before after => ?_⟩
    · have disabled : enabledAmong s.fpscr out.raised = false ∨ s.fe = false := by
        obtain fe | clear := off
        · exact .inr fe
        · rw [bit, all, Bool.or_eq_false_iff] at clear
          exact .inl clear.2
      refine full.trans ((fpFinish_done (s := { s with draws := n }) disabled).trans ?_)
      rw [value, fpUpdate_eq]
      rfl
    · rw [fpscrSummary_getMsbD _ _ (by decide), if_pos rfl] at before
      rw [bit, all, before, Bool.false_or] at after
      refine full.trans ((fpFinish_raise (s := { s with draws := n }) after fe).trans ?_)
      rw [value, fpUpdate_eq]

/-- What an instruction reads of the state depends on neither FE0 nor FE1, the operands and its output among it. -/
def IgnoresMsr {α : Type} (f : State → α) : Prop := ∀ s m, f { s with msr := m } = f s

section
variable {s : State} {d : BitVec 5} {rc : Bool} {affected : Word} {op : FpOp} {x : State → FpOperands}
  {used : State → List Dword} {out : State → Word → Dword → FpOut} {i : Instr}

theorem arithmeticEffect_double (on : s.fpOn = true) (ha : affected &&& fpscrExceptions = affected)
    (e : ∀ u : State, u.fpOn = true → u.cfg = s.cfg → exec i u = runDouble d rc affected op (x u) (out u) u)
    (hx : IgnoresMsr x) (ho : IgnoresMsr out) : arithmeticEffect s d rc affected i := by
  refine arithmeticEffect_of_finish (single := false) (n := s.draws + 1) on (doubleOut_raised op (x s) affected (out s) s) ha fun m h => ?_
  rw [e _ h rfl, hx, ho]
  rfl

theorem arithmeticEffect_single (on : s.fpOn = true) (ha : affected &&& fpscrExceptions = affected)
    (e : ∀ u : State, u.fpOn = true → u.cfg = s.cfg → exec i u = runSingle d rc (used u) affected op (x u) (out u) u)
    (hu : IgnoresMsr used) (hx : IgnoresMsr x) (ho : IgnoresMsr out) : arithmeticEffect s d rc affected i := by
  refine arithmeticEffect_of_finish (single := true) (n := s.draws + 2) on (singleOut_raised op (x s) (used s) affected (out s) s) ha
    fun m h => ?_
  rw [e _ h rfl, hu, hx, ho, runSingle_eq]
  rfl

/-- An optional floating-point instruction that the implementation has, with floating point available, has its effect. -/
theorem exec_optional {k : Result} (on : s.fpOn = true) (has : existsOn s.cfg (requirement i).existence = true)
    (e : exec i s = guarded i s k) (p : checkPrivilege s (requirement i).privilege = none)
    (f : i.wellFormed s.cfg.impl64 = true) : exec i s = k :=
  exec_of_guarded e (preCheck_none has (fun _ => on) p) f

end

/-- Every arithmetic instruction with MSR[FP] = 1 ends in `fp_finish`. -/
theorem arithmetic_effects (s : State) (d a b c : BitVec 5) (rc : Bool) (on : s.fpOn = true) :
    arithmeticEffect s d rc affectedAdd (.faddx d a b rc) ∧ arithmeticEffect s d rc affectedAdd (.faddsx d a b rc) ∧
    arithmeticEffect s d rc affectedAdd (.fsubx d a b rc) ∧ arithmeticEffect s d rc affectedAdd (.fsubsx d a b rc) ∧
    arithmeticEffect s d rc affectedMul (.fmulx d a c rc) ∧ arithmeticEffect s d rc affectedMul (.fmulsx d a c rc) ∧
    arithmeticEffect s d rc affectedDiv (.fdivx d a b rc) ∧ arithmeticEffect s d rc affectedDiv (.fdivsx d a b rc) ∧
    (s.cfg.optFsqrt = true → arithmeticEffect s d rc affectedSqrt (.fsqrtx d b rc) ∧
      arithmeticEffect s d rc affectedSqrt (.fsqrtsx d b rc)) ∧
    (s.cfg.optFres = true → arithmeticEffect s d rc affectedRes (.fresx d b rc)) ∧
    (s.cfg.optFrsqrte = true → arithmeticEffect s d rc affectedRsqrte (.frsqrtex d b rc)) ∧
    arithmeticEffect s d rc affectedMadd (.fmaddx d a b c rc) ∧ arithmeticEffect s d rc affectedMadd (.fmaddsx d a b c rc) ∧
    arithmeticEffect s d rc affectedMadd (.fmsubx d a b c rc) ∧ arithmeticEffect s d rc affectedMadd (.fmsubsx d a b c rc) ∧
    arithmeticEffect s d rc affectedMadd (.fnmaddx d a b c rc) ∧ arithmeticEffect s d rc affectedMadd (.fnmaddsx d a b c rc) ∧
    arithmeticEffect s d rc affectedMadd (.fnmsubx d a b c rc) ∧ arithmeticEffect s d rc affectedMadd (.fnmsubsx d a b c rc) := by
  have add : affectedAdd &&& fpscrExceptions = affectedAdd := by decide
  have mul : affectedMul &&& fpscrExceptions = affectedMul := by decide
  have div : affectedDiv &&& fpscrExceptions = affectedDiv := by decide
  have sqrt : affectedSqrt &&& fpscrExceptions = affectedSqrt := by decide
  have madd : affectedMadd &&& fpscrExceptions = affectedMadd := by decide
  exact ⟨arithmeticEffect_double on add (fun _ on _ => exec_float on rfl rfl rfl) (fun _ _ => rfl) (fun _ _ => rfl),
    arithmeticEffect_single on add (fun _ on _ => exec_float on rfl rfl rfl) (fun _ _ => rfl) (fun _ _ => rfl) (fun _ _ => rfl),
    arithmeticEffect_double on add (fun _ on _ => exec_float on rfl rfl rfl) (fun _ _ => rfl) (fun _ _ => rfl),
    arithmeticEffect_single on add (fun _ on _ => exec_float on rfl rfl rfl) (fun _ _ => rfl) (fun _ _ => rfl) (fun _ _ => rfl),
    arithmeticEffect_double on mul (fun _ on _ => exec_float on rfl rfl rfl) (fun _ _ => rfl) (fun _ _ => rfl),
    arithmeticEffect_single on mul (fun _ on _ => exec_float on rfl rfl rfl) (fun _ _ => rfl) (fun _ _ => rfl) (fun _ _ => rfl),
    arithmeticEffect_double on div (fun _ on _ => exec_float on rfl rfl rfl) (fun _ _ => rfl) (fun _ _ => rfl),
    arithmeticEffect_single on div (fun _ on _ => exec_float on rfl rfl rfl) (fun _ _ => rfl) (fun _ _ => rfl) (fun _ _ => rfl),
    fun has => ⟨arithmeticEffect_double on sqrt (fun _ on cfg => exec_optional on (cfg ▸ has) rfl rfl rfl) (fun _ _ => rfl) (fun _ _ => rfl),
      arithmeticEffect_single on sqrt (fun _ on cfg => exec_optional on (cfg ▸ has) rfl rfl rfl) (fun _ _ => rfl) (fun _ _ => rfl) (fun _ _ => rfl)⟩,
    fun has => arithmeticEffect_single on (by decide) (fun _ on cfg => exec_optional on (cfg ▸ has) rfl rfl rfl) (fun _ _ => rfl) (fun _ _ => rfl) (fun _ _ => rfl),
    fun has => arithmeticEffect_double on (by decide) (fun _ on cfg => exec_optional on (cfg ▸ has) rfl rfl rfl) (fun _ _ => rfl) (fun _ _ => rfl),
    arithmeticEffect_double on madd (fun _ on _ => exec_float on rfl rfl rfl) (fun _ _ => rfl) (fun _ _ => rfl),
    arithmeticEffect_single on madd (fun _ on _ => exec_float on rfl rfl rfl) (fun _ _ => rfl) (fun _ _ => rfl) (fun _ _ => rfl),
    arithmeticEffect_double on madd (fun _ on _ => exec_float on rfl rfl rfl) (fun _ _ => rfl) (fun _ _ => rfl),
    arithmeticEffect_single on madd (fun _ on _ => exec_float on rfl rfl rfl) (fun _ _ => rfl) (fun _ _ => rfl) (fun _ _ => rfl),
    arithmeticEffect_double on madd (fun _ on _ => exec_float on rfl rfl rfl) (fun _ _ => rfl) (fun _ _ => rfl),
    arithmeticEffect_single on madd (fun _ on _ => exec_float on rfl rfl rfl) (fun _ _ => rfl) (fun _ _ => rfl) (fun _ _ => rfl),
    arithmeticEffect_double on madd (fun _ on _ => exec_float on rfl rfl rfl) (fun _ _ => rfl) (fun _ _ => rfl),
    arithmeticEffect_single on madd (fun _ on _ => exec_float on rfl rfl rfl) (fun _ _ => rfl) (fun _ _ => rfl) (fun _ _ => rfl)⟩

/-! ## Moves (R326; 44 R350 to R354) -/

/-- The end of a move: a bit pattern, its tag, and CR1. -/
theorem moveEffect_of_exec {s : State} {d : BitVec 5} {rc single : Bool} {v w : Dword} {r : Result}
    (e : r = done ((s.setFpr d w single).recordCr1If rc)) (value : w = v) : moveEffect s d rc v single r := by
  have recorded := (s.setFpr d w single).recordCr1If_cr1Effect rc
  have get (q : BitVec 5) : ((s.setFpr d w single).recordCr1If rc).getFpr q = if q = d then w else s.getFpr q := by
    rw [State.recordCr1If_frame]; exact s.setFpr_getFpr d q w single
  have tag (q : BitVec 5) : ((s.setFpr d w single).recordCr1If rc).isSingle q = if q = d then single else s.isSingle q := by
    rw [State.recordCr1If_frame]; exact s.setFpr_isSingle d q w single
  rw [← value, e, done_eq]
  refine ⟨_, rfl, ⟨?_, ?_⟩, ?_, ?_, (get d).trans (if_pos rfl), (tag d).trans (if_pos rfl), fun q hq => ?_, recorded⟩
  · rw [State.recordCr1If_frame]; rfl
  · rw [State.recordCr1If_frame]; exact fun _ => rfl
  · rw [State.recordCr1If_frame]; rfl
  · rw [State.recordCr1If_frame]; rfl
  · have other : q ≠ d := by simpa using hq
    exact ⟨(get q).trans (if_neg other), (tag q).trans (if_neg other)⟩

/-- A sign before the other 63 bits of a double. -/
theorem sign_append_getMsbD (b : Bool) (x : Dword) {k : Nat} (hk : k < 64) :
    (BitVec.ofBool b ++ x.setWidth 63 : Dword).getMsbD k = if k = 0 then b else x.getMsbD k := by
  simp only [BitVec.getMsbD_append, BitVec.getMsbD_setWidth]
  by_cases h : k = 0
  · subst h; cases b <;> rfl
  · simp [h, show 1 ≤ k by omega, show k - 1 + 64 - 63 = k by omega]

theorem clear_sign (x : Dword) : x &&& 0x7FFFFFFFFFFFFFFF = 0#1 ++ x.setWidth 63 := by
  have mask : ∀ k : Fin 64, (0x7FFFFFFFFFFFFFFF : Dword).getMsbD k.val = decide (k.val ≠ 0) := by decide
  apply eq_of_getMsbD
  intro k hk
  rw [BitVec.getMsbD_and, mask ⟨k, hk⟩]
  refine Eq.trans ?_ (sign_append_getMsbD false x hk).symm
  by_cases h : k = 0 <;> simp [h]

theorem set_sign (x : Dword) : x ||| 0x8000000000000000 = 1#1 ++ x.setWidth 63 := by
  have mask : ∀ k : Fin 64, (0x8000000000000000 : Dword).getMsbD k.val = decide (k.val = 0) := by decide
  apply eq_of_getMsbD
  intro k hk
  rw [BitVec.getMsbD_or, mask ⟨k, hk⟩]
  refine Eq.trans ?_ (sign_append_getMsbD true x hk).symm
  by_cases h : k = 0 <;> simp [h]

theorem atLeastZero_eq (a : Dword) : atLeastZero a = (!isNan a && (!a.msb || zero a)) := rfl

/-- The test of `fsel` takes frC where frA is zero, positive or plus infinity. -/
theorem atLeastZero_of_nonnegative {a : Dword} (h : (∃ n, classify a = .zero n) ∨ classify a = .inf false ∨
    ∃ v, classify a = .finite v ∧ v.neg = false) : atLeastZero a = true := by
  rw [atLeastZero_eq]
  obtain ⟨-, is⟩ | ⟨number, -, is⟩ | ⟨number, zero, is⟩ | ⟨number, -, is⟩ := classify_cases a <;> rw [is] at h
  · simp at h
  · have plus : a.msb = false := by simpa using h
    rw [number, plus]; rfl
  · rw [isNan_of_isNumber number, zero, Bool.or_true]; rfl
  · have plus : a.msb = false := by simpa [finiteOf_neg] using h
    rw [isNan_of_isNumber number, plus]; rfl

/-- And frB where it is negative or a NaN. -/
theorem atLeastZero_of_negative {a : Dword} (h : classify a = .nan ∨ classify a = .inf true ∨
    ∃ v, classify a = .finite v ∧ v.neg = true) : atLeastZero a = false := by
  rw [atLeastZero_eq]
  obtain ⟨nan, -⟩ | ⟨-, inf, is⟩ | ⟨-, -, is⟩ | ⟨-, zero, is⟩ := classify_cases a
  · rw [nan]; rfl
  · have minus : a.msb = true := by simpa [is] using h
    have nonzero : zero a = false := by
      rw [Bool.eq_false_iff, ne_eq, zero_iff, (infinite_iff.mp inf).1]
      exact fun h => absurd h.1 (by decide)
    rw [minus, nonzero, Bool.not_true, Bool.or_false, Bool.and_false]
  · simp [is] at h
  · have minus : a.msb = true := by simpa [is, finiteOf_neg] using h
    rw [minus, zero, Bool.not_true, Bool.or_false, Bool.and_false]

/-- Settles O57: the moves and `fsel` end in the same write of frD and CR1, and differ in the bit pattern. -/
theorem floatMoves : Obligations.FloatMoves := by
  unfold Obligations.FloatMoves
  intro s d a b c rc on
  refine ⟨?fmr, ?fneg, ?fabs, ?fnabs, fun has => ⟨fun nonnegative => ?frC, fun negative => ?frB⟩⟩
  case fmr => exact moveEffect_of_exec (exec_float on rfl rfl rfl) rfl
  case fneg => exact moveEffect_of_exec (exec_float on rfl rfl rfl) rfl
  case fabs => exact moveEffect_of_exec (exec_float on rfl rfl rfl) (clear_sign _)
  case fnabs => exact moveEffect_of_exec (exec_float on rfl rfl rfl) (set_sign _)
  case frC => exact moveEffect_of_exec (exec_optional on has rfl rfl rfl) (if_pos (atLeastZero_of_nonnegative nonnegative))
  case frB =>
    refine moveEffect_of_exec (exec_optional on has rfl rfl rfl) (if_neg ?_)
    rw [atLeastZero_of_negative negative]
    exact Bool.false_ne_true

end Sys2Proof.Machine
end

section
/-!
PROOFS. Rounding (43_float_arithmetic R313 step 5). A value of the model stands for a real magnitude: for its own, or, where it has
been truncated and jammed, for one near it that rounds alike. Rounding to a whole number of units is then the rounding of that real
number in the mode.
-/

namespace Sys2Proof.Machine

/-! ## Rounding a real number to a whole one -/

section
variable {mode : RoundMode} {neg : Bool} {c : ℝ} {n m : ℕ}

/-- A rounded number lies between the whole numbers around the number. -/
theorem roundsTo_le (h : roundsTo mode neg c n) (hc : c ≤ m) : n ≤ m := by
  have floor : ⌊c⌋₊ ≤ m := Nat.floor_le_of_le hc
  have ceil : ⌈c⌉₊ ≤ m := Nat.ceil_le.mpr hc
  cases mode with
  | nearest =>
    have near := (abs_le.mp h.1).1
    have bound : (n : ℝ) < (m + 1 : ℕ) := by push_cast; linarith
    exact Nat.lt_succ_iff.mp (Nat.cast_lt.mp bound)
  | zero => exact h ▸ floor
  | up => cases neg <;> exact h ▸ (by assumption)
  | down => cases neg <;> exact h ▸ (by assumption)

theorem le_roundsTo (h : roundsTo mode neg c n) (hc : m ≤ c) : m ≤ n := by
  have floor : m ≤ ⌊c⌋₊ := Nat.le_floor hc
  have ceil : m ≤ ⌈c⌉₊ := Nat.cast_le.mp (hc.trans (Nat.le_ceil c))
  cases mode with
  | nearest =>
    have near := (abs_le.mp h.1).2
    have bound : (m : ℝ) < (n + 1 : ℕ) := by push_cast; linarith
    exact Nat.lt_succ_iff.mp (Nat.cast_lt.mp bound)
  | zero => exact h ▸ floor
  | up => cases neg <;> exact h ▸ (by assumption)
  | down => cases neg <;> exact h ▸ (by assumption)

/-- Only one whole number is the rounded one: of two at the same distance one is odd. -/
theorem roundsTo_unique (h : roundsTo mode neg c n) (h' : roundsTo mode neg c m) : n = m := by
  cases mode with
  | nearest =>
    by_contra ne
    wlog lt : n < m generalizing n m
    · exact this h' h (Ne.symm ne) (by omega)
    obtain ⟨near, even⟩ := h
    obtain ⟨near', even'⟩ := h'
    have gap : (n : ℝ) + 1 ≤ m := by exact_mod_cast lt
    have lo := (abs_le.mp near).2
    have hi := (abs_le.mp near').1
    have tie : c - n = 1 / 2 := by linarith
    have tie' : c - m = -(1 / 2) := by linarith
    have next : (m : ℝ) = (n + 1 : ℕ) := by push_cast; linarith
    have next : m = n + 1 := Nat.cast_injective next
    have evenN := even (by rw [tie, abs_of_pos (by norm_num)])
    have evenM := even' (by rw [tie', abs_neg, abs_of_pos (by norm_num)])
    omega
  | zero => exact h.trans h'.symm
  | up => exact h.trans h'.symm
  | down => exact h.trans h'.symm

/-- A whole number is its own rounding. -/
theorem roundsTo_natCast (mode : RoundMode) (neg : Bool) (n : ℕ) : roundsTo mode neg n n := by
  cases mode with
  | nearest =>
    refine ⟨by rw [sub_self, abs_zero]; norm_num, fun tie => ?_⟩
    rw [sub_self, abs_zero] at tie
    norm_num at tie
  | zero => exact (Nat.floor_natCast n).symm
  | up => cases neg <;> simp [roundsTo]
  | down => cases neg <;> simp [roundsTo]

/-- A remainder `rem` of units of `d` says where the number `c` lies above the whole number `n`: below, at or above the middle. -/
structure Remainder (c : ℝ) (n rem d : ℕ) : Prop where
  low : n ≤ c
  high : c < n + 1
  zero : rem = 0 ↔ c = n
  below : 2 * rem < d ↔ c < n + 1 / 2
  middle : 2 * rem = d ↔ c = n + 1 / 2

/-- The model's increment rounds the number. -/
theorem increments_rounds {rem d : ℕ} (h : Remainder c n rem d) (pos : 0 < d) :
    roundsTo mode neg c (n + (increments mode neg (n % 2 == 1) rem d).toNat) ∧
      (increments mode neg (n % 2 == 1) rem d = true → rem ≠ 0) := by
  obtain ⟨low, high, zero, below, middle⟩ := h
  have floor : n = ⌊c⌋₊ := by
    symm
    rw [Nat.floor_eq_iff ((Nat.cast_nonneg n).trans low)]
    exact ⟨low, high⟩
  have ceil : n + (rem != 0).toNat = ⌈c⌉₊ := by
    by_cases r : rem = 0
    · rw [zero.mp r, Nat.ceil_natCast, r]; rfl
    · have above : (n : ℝ) < c := lt_of_le_of_ne low fun e => r (zero.mpr e.symm)
      symm
      rw [bne_iff_ne.mpr r, Bool.toNat_true, Nat.ceil_eq_iff (Nat.succ_ne_zero n)]
      exact ⟨by simpa using above, by push_cast; exact high.le⟩
  cases mode with
  | nearest =>
    have up_iff : increments .nearest neg (n % 2 == 1) rem d = true ↔ d < 2 * rem ∨ (2 * rem = d ∧ n % 2 = 1) := by
      simp [increments]
    refine ⟨?_, fun up r => by rw [up_iff] at up; omega⟩
    by_cases up : increments .nearest neg (n % 2 == 1) rem d = true
    · have half : (n : ℝ) + 1 / 2 ≤ c := not_lt.mp fun lt => by rw [← below] at lt; rw [up_iff] at up; omega
      rw [up, Bool.toNat_true]
      refine ⟨abs_le.mpr ⟨by push_cast; linarith, by push_cast; linarith⟩, fun tie => ?_⟩
      have sign : c - (n + 1 : ℕ) ≤ 0 := by push_cast; linarith
      rw [abs_of_nonpos sign] at tie
      have mid : c = n + 1 / 2 := by push_cast at tie; linarith
      rw [← middle] at mid
      rw [up_iff] at up
      omega
    · have half : c ≤ (n : ℝ) + 1 / 2 := by
        rw [le_iff_lt_or_eq, ← below, ← middle]
        rw [up_iff] at up
        omega
      rw [Bool.eq_false_of_not_eq_true up, Bool.toNat_false, Nat.add_zero]
      refine ⟨abs_le.mpr ⟨by linarith, by linarith⟩, fun tie => ?_⟩
      rw [abs_of_nonneg (by linarith)] at tie
      have mid : c = n + 1 / 2 := by linarith
      rw [← middle] at mid
      rw [up_iff] at up
      omega
  | zero => exact ⟨floor, fun h => absurd h Bool.false_ne_true⟩
  | up =>
    cases neg
    · exact ⟨ceil, fun h => by simpa [increments] using h⟩
    · exact ⟨floor, fun h => absurd h Bool.false_ne_true⟩
  | down =>
    cases neg
    · exact ⟨floor, fun h => absurd h Bool.false_ne_true⟩
    · exact ⟨ceil, fun h => by simpa [increments] using h⟩

/-- An increment makes the rounded number greater, and only without a remainder is it the number itself. -/
theorem Remainder.compare {rem d : ℕ} (h : Remainder c n rem d) {up : Bool} (moved : up = true → rem ≠ 0) :
    (rem ≠ 0 ↔ ((n + up.toNat : ℕ) : ℝ) ≠ c) ∧ (up = true ↔ c < ((n + up.toNat : ℕ) : ℝ)) := by
  cases up with
  | false => exact ⟨(not_congr h.zero).trans ne_comm, iff_of_false Bool.false_ne_true h.low.not_gt⟩
  | true =>
    have above : c < ((n + true.toNat : ℕ) : ℝ) := by push_cast; exact_mod_cast h.high
    exact ⟨iff_of_true (moved rfl) above.ne', iff_of_true rfl above⟩

end

/-! ## What a value stands for -/

/-- The value stands for the real magnitude `a`: it is `a`, or it is odd with many bits and `a` lies between its even neighbours, so
that both round alike to fewer bits. -/
def Exact.StandsFor (v : Exact) (a : ℝ) : Prop :=
  a = v.mant * 2 ^ v.exp ∨ (2 ^ 60 ≤ v.mant ∧ v.mant % 2 = 1 ∧ |a - v.mant * 2 ^ v.exp| < 2 ^ v.exp)

theorem two_zpow_pos (e : ℤ) : (0 : ℝ) < 2 ^ e := zpow_pos two_pos e

section
variable {v : Exact} {a : ℝ}

/-- Magnitude in units of the value's own exponent. -/
theorem Exact.StandsFor.scaled (h : v.StandsFor a) :
    a / 2 ^ v.exp = v.mant ∨ (2 ^ 60 ≤ v.mant ∧ v.mant % 2 = 1 ∧ (v.mant : ℝ) - 1 < a / 2 ^ v.exp ∧ a / 2 ^ v.exp < v.mant + 1) := by
  have pos := two_zpow_pos v.exp
  obtain e | ⟨big, odd, close⟩ := h
  · exact .inl (by rw [e, mul_div_assoc, div_self pos.ne', mul_one])
  · obtain ⟨lo, hi⟩ := abs_lt.mp close
    refine .inr ⟨big, odd, ?_, ?_⟩
    · rw [lt_div_iff₀ pos]; linarith
    · rw [div_lt_iff₀ pos]; linarith

theorem Remainder.of_scaled {b : ℝ} {n rem d : ℕ} (pos : 0 < d) (low : (n : ℝ) * d ≤ b) (high : b < (n + 1) * d)
    (zero : rem = 0 ↔ b = n * d) (below : 2 * rem < d ↔ 2 * b < (2 * n + 1) * d)
    (middle : 2 * rem = d ↔ 2 * b = (2 * n + 1) * d) : Remainder (b / d) n rem d := by
  have pos : (0 : ℝ) < d := Nat.cast_pos.mpr pos
  refine ⟨(le_div_iff₀ pos).mpr low, (div_lt_iff₀ pos).mpr high, ?_, ?_, ?_⟩
  · rw [div_eq_iff pos.ne', zero]
  · rw [div_lt_iff₀ pos, below]
    constructor <;> intro h <;> linarith
  · rw [div_eq_iff pos.ne', middle]
    constructor <;> intro h <;> linarith

/-- Cutting `k` bits off a value leaves the remainder of the real magnitude that it stands for. -/
theorem Exact.StandsFor.remainder (h : v.StandsFor a) {k : ℕ} (fine : a = v.mant * 2 ^ v.exp ∨ 2 ≤ k) :
    Remainder (a / 2 ^ v.exp / (2 ^ k : ℕ)) (v.mant / 2 ^ k) (v.mant % 2 ^ k) (2 ^ k) := by
  have pos : 0 < 2 ^ k := Nat.two_pow_pos k
  have parts : v.mant / 2 ^ k * 2 ^ k + v.mant % 2 ^ k = v.mant := Nat.div_add_mod' _ _
  have rest : v.mant % 2 ^ k < 2 ^ k := Nat.mod_lt _ pos
  have four : a = v.mant * 2 ^ v.exp ∨ ∃ j, 2 ^ k = 4 * j :=
    fine.imp_right fun two => ⟨2 ^ (k - 2), by rw [show 4 = 2 ^ 2 by rfl, ← Nat.pow_add, Nat.add_sub_cancel' two]⟩
  have scaled : a / 2 ^ v.exp = v.mant ∨ (v.mant % 2 = 1 ∧ (∃ j, 2 ^ k = 4 * j) ∧
      (v.mant : ℝ) - 1 < a / 2 ^ v.exp ∧ a / 2 ^ v.exp < v.mant + 1) := by
    obtain e | four := four
    · exact .inl (by rw [e, mul_div_assoc, div_self (two_zpow_pos _).ne', mul_one])
    · exact h.scaled.imp_right fun ⟨_, odd, lo, hi⟩ => ⟨odd, four, lo, hi⟩
  generalize 2 ^ k = d at *
  generalize v.mant / d = n at *
  generalize v.mant % d = rem at *
  generalize a / 2 ^ v.exp = b at *
  have whole : (v.mant : ℝ) = n * d + rem := by rw [← parts]; push_cast; ring
  have rest' : (rem : ℝ) + 1 ≤ d := by exact_mod_cast rest
  obtain e | ⟨odd, ⟨j, rfl⟩, lo, hi⟩ := scaled
  · rw [whole] at e
    have nonneg : (0 : ℝ) ≤ rem := Nat.cast_nonneg rem
    refine .of_scaled pos (by linarith) (by linarith) ?_ ?_ ?_
    · rw [e, add_eq_left, Nat.cast_eq_zero]
    · rw [e, ← Nat.cast_lt (α := ℝ)]
      push_cast
      constructor <;> intro h <;> linarith
    · rw [e, ← Nat.cast_inj (R := ℝ)]
      push_cast
      constructor <;> intro h <;> linarith
  · have one : 1 ≤ rem := by
      have : n * (4 * j) = 2 * (n * (2 * j)) := by ring
      omega
    have odd : rem % 2 = 1 := by
      have : n * (4 * j) = 2 * (n * (2 * j)) := by ring
      omega
    have one' : (1 : ℝ) ≤ rem := by exact_mod_cast one
    rw [whole] at lo hi
    have side : (2 * rem < 4 * j ∧ 2 * b < (2 * n + 1) * (4 * j : ℕ)) ∨ (4 * j < 2 * rem ∧ (2 * n + 1) * (4 * j : ℕ) < 2 * b) := by
      obtain below | above := lt_or_gt_of_ne (show rem ≠ 2 * j by omega)
      · have gap : (rem : ℝ) + 1 ≤ 2 * j := by exact_mod_cast below
        refine .inl ⟨by omega, ?_⟩
        push_cast at *
        linarith
      · have gap : (2 : ℝ) * j + 1 ≤ rem := by exact_mod_cast above
        refine .inr ⟨by omega, ?_⟩
        push_cast at *
        linarith
    refine .of_scaled pos (by linarith) (by linarith) ?_ ?_ ?_
    · exact ⟨fun h => by omega, fun h => by linarith⟩
    · obtain ⟨l, r⟩ | ⟨l, r⟩ := side
      · exact iff_of_true l r
      · exact iff_of_false l.not_gt r.not_gt
    · obtain ⟨l, r⟩ | ⟨l, r⟩ := side
      · exact iff_of_false l.ne r.ne
      · exact iff_of_false l.ne' r.ne'

/-- Rounding to whole units of `2 ^ q` rounds the real magnitude; FI and FR compare the result with it (R313 step 5). -/
theorem Exact.StandsFor.quantize (h : v.StandsFor a) (mode : RoundMode) {q : ℤ}
    (fine : a = v.mant * 2 ^ v.exp ∨ v.exp + 2 ≤ q) :
    roundsTo mode v.neg (a / 2 ^ q) (quantize mode v q).n ∧
      ((quantize mode v q).inexact = true ↔ ((quantize mode v q).n : ℝ) * 2 ^ q ≠ a) ∧
      ((quantize mode v q).up = true ↔ a < (quantize mode v q).n * 2 ^ q) := by
  have pos := two_zpow_pos q
  by_cases coarse : q ≤ v.exp
  · have exact : a = v.mant * 2 ^ v.exp := by
      obtain e | e := fine
      · exact e
      · omega
    have whole : a = ((v.mant * 2 ^ (v.exp - q).toNat : ℕ) : ℝ) * 2 ^ q := by
      rw [exact, Nat.cast_mul, Nat.cast_pow, Nat.cast_ofNat, ← zpow_natCast, mul_assoc, ← zpow_add₀ two_ne_zero,
        Int.toNat_of_nonneg (by omega), sub_add_cancel]
    rw [Machine.quantize, if_pos coarse]
    refine ⟨?_, ?_, ?_⟩
    · rw [whole, mul_div_assoc, div_self pos.ne', mul_one]
      exact roundsTo_natCast _ _ _
    · exact iff_of_false Bool.false_ne_true fun ne => ne whole.symm
    · exact iff_of_false Bool.false_ne_true fun lt => lt.ne whole
  · obtain ⟨k, hk⟩ : ∃ k : ℕ, q = v.exp + k := ⟨(q - v.exp).toNat, by omega⟩
    have units : (q - v.exp).toNat = k := by omega
    have split : (2 : ℝ) ^ q = 2 ^ v.exp * (2 ^ k : ℕ) := by
      rw [hk, zpow_add₀ two_ne_zero, zpow_natCast, Nat.cast_pow, Nat.cast_ofNat]
    have rem := h.remainder (k := k) (fine.imp_right fun _ => by omega)
    rw [div_div, ← split] at rem
    obtain ⟨rounds, moved⟩ := increments_rounds (mode := mode) (neg := v.neg) rem (Nat.two_pow_pos k)
    obtain ⟨differs, raised⟩ := rem.compare moved
    rw [ne_eq, ne_eq, eq_div_iff pos.ne'] at differs
    rw [div_lt_iff₀ pos] at raised
    rw [Machine.quantize, if_neg coarse, units]
    exact ⟨rounds, bne_iff_ne.trans differs, raised⟩

end

/-! ## Rounding to a whole number of units (O55) -/

/-- How far rounding moves a magnitude, and in which direction. -/
theorem roundsTo_bounds {mode : RoundMode} {neg : Bool} {c : ℝ} {n : ℕ} (pos : 0 ≤ c) (h : roundsTo mode neg c n) :
    |n - c| < 1 ∧ (mode = .nearest → |n - c| ≤ 1 / 2 ∧ (|n - c| = 1 / 2 → n % 2 = 0)) ∧ (mode = .zero → n ≤ c) ∧
      (mode = .up → if neg then n ≤ c else c ≤ n) ∧ (mode = .down → if neg then c ≤ n else n ≤ c) := by
  have below : (⌊c⌋₊ : ℝ) ≤ c := Nat.floor_le pos
  have above : c ≤ ⌈c⌉₊ := Nat.le_ceil c
  have floor : |(⌊c⌋₊ : ℝ) - c| < 1 := abs_lt.mpr ⟨by linarith [Nat.lt_floor_add_one c], by linarith⟩
  have ceil : |(⌈c⌉₊ : ℝ) - c| < 1 := abs_lt.mpr ⟨by linarith, by linarith [Nat.ceil_lt_add_one pos]⟩
  cases mode with
  | nearest =>
    rw [roundsTo, abs_sub_comm] at h
    exact ⟨h.1.trans_lt (by norm_num), fun _ => h, nofun, nofun, nofun⟩
  | zero =>
    subst h
    exact ⟨floor, nofun, fun _ => below, nofun, nofun⟩
  | up =>
    cases neg <;> subst h
    · exact ⟨ceil, nofun, nofun, fun _ => above, nofun⟩
    · exact ⟨floor, nofun, nofun, fun _ => below, nofun⟩
  | down =>
    cases neg <;> subst h
    · exact ⟨floor, nofun, nofun, nofun, fun _ => below⟩
    · exact ⟨ceil, nofun, nofun, nofun, fun _ => above⟩

/-- Settles O55: the rounding of the model is that of the real magnitude, and each mode keeps within a unit. -/
theorem roundingIsFaithful : Obligations.RoundingIsFaithful := by
  unfold Obligations.RoundingIsFaithful
  intro mode v q r x y
  have pos := two_zpow_pos q
  have cast_x : (x : ℝ) = v.mant * 2 ^ v.exp := by simp only [x]; push_cast; rfl
  have cast_y : (y : ℝ) = r.n * 2 ^ q := by simp only [y]; push_cast; rfl
  obtain ⟨rounds, differs, raised⟩ := Exact.StandsFor.quantize (v := v) (.inl cast_x) mode (q := q) (.inl cast_x)
  rw [← cast_y, ne_eq, Rat.cast_inj] at differs
  rw [← cast_y, Rat.cast_lt] at raised
  have nonneg : (0 : ℝ) ≤ (x : ℝ) / 2 ^ q := by rw [cast_x]; positivity
  obtain ⟨near, nearest, zero, up, down⟩ := roundsTo_bounds nonneg rounds
  have gap : |((y - x : ℚ) : ℝ)| = |(r.n : ℝ) - (x : ℝ) / 2 ^ q| * 2 ^ q := by
    rw [← abs_of_pos pos, ← abs_mul, abs_of_pos pos, sub_mul, div_mul_cancel₀ _ pos.ne', ← cast_y, Rat.cast_sub]
  have le_iff : ((quantize mode v q).n : ℝ) ≤ (x : ℝ) / 2 ^ q ↔ y ≤ x := by
    rw [le_div_iff₀ pos, ← cast_y, Rat.cast_le]
  have ge_iff : (x : ℝ) / 2 ^ q ≤ ((quantize mode v q).n : ℝ) ↔ x ≤ y := by
    rw [div_le_iff₀ pos, ← cast_y, Rat.cast_le]
  have unit : (((2 : ℚ) ^ q : ℚ) : ℝ) = 2 ^ q := by push_cast; rfl
  have half : (((2 : ℚ) ^ q / 2 : ℚ) : ℝ) = 1 / 2 * 2 ^ q := by push_cast; ring
  refine ⟨?_, ?_, raised, fun m => ⟨?_, fun tie => (nearest m).2 ?_⟩, fun m => le_iff.mp (zero m), fun m => ?_, fun m => ?_⟩
  · rw [← Rat.cast_lt (K := ℝ), Rat.cast_abs, gap, unit]
    exact (mul_lt_iff_lt_one_left pos).mpr near
  · rw [← Bool.not_eq_true, differs, not_not]
  · rw [← Rat.cast_le (K := ℝ), Rat.cast_abs, gap, half]
    exact mul_le_mul_of_nonneg_right (nearest m).1 pos.le
  · rw [← Rat.cast_inj (α := ℝ), Rat.cast_abs, gap, half] at tie
    exact mul_right_cancel₀ pos.ne' tie
  · simpa only [le_iff, ge_iff] using up m
  · simpa only [le_iff, ge_iff] using down m

end Sys2Proof.Machine
end

section
/-!
PROOFS. Operations whose result is not rounded (43_float_arithmetic R310 to R313): NaNs and invalid operations, infinities, exact
zeros, zero divides, and the special operands of the estimates.
-/

namespace Sys2Proof.Machine

/-! ## Instructions that end in `fp_finish` -/

/-- The instruction ends in `fp_finish` with the output `out`, some values having been drawn. -/
def EndsWith (s : State) (d : BitVec 5) (rc : Bool) (out : FpOut) (r : Result) : Prop :=
  ∃ single n, r = fpFinish d single rc out { s with draws := n }

section
variable {s : State} {d : BitVec 5} {rc : Bool} {affected : Word} {op : FpOp} {x : FpOperands} {used : List Dword}
  {out : Word → Dword → FpOut} {r : Result}

/-- A double-precision instruction under the reference arithmetic. -/
theorem endsWith_double (ref : s.cfg.fpResult = .reference) (e : r = runDouble d rc affected op x out s) :
    EndsWith s d rc ((out s.fpscr (s.draw 64)).within affected) r := by
  refine ⟨false, s.draws + 1, e.trans ?_⟩
  rw [runDouble_eq, doubleOut, arithResult, ref]

/-- A single-precision one, whose operands are singles. -/
theorem endsWith_single (ref : s.cfg.fpResult = .reference) (singles : used.all singleRepresentable = true)
    (e : r = runSingle d rc used affected op x out s) :
    EndsWith s d rc ((out s.fpscr (s.draw 64)).within affected) r := by
  refine ⟨true, s.draws + 2, e.trans ?_⟩
  rw [runSingle_eq, singleOut, if_pos singles, arithResult, ref]

/-- An estimate: its page binds every arithmetic. -/
theorem endsWith_double_bound (bound : boundByPage op x.b = true) (e : r = runDouble d rc affected op x out s) :
    EndsWith s d rc ((out s.fpscr (s.draw 64)).within affected) r := by
  refine ⟨false, s.draws + 1, e.trans ?_⟩
  rw [runDouble_eq, doubleOut, arithResult, if_pos bound]
  split <;> rfl

theorem endsWith_single_bound (bound : boundByPage op x.b = true) (singles : used.all singleRepresentable = true)
    (e : r = runSingle d rc used affected op x out s) :
    EndsWith s d rc ((out s.fpscr (s.draw 64)).within affected) r := by
  refine ⟨true, s.draws + 2, e.trans ?_⟩
  rw [runSingle_eq, singleOut, if_pos singles, arithResult, if_pos bound]
  split <;> rfl

/-- It has a next state, in which the output stands. -/
theorem EndsWith.stands {out : FpOut} (h : EndsWith s d rc out r) : ∃ t, r = .next t ∧ OutputStands s t d rc out := by
  obtain ⟨single, n, rfl⟩ := h
  cases enabled : enabledAmong s.fpscr out.raised with
  | false =>
    obtain ⟨t, next, -, stands⟩ := fpFinish_completes (d := d) (single := single) (rc := rc) (n := n) (.inl enabled)
    exact ⟨t, next, stands⟩
  | true =>
    cases fe : s.fe with
    | false =>
      obtain ⟨t, next, -, stands⟩ := fpFinish_completes (d := d) (single := single) (rc := rc) (out := out) (n := n) (.inr fe)
      exact ⟨t, next, stands⟩
    | true =>
      obtain ⟨t, next, stands, -⟩ := fpFinish_takes (d := d) (single := single) (rc := rc) (n := n) enabled fe
      exact ⟨t, next, stands⟩

/-- It completes where no enabled exception is taken. -/
theorem EndsWith.completes {out : FpOut} (h : EndsWith s d rc out r)
    (off : enabledAmong s.fpscr out.raised = false ∨ s.fe = false) :
    ∃ t, r = .next t ∧ floatFrame s t ∧ OutputStands s t d rc out := by
  obtain ⟨single, n, rfl⟩ := h
  exact fpFinish_completes off

end

/-! ## Results that are not rounded -/

/-- An output that is not rounded: the bits raised, and a result with its class, or no result where the exception is enabled. -/
structure FpOut.Unrounded (out : FpOut) (f : Word) (loose : Bool) (bits : Word) (v : Option Dword) : Prop where
  raised : out.raised = bits
  listed : bits &&& fpscrExceptions = bits
  value : out.value = v
  fprf : out.fprf = v.map fprfOf
  fraction : loose = false → out.fr = false ∧ out.fi = false
  enabled : enabledAmong f bits = v.isNone

section
variable {s : State} {d : BitVec 5} {rc loose : Bool} {bits : Word} {v : Option Dword} {out : FpOut} {r : Result}

theorem EndsWith.unroundedEffect (h : EndsWith s d rc out r) (u : out.Unrounded s.fpscr loose bits v) :
    unroundedEffect s d rc loose bits v r := by
  obtain ⟨raised, listed, value, fprf, fraction, enabled⟩ := u
  obtain ⟨t, next, stands⟩ := h.stands
  rw [← raised] at listed enabled
  refine ⟨t, next, ?_, ?_, ?_, stands.cr1, stands.kept, ?_, ?_, ?_, ?_⟩
  · rw [stands.fpscr, ← raised]
    exact fpscrEffect_summary (BitVec.and_self ..) listed
  · rw [← raised]
    exact stands.raises listed
  · rw [stands.fr, stands.fi]
    exact fraction
  · rintro rfl
    refine ⟨?_, stands.tag value, ?_, ?_⟩
    · rw [stands.value, value]; rfl
    · rw [stands.fprf listed, fprf]; rfl
    · rw [stands.fex, leavesFex_eq listed, enabled]
      exact Bool.or_true _
  · rintro w rfl
    refine ⟨?_, ?_⟩
    · rw [stands.value, value]; rfl
    · rw [stands.fprf listed, fprf]; rfl
  · intro off
    have disabled : enabledAmong s.fpscr out.raised = false ∨ s.fe = false := by
      obtain fe | some := off
      · exact .inr fe
      · rw [enabled]
        exact .inl (Option.isNone_eq_false_iff.mpr (Option.isSome_iff_ne_none.mpr some))
    obtain ⟨t', next', frame, -⟩ := h.completes disabled
    rw [next, Host.Outcome.next.injEq] at next'
    rwa [next']
  · rintro fe rfl
    obtain ⟨single, n, rfl⟩ := h
    obtain ⟨t', next', -, raises⟩ := fpFinish_takes (d := d) (single := single) (rc := rc) (n := n) enabled fe
    rw [next, Host.Outcome.next.injEq] at next'
    rw [next, next']
    exact raises value

theorem FpOut.Unrounded.within {affected : Word} {f : Word} (u : out.Unrounded f loose bits v)
    (h : bits &&& affected = bits) : (out.within affected).Unrounded f loose bits v := by
  obtain ⟨raised, listed, value, fprf, fraction, enabled⟩ := u
  exact ⟨(congrArg (· &&& affected) raised).trans h, listed, value, fprf, fraction, enabled⟩

theorem FpOut.Unrounded.looseFraction {f : Word} (u : out.Unrounded f loose bits v) (fr fi : Bool) :
    (out.looseFraction fr fi).Unrounded f true bits v := by
  obtain ⟨raised, listed, value, fprf, -, enabled⟩ := u
  exact ⟨raised, listed, value, fprf, nofun, enabled⟩

theorem FpOut.exact_unrounded {f : Word} (w : Dword) (listed : bits &&& fpscrExceptions = bits)
    (off : enabledAmong f bits = false) : (FpOut.exact w bits).Unrounded f false bits (some w) :=
  ⟨rfl, listed, rfl, rfl, fun _ => ⟨rfl, rfl⟩, off⟩

theorem FpOut.none_unrounded {f : Word} (listed : bits &&& fpscrExceptions = bits) (on : enabledAmong f bits = true) :
    (FpOut.none bits).Unrounded f false bits Option.none :=
  ⟨rfl, listed, rfl, rfl, fun _ => ⟨rfl, rfl⟩, on⟩

theorem enabledAmong_zero (f : Word) : enabledAmong f 0 = false := by
  rw [enabledAmong_eq (by decide)]
  simp [fpscrVx]

/-- A result that raises nothing. -/
theorem FpOut.plain_unrounded (f : Word) (w : Dword) : (FpOut.exact w 0).Unrounded f false 0 (some w) :=
  FpOut.exact_unrounded w (by decide) (enabledAmong_zero f)

end

/-! ## NaNs and invalid operations (R313 steps 1 to 3) -/

/-- The invalid-operation bits, which VX summarises. -/
def invalidBits : Word := 0x01F80700

section
variable {f bits op : Word} {used : List Dword} {p : Precision} {single : Bool} {k : FpOut}

theorem invalidBits_listed (h : bits &&& invalidBits = bits) : bits &&& fpscrExceptions = bits :=
  within_trans h (by decide)

/-- An invalid operation is enabled by VE alone. -/
theorem enabledAmong_invalid (h : bits &&& invalidBits = bits) : enabledAmong f bits = (bits != 0 && fpscrVe f) := by
  have clear (k : Nat) (hk : invalidBits.getMsbD k = false) : bits.getMsbD k = false := by
    by_contra set
    exact Bool.false_ne_true (hk.symm.trans (getMsbD_of_within h (Bool.eq_true_of_not_eq_false set)))
  have vx : fpscrVx bits = (bits != 0) := congrArg (· != 0) h
  rw [enabledAmong_eq (invalidBits_listed h), vx, clear 3 (by decide), clear 4 (by decide), clear 5 (by decide),
    clear 6 (by decide)]
  simp only [Bool.false_and, Bool.or_false]
  rfl

/-- The target precision. -/
def precisionOf (single : Bool) : Precision := if single then .single else .double

theorem chooseNan_eq (single : Bool) (used : List Dword) : chooseNan (precisionOf single) used = nanOf single used := by
  unfold chooseNan nanOf
  cases used.find? isNan with
  | none => rfl
  | some d =>
    cases single
    · exact (BitVec.and_allOnes).symm
    · rfl

theorem isNan_of_isSnan {d : Dword} (h : isSnan d = true) : isNan d = true := by
  rw [isSnan, Bool.and_eq_true] at h
  exact h.1

theorem any_isSnan_eq_false (h : used.any isNan = false) : used.any isSnan = false := by
  rw [List.any_eq_false] at h ⊢
  exact fun d hd snan => h d hd (isNan_of_isSnan snan)

/-- Steps 1 to 3 of R313 where an operand is a NaN or the operation is invalid. -/
theorem withOperands_unrounded (single : Bool) (hop : op &&& invalidBits = op)
    (special : (if used.any isSnan then bitAt 7 else 0) ||| op ≠ 0 ∨ used.any isNan = true) :
    (withOperands (precisionOf single) f used op k).Unrounded f false ((if used.any isSnan then bitAt 7 else 0) ||| op)
      (if (if used.any isSnan then bitAt 7 else 0) ||| op ≠ 0 ∧ f.getMsbD 24 = true then none else some (nanOf single used)) := by
  have raised : bitIf (used.any isSnan) bitVxsnan = if used.any isSnan then bitAt 7 else 0 := by rw [bitIf]; rfl
  have invalid : (if used.any isSnan then bitAt 7 else 0) &&& invalidBits = if used.any isSnan then bitAt 7 else 0 :=
    within_bitIf _ (by decide)
  have all := within_or invalid hop
  unfold withOperands
  simp only [raised, chooseNan_eq]
  generalize (if used.any isSnan then bitAt 7 else 0) ||| op = bits at *
  have enabled := enabledAmong_invalid (f := f) all
  by_cases some : bits = 0
  · subst some
    have nan : used.any isNan = true := special.resolve_left (fun h => h rfl)
    rw [if_neg (fun h => h rfl), if_pos nan, if_neg (fun h => h.1 rfl)]
    exact FpOut.plain_unrounded _ _
  · rw [if_pos some]
    rw [bne_iff_ne.mpr some, Bool.true_and] at enabled
    by_cases ve : fpscrVe f = true
    · rw [if_pos ve, if_pos ⟨some, ve⟩]
      exact FpOut.none_unrounded (invalidBits_listed all) (enabled.trans ve)
    · rw [if_neg ve, if_neg (fun h => ve h.2)]
      exact FpOut.exact_unrounded _ (invalidBits_listed all) (enabled.trans (Bool.eq_false_of_not_eq_true ve))

/-- Where no operand is a NaN and the operation is valid, the operation goes on. -/
theorem withOperands_plain (nan : used.any isNan = false) : withOperands p f used 0 k = k := by
  unfold withOperands
  simp only [any_isSnan_eq_false nan, nan]
  rfl

end

section
variable {s : State} {d : BitVec 5} {rc single : Bool} {used : List Dword} {affected op : Word} {k : FpOut} {r : Result}
  {v : Option Dword}

/-- NaN operands and invalid operations of an instruction whose page lists the bits. -/
theorem nanEffect_of_ends (h : EndsWith s d rc ((withOperands (precisionOf single) s.fpscr used op k).within affected) r)
    (hop : op &&& invalidBits = op) (snan : bitAt 7 &&& affected = bitAt 7) (ha : op &&& affected = op) :
    nanEffect s d rc false single used op r := by
  intro special
  exact h.unroundedEffect ((withOperands_unrounded single hop special).within (within_or (within_bitIf _ snan) ha))

/-- The same of an estimate, whose FR and FI are free. -/
theorem nanEffect_of_ends_loose {fr fi : Bool}
    (h : EndsWith s d rc (((withOperands (precisionOf single) s.fpscr used op k).looseFraction fr fi).within affected) r)
    (hop : op &&& invalidBits = op) (snan : bitAt 7 &&& affected = bitAt 7) (ha : op &&& affected = op) :
    nanEffect s d rc true single used op r := by
  intro special
  exact h.unroundedEffect
    (((withOperands_unrounded single hop special).looseFraction fr fi).within (within_or (within_bitIf _ snan) ha))

/-- An operation with special results is one whose continuation `k` gives them exactly. -/
theorem specialEffect_of_ends (h : EndsWith s d rc ((withOperands (precisionOf single) s.fpscr used op k).within affected) r)
    (hop : op &&& invalidBits = op) (snan : bitAt 7 &&& affected = bitAt 7) (ha : op &&& affected = op)
    (special : used.any isNan = false → op = 0 → ∀ w, v = some w → k = FpOut.exact w 0) :
    specialEffect s d rc single used op v r := by
  refine ⟨nanEffect_of_ends h hop snan ha, fun nan valid some => ?_⟩
  obtain ⟨w, rfl⟩ := Option.ne_none_iff_exists'.mp some
  have exact := special nan valid w rfl
  subst valid
  rw [withOperands_plain nan, exact] at h
  exact h.unroundedEffect ((FpOut.plain_unrounded s.fpscr w).within BitVec.zero_and)

end

end Sys2Proof.Machine
end

section
/-!
PROOFS. Infinities and exact zeros (43_float_arithmetic R313): the sums, products, quotients and roots that are no rounded numbers,
zero divides, and the tables of the estimates.
-/

namespace Sys2Proof.Machine

/-! ## What an operand is -/

/-- The value is an infinity. -/
def FpVal.isInf (x : FpVal) : Bool :=
  match x with
  | .inf _ => true
  | _ => false

/-- The value is a zero. -/
def FpVal.isZero (x : FpVal) : Bool :=
  match x with
  | .zero _ => true
  | _ => false

/-- The sign of a value that is no NaN. -/
def FpVal.sign (x : FpVal) : Bool :=
  match x with
  | .nan => false
  | .inf n => n
  | .zero n => n
  | .finite v => v.neg

/-- The value is no NaN, and what is finite is not zero. -/
def FpVal.Proper (x : FpVal) : Prop :=
  match x with
  | .nan => False
  | .inf _ => True
  | .zero _ => True
  | .finite v => v.mant ≠ 0

/-- A value that is no NaN, described by what the statements ask of an operand: whether it is infinite, its sign, and its number
where it is none of infinite. -/
structure FpVal.Describes (x : FpVal) (inf neg : Bool) (q : ℚ) : Prop where
  isInf : x.isInf = inf
  sign : x.sign = neg
  value : inf = false → x.toRat = q
  proper : x.Proper

section
variable {d : Dword}

theorem isNan_of_infinite (h : infinite d = true) : isNan d = false :=
  Bool.eq_false_iff.mpr fun nan => (isNan_iff.mp nan).2 (infinite_iff.mp h).2

theorem isNumber_of_not (nan : isNan d = false) (inf : infinite d = false) : isNumber d = true := by
  obtain ⟨is, -⟩ | ⟨-, is, -⟩ | ⟨number, -⟩ | ⟨number, -⟩ := classify_cases d
  · exact absurd (nan.symm.trans is) Bool.false_ne_true
  · exact absurd (inf.symm.trans is) Bool.false_ne_true
  · exact number
  · exact number

theorem isNumber_of_zero (h : zero d = true) : isNumber d = true := by
  rw [isNumber_iff, (zero_iff.mp h).1]
  decide

theorem infinite_of_isNumber (h : isNumber d = true) : infinite d = false :=
  Bool.eq_false_iff.mpr fun inf => isNumber_iff.mp h (infinite_iff.mp inf).1

theorem classify_isInf (d : Dword) : (classify d).isInf = infinite d := by
  obtain ⟨nan, is⟩ | ⟨-, inf, is⟩ | ⟨number, -, is⟩ | ⟨number, -, is⟩ := classify_cases d
  · rw [is, Bool.eq_false_iff.mpr fun inf => (isNan_iff.mp nan).2 (infinite_iff.mp inf).2]; rfl
  · rw [is, inf]; rfl
  · rw [is, infinite_of_isNumber number]; rfl
  · rw [is, infinite_of_isNumber number]; rfl

theorem classify_isZero (d : Dword) : (classify d).isZero = zero d := by
  obtain ⟨nan, is⟩ | ⟨-, inf, is⟩ | ⟨-, zero, is⟩ | ⟨-, zero, is⟩ := classify_cases d
  · rw [is, Bool.eq_false_iff.mpr fun z => absurd ((zero_iff.mp z).1.symm.trans (isNan_iff.mp nan).1) (by decide)]; rfl
  · rw [is, Bool.eq_false_iff.mpr fun z => absurd ((zero_iff.mp z).1.symm.trans (infinite_iff.mp inf).1) (by decide)]; rfl
  · rw [is, zero]; rfl
  · rw [is, zero]; rfl

theorem classify_sign (nan : isNan d = false) : (classify d).sign = d.msb := by
  obtain ⟨is, -⟩ | ⟨-, -, is⟩ | ⟨-, -, is⟩ | ⟨-, -, is⟩ := classify_cases d
  · exact absurd (nan.symm.trans is) Bool.false_ne_true
  · rw [is]; rfl
  · rw [is]; rfl
  · rw [is]; exact finiteOf_neg d

theorem finiteOf_mant_pos (zero : zero d = false) : (finiteOf d).mant ≠ 0 := by
  rw [Bool.eq_false_iff, ne_eq, zero_iff] at zero
  unfold finiteOf
  split
  · next exp => exact fun frac => zero ⟨exp, frac⟩
  · exact (Nat.add_pos_left (Nat.two_pow_pos 52) _).ne'

theorem classify_describes (nan : isNan d = false) : (classify d).Describes (infinite d) d.msb (numberOf d) := by
  refine ⟨classify_isInf d, classify_sign nan, fun inf => (numberOf_eq (isNumber_of_not nan inf)).symm, ?_⟩
  obtain ⟨is, -⟩ | ⟨-, -, is⟩ | ⟨-, -, is⟩ | ⟨-, zero, is⟩ := classify_cases d
  · exact absurd (nan.symm.trans is) Bool.false_ne_true
  · rw [is]; trivial
  · rw [is]; trivial
  · rw [is]; exact finiteOf_mant_pos zero

end

section
variable {x y : FpVal} {inf neg inf' neg' : Bool} {q q' : ℚ}

theorem Exact.toRat_ne_zero {v : Exact} (h : v.mant ≠ 0) : v.toRat ≠ 0 := by
  have sign : signFactor v.neg ≠ 0 := by cases v.neg <;> simp [signFactor]
  rw [Exact.toRat_eq]
  exact mul_ne_zero (mul_ne_zero sign (Nat.cast_ne_zero.mpr h)) (zpow_ne_zero _ two_ne_zero)

theorem Exact.toRat_neg_iff {v : Exact} (h : v.mant ≠ 0) : v.toRat < 0 ↔ v.neg = true := by
  have mant : (0 : ℚ) < v.mant := Nat.cast_pos.mpr (Nat.pos_of_ne_zero h)
  have pos : (0 : ℚ) < v.mant * 2 ^ v.exp := mul_pos mant (zpow_pos two_pos _)
  rw [Exact.toRat_eq, mul_assoc]
  cases v.neg <;> simp only [signFactor, Bool.false_eq_true, if_false, if_true]
  · exact iff_of_false (by linarith) id
  · exact iff_of_true (by linarith) trivial

theorem FpVal.negate_describes (h : x.Describes inf neg q) : x.negate.Describes inf (!neg) (-q) := by
  obtain ⟨isInf, sign, value, proper⟩ := h
  cases x with
  | nan => exact proper.elim
  | inf n => exact ⟨isInf, congrArg (!·) sign, fun h => (Bool.false_ne_true (isInf.trans h).symm).elim, proper⟩
  | zero n => exact ⟨isInf, congrArg (!·) sign, fun h => by rw [← value h]; exact neg_zero.symm, proper⟩
  | finite v =>
    refine ⟨isInf, congrArg (!·) sign, fun h => ?_, proper⟩
    rw [← value h]
    simp only [FpVal.negate, FpVal.toRat, Exact.toRat_eq, signFactor]
    cases v.neg <;> simp

/-- A sum of opposite infinities is the invalid one. -/
theorem sumInvalid_eq (x y : FpVal) : sumInvalid x y = (x.isInf && y.isInf && x.sign != y.sign) := by
  cases x <;> cases y <;> rfl

theorem productInvalid_eq (x y : FpVal) : productInvalid x y = (x.isInf && y.isZero || x.isZero && y.isInf) := by
  cases x <;> cases y <;> rfl

theorem divInvalid_eq (x y : FpVal) : divInvalid x y =
    if x.isInf && y.isInf then bitAt 9 else if x.isZero && y.isZero then bitAt 10 else 0 := by
  cases x <;> cases y <;> rfl

/-! ## Special results of the operations -/

/-- The value is the infinity or the zero `w`. -/
def FpVal.SpecialIs (x : FpVal) (w : Dword) : Prop :=
  match x with
  | .nan => False
  | .inf n => w = infinityWith n
  | .zero n => w = zeroWith n
  | .finite _ => False

theorem infinityWith_eq (n : Bool) : infinityWith n = infinity n := by cases n <;> decide

theorem zeroWith_eq (n : Bool) : zeroWith n = zeroOf n := by cases n <;> decide

/-- A special result is not rounded. -/
theorem ofValue_special {w : Dword} (h : x.SpecialIs w) (p : Precision) (f : Word) (u : Dword) (negate : Bool) :
    FpOut.ofValue p f u negate x = FpOut.exact (negateIf negate w) 0 := by
  cases x with
  | nan | finite => exact h.elim
  | inf n => rw [FpOut.ofValue, h, infinityWith_eq]
  | zero n => rw [FpOut.ofValue, h, zeroWith_eq]

theorem FpVal.Describes.specialIs_inf (h : x.Describes inf neg q) (special : inf = true) : x.SpecialIs (infinityWith neg) := by
  obtain ⟨rfl, rfl, -, -⟩ := h
  cases x with
  | inf n => rfl
  | nan | zero | finite => cases special

theorem FpVal.Describes.specialIs_zero (h : x.Describes inf neg q) (special : x.isZero = true) :
    x.SpecialIs (zeroWith neg) := by
  obtain ⟨rfl, rfl, -, -⟩ := h
  cases x with
  | zero n => rfl
  | nan | inf | finite => cases special

theorem FpVal.Describes.isNumber (h : x.Describes inf neg q) (finite : inf = false) : x.isNumber = true := by
  obtain ⟨isInf, -, -, proper⟩ := h
  cases x with
  | nan => exact proper.elim
  | inf n => exact (Bool.false_ne_true (isInf.trans finite).symm).elim
  | zero | finite => rfl

/-- An exact zero sum: its sign is that of both summands, or, where they differ, the one that the rounding mode gives. -/
theorem add_specialIs_zero {z : Bool} (hx : x.Proper) (hy : y.Proper) (nx : x.isNumber = true) (ny : y.isNumber = true)
    (sum : x.toRat + y.toRat = 0) : x.add z y = .zero (if x.sign = y.sign then x.sign else z) := by
  cases x with
  | nan | inf => cases nx
  | zero a =>
    cases y with
    | nan | inf => cases ny
    | zero b => rfl
    | finite w => exact absurd ((zero_add _).symm.trans sum) (Exact.toRat_ne_zero hy)
  | finite v =>
    cases y with
    | nan | inf => cases ny
    | zero b => exact absurd ((add_zero _).symm.trans sum) (Exact.toRat_ne_zero hx)
    | finite w =>
      have signs : v.neg ≠ w.neg := by
        have opposite : v.toRat = -w.toRat := eq_neg_of_add_eq_zero_left sum
        have nonzero := Exact.toRat_ne_zero hy
        intro same
        have both := Exact.toRat_neg_iff hx
        rw [same, ← Exact.toRat_neg_iff hy] at both
        rw [opposite, neg_lt_zero] at both
        obtain lt | gt := lt_or_gt_of_ne nonzero
        · exact lt.not_gt (both.mpr lt)
        · exact gt.not_gt (both.mp gt)
      have zero := (toRat_add z nx ny).1.trans sum
      rw [FpVal.add, toRat_ofInt, mul_eq_zero, or_iff_left (zpow_ne_zero _ two_ne_zero), Int.cast_eq_zero] at zero
      rw [FpVal.add, ofInt, if_pos zero, FpVal.sign, FpVal.sign, if_neg signs]

theorem add_special {rn : BitVec 2} {z : Bool} {w : Dword} (hx : x.Describes inf neg q) (hy : y.Describes inf' neg' q')
    (hz : z = (rn == 3)) (valid : sumInvalid x y = false) (h : sumSpecial rn inf neg q inf' neg' q' = some w) :
    (x.add z y).SpecialIs w := by
  unfold sumSpecial at h
  rw [sumInvalid_eq, hx.isInf, hy.isInf, hx.sign, hy.sign] at valid
  by_cases xInf : inf = true
  · rw [if_pos xInf] at h
    cases h
    subst xInf
    cases x with
    | nan => exact hx.proper.elim
    | zero | finite => exact (Bool.false_ne_true hx.isInf).elim
    | inf a =>
      obtain rfl : a = neg := hx.sign
      cases y with
      | nan => exact hy.proper.elim
      | zero | finite => rfl
      | inf b =>
        obtain rfl : true = inf' := hy.isInf
        obtain rfl : b = neg' := hy.sign
        have same : a = b := by simpa using valid
        rw [FpVal.add, if_pos same]
        rfl
  by_cases yInf : inf' = true
  · rw [if_neg xInf, if_pos yInf] at h
    cases h
    subst yInf
    cases y with
    | nan => exact hy.proper.elim
    | zero | finite => exact (Bool.false_ne_true hy.isInf).elim
    | inf b =>
      obtain rfl : b = neg' := hy.sign
      cases x with
      | nan => exact hx.proper.elim
      | inf a => exact (xInf hx.isInf.symm).elim
      | zero | finite => rfl
  by_cases zero : q + q' = 0
  · rw [if_neg xInf, if_neg yInf, if_pos zero] at h
    cases h
    have fx := Bool.eq_false_of_not_eq_true xInf
    have fy := Bool.eq_false_of_not_eq_true yInf
    rw [← hx.value fx, ← hy.value fy] at zero
    rw [add_specialIs_zero hx.proper hy.proper (hx.isNumber fx) (hy.isNumber fy) zero, hx.sign, hy.sign, hz]
    rfl
  · rw [if_neg xInf, if_neg yInf, if_neg zero] at h
    cases h

/-- A product that is no NaN. -/
theorem mul_describes (hx : x.Describes inf neg q) (hy : y.Describes inf' neg' q') (valid : productInvalid x y = false) :
    (x.mul y).Describes (inf || inf') (neg ^^ neg') (q * q') := by
  obtain ⟨rfl, rfl, vx, px⟩ := hx
  obtain ⟨rfl, rfl, vy, py⟩ := hy
  cases x with
  | nan => exact px.elim
  | inf a =>
    cases y with
    | nan => exact py.elim
    | zero b => cases valid
    | inf b => exact ⟨rfl, rfl, nofun, trivial⟩
    | finite w => exact ⟨rfl, rfl, nofun, trivial⟩
  | zero a =>
    cases y with
    | nan => exact py.elim
    | inf b => cases valid
    | zero b => exact ⟨rfl, rfl, fun _ => by rw [← vx rfl]; exact (zero_mul _).symm, trivial⟩
    | finite w => exact ⟨rfl, rfl, fun _ => by rw [← vx rfl]; exact (zero_mul _).symm, trivial⟩
  | finite v =>
    cases y with
    | nan => exact py.elim
    | inf b => exact ⟨rfl, Bool.xor_comm _ _, nofun, trivial⟩
    | zero b => exact ⟨rfl, Bool.xor_comm _ _, fun _ => by rw [← vy rfl]; exact (mul_zero _).symm, trivial⟩
    | finite w =>
      refine ⟨rfl, rfl, fun _ => ?_, Nat.mul_ne_zero px py⟩
      rw [← vx rfl, ← vy rfl]
      exact (toRat_mul rfl rfl).1

theorem mul_isZero (hx : x.Proper) (hy : y.Proper) (fx : x.isInf = false) (fy : y.isInf = false) :
    (x.mul y).isZero = (x.isZero || y.isZero) := by
  cases x with
  | nan => exact hx.elim
  | inf => cases fx
  | zero | finite =>
    cases y with
    | nan => exact hy.elim
    | inf => cases fy
    | zero | finite => rfl

/-- A quotient with an infinite operand, or of zero. -/
theorem div_special (hx : x.Proper) (hy : y.Proper) (infs : (x.isInf && y.isInf) = false) :
    (x.isInf = true → (x.div y).SpecialIs (infinityWith (x.sign ^^ y.sign))) ∧
      (x.isInf = false → y.isInf = true ∨ x.isZero = true ∧ y.isZero = false →
        (x.div y).SpecialIs (zeroWith (x.sign ^^ y.sign))) := by
  cases x with
  | nan => exact hx.elim
  | inf a =>
    refine ⟨fun _ => ?_, nofun⟩
    cases y with
    | nan => exact hy.elim
    | inf => cases infs
    | zero | finite => rfl
  | zero a =>
    refine ⟨nofun, fun _ h => ?_⟩
    cases y with
    | nan => exact hy.elim
    | zero => simp [FpVal.isInf, FpVal.isZero] at h
    | inf | finite => rfl
  | finite v =>
    refine ⟨nofun, fun _ h => ?_⟩
    cases y with
    | nan => exact hy.elim
    | zero | finite => simp [FpVal.isInf, FpVal.isZero] at h
    | inf => rfl

end

/-! ## The operands of the instructions -/

section
variable {a b c : Dword} {minus : Bool}

/-- The classes of doubles exclude each other. -/
theorem classify_flags (d : Dword) :
    (isNan d = true ∧ infinite d = false ∧ zero d = false ∧ classify d = .nan) ∨
    (isNan d = false ∧ infinite d = true ∧ zero d = false ∧ classify d = .inf d.msb) ∨
    (isNan d = false ∧ infinite d = false ∧ zero d = true ∧ classify d = .zero d.msb) ∨
    (isNan d = false ∧ infinite d = false ∧ zero d = false ∧ classify d = .finite (finiteOf d)) := by
  have inf := classify_isInf d
  have zero := classify_isZero d
  obtain ⟨nan, is⟩ | ⟨nan, -, is⟩ | ⟨number, -, is⟩ | ⟨number, -, is⟩ := classify_cases d <;> rw [is] at inf zero
  · exact .inl ⟨nan, inf.symm, zero.symm, is⟩
  · exact .inr (.inl ⟨nan, inf.symm, zero.symm, is⟩)
  · exact .inr (.inr (.inl ⟨isNan_of_isNumber number, inf.symm, zero.symm, is⟩))
  · exact .inr (.inr (.inr ⟨isNan_of_isNumber number, inf.symm, zero.symm, is⟩))

/-- The second summand: of a subtraction with its sign inverted. -/
def addend (minus : Bool) (b : Dword) : FpVal := if minus then (classify b).negate else classify b

theorem addend_isInf (minus : Bool) (b : Dword) : (addend minus b).isInf = infinite b := by
  rw [← classify_isInf, addend]
  cases minus <;> cases classify b <;> rfl

theorem addend_sign (nan : isNan b = false) : (addend minus b).sign = (b.msb ^^ minus) := by
  have sign := (classify_describes nan)
  cases minus with
  | false => rw [Bool.xor_false, ← sign.sign]; rfl
  | true => rw [Bool.xor_true]; exact (FpVal.negate_describes sign).sign

theorem addend_describes (nan : isNan b = false) :
    (addend minus b).Describes (infinite b) (b.msb ^^ minus) (if minus then -numberOf b else numberOf b) := by
  have operand := classify_describes nan
  cases minus with
  | false => rw [Bool.xor_false]; exact operand
  | true => rw [Bool.xor_true]; exact FpVal.negate_describes operand

/-- A product is infinite where one factor is and the other is neither zero nor a NaN. -/
theorem mul_classify_isInf (a c : Dword) : ((classify a).mul (classify c)).isInf = productInfinite a c := by
  obtain ⟨na, ia, za, is⟩ | ⟨na, ia, za, is⟩ | ⟨na, ia, za, is⟩ | ⟨na, ia, za, is⟩ := classify_flags a <;>
  obtain ⟨nc, ic, zc, is'⟩ | ⟨nc, ic, zc, is'⟩ | ⟨nc, ic, zc, is'⟩ | ⟨nc, ic, zc, is'⟩ := classify_flags c <;>
  rw [productInfinite, na, nc, ia, ic, za, zc, is, is'] <;> rfl

theorem mul_sign_of_isInf {x y : FpVal} (h : (x.mul y).isInf = true) : (x.mul y).sign = (x.sign ^^ y.sign) := by
  cases x with
  | nan => cases h
  | inf m =>
    cases y with
    | nan | zero => cases h
    | inf | finite => rfl
  | zero m => cases y <;> cases h
  | finite v =>
    cases y with
    | nan | zero | finite => cases h
    | inf n => exact Bool.xor_comm n v.neg

theorem mul_classify_sign (h : productInfinite a c = true) : ((classify a).mul (classify c)).sign = (a.msb ^^ c.msb) := by
  have numbers : isNan a = false ∧ isNan c = false := by
    simp only [productInfinite, Bool.or_eq_true, Bool.and_eq_true, Bool.not_eq_true'] at h
    obtain ⟨⟨inf, nan⟩, -⟩ | ⟨⟨inf, nan⟩, -⟩ := h
    · exact ⟨isNan_of_infinite inf, nan⟩
    · exact ⟨nan, isNan_of_infinite inf⟩
  rw [mul_sign_of_isInf ((mul_classify_isInf a c).trans h), classify_sign numbers.1, classify_sign numbers.2]

theorem bitIf_sumInvalid (x : FpVal) {xInf xNeg : Bool} (inf : x.isInf = xInf) (sign : xInf = true → x.sign = xNeg) (b : Dword)
    (minus : Bool) : bitIf (sumInvalid x (addend minus b)) bitVxisi = sumBits xInf xNeg (infinite b) (b.msb ^^ minus) := by
  rw [sumInvalid_eq, inf, addend_isInf]
  cases xInf with
  | false => rfl
  | true =>
    cases yInf : infinite b with
    | false => rfl
    | true => rw [sign rfl, addend_sign (isNan_of_infinite yInf)]; rfl

theorem addOut_eq (p : Precision) (minus : Bool) (f : Word) (u a b : Dword) : addOut p minus f u a b =
    withOperands p f [a, b] (bitIf (sumInvalid (classify a) (addend minus b)) bitVxisi)
      (.ofValue p f u false ((classify a).add (zeroSumSign f) (addend minus b))) := rfl

theorem maddOut_eq (p : Precision) (minus negate : Bool) (f : Word) (u a b c : Dword) : maddOut p minus negate f u a b c =
    withOperands p f [a, b, c] (bitIf (productInvalid (classify a) (classify c)) bitVximz |||
        bitIf (sumInvalid ((classify a).mul (classify c)) (addend minus b)) bitVxisi)
      (.ofValue p f u negate (((classify a).mul (classify c)).add (zeroSumSign f) (addend minus b))) := rfl

theorem bitIf_productInvalid (a c : Dword) :
    bitIf (productInvalid (classify a) (classify c)) bitVximz = productBits a c := by
  rw [productInvalid_eq, classify_isInf, classify_isInf, classify_isZero, classify_isZero]
  rfl

theorem productInvalid_of_bits (h : productBits a c = 0) : productInvalid (classify a) (classify c) = false := by
  rw [← bitIf_productInvalid] at h
  cases valid : productInvalid (classify a) (classify c) with
  | false => rfl
  | true => rw [valid] at h; exact absurd h (by decide)

theorem sumInvalid_of_bits {x y : FpVal} (h : bitIf (sumInvalid x y) bitVxisi = 0) : sumInvalid x y = false := by
  cases valid : sumInvalid x y with
  | false => rfl
  | true => rw [valid] at h; exact absurd h (by decide)

theorem zeroSumSign_eq (f : Word) : zeroSumSign f = (slice 2 f 30 == 3) := by
  have bits : slice 2 f 30 = BitVec.ofBool (f.getMsbD 30) ++ BitVec.ofBool (f.getMsbD 31) := by
    apply eq_of_getMsbD
    intro k hk
    rw [slice_getMsbD 2 _ _ _ (by decide) hk]
    obtain rfl | rfl : k = 0 ∨ k = 1 := by omega
    · cases f.getMsbD 30 <;> cases f.getMsbD 31 <;> rfl
    · cases f.getMsbD 30 <;> cases f.getMsbD 31 <;> rfl
  rw [zeroSumSign, roundMode, bits]
  cases f.getMsbD 30 <;> cases f.getMsbD 31 <;> rfl

end

/-! ## The arithmetic instructions on special operands (O52) -/

section
variable {s : State} {d : BitVec 5} {rc : Bool} {used : List Dword} {affected op op' : Word} {fop : FpOp} {x : FpOperands}
  {out : Precision → Word → Dword → FpOut} {k : Precision → Dword → FpOut} {v : Option Dword} {i j : Instr}

/-- Both precisions of an instruction do the same with special operands. -/
theorem specialBoth_of_runs (ref : s.cfg.fpResult = .reference) (ei : exec i s = runDouble d rc affected fop x (out .double) s)
    (ej : exec j s = runSingle d rc used affected fop x (out .single) s)
    (hout : ∀ p u, out p s.fpscr u = withOperands p s.fpscr used op' (k p u)) (hop : op' = op)
    (listed : bitAt 7 &&& affected = bitAt 7 ∧ op &&& affected = op) (invalid : op &&& invalidBits = op)
    (special : used.any isNan = false → op = 0 → ∀ w, v = some w → ∀ p u, k p u = FpOut.exact w 0) :
    specialBoth s d rc used op v i j := by
  subst hop
  refine ⟨?_, fun singles => ?_⟩
  · have ends := endsWith_double ref ei
    rw [hout] at ends
    exact specialEffect_of_ends (single := false) ends invalid listed.1 listed.2 fun nan valid w hw => special nan valid w hw _ _
  · have ends := endsWith_single ref singles ej
    rw [hout] at ends
    exact specialEffect_of_ends (single := true) ends invalid listed.1 listed.2 fun nan valid w hw => special nan valid w hw _ _

end

theorem sumBits_within {affected : Word} (h : bitAt 8 &&& affected = bitAt 8) (xInf xNeg yInf yNeg : Bool) :
    sumBits xInf xNeg yInf yNeg &&& affected = sumBits xInf xNeg yInf yNeg := within_bitIf _ h

theorem productBits_within {affected : Word} (h : bitAt 11 &&& affected = bitAt 11) (a c : Dword) :
    productBits a c &&& affected = productBits a c := within_bitIf _ h

theorem rootBits_within {affected : Word} (h : bitAt 22 &&& affected = bitAt 22) (b : Dword) :
    rootBits b &&& affected = rootBits b := within_bitIf _ h

theorem quotientBits_within {affected : Word} (h : bitAt 9 &&& affected = bitAt 9) (h' : bitAt 10 &&& affected = bitAt 10)
    (a b : Dword) : quotientBits a b &&& affected = quotientBits a b := by
  unfold quotientBits
  split
  · exact h
  · exact within_bitIf _ h'

section
variable {a b c : Dword} {w : Dword} {minus negate : Bool}

theorem any_isNan_pair (h : [a, b].any isNan = false) : isNan a = false ∧ isNan b = false := by
  simpa using h

theorem any_isNan_triple (h : [a, b, c].any isNan = false) : isNan a = false ∧ isNan b = false ∧ isNan c = false := by
  simpa using h

/-- Sums and differences. -/
theorem add_special_value {f : Word} (nan : [a, b].any isNan = false)
    (valid : sumBits (infinite a) a.msb (infinite b) (b.msb ^^ minus) = 0)
    (special : sumSpecial (slice 2 f 30) (infinite a) a.msb (numberOf a) (infinite b) (b.msb ^^ minus)
      (if minus then -numberOf b else numberOf b) = some w) (p : Precision) (u : Dword) :
    FpOut.ofValue p f u false ((classify a).add (zeroSumSign f) (addend minus b)) = FpOut.exact w 0 := by
  obtain ⟨na, nb⟩ := any_isNan_pair nan
  rw [← bitIf_sumInvalid (classify a) (classify_isInf a) (fun _ => classify_sign na)] at valid
  exact ofValue_special (add_special (classify_describes na) (addend_describes nb) (zeroSumSign_eq f)
    (sumInvalid_of_bits valid) special) p f u false

/-- Products. -/
theorem mul_special_value {f : Word} (nan : [a, c].any isNan = false) (valid : productBits a c = 0)
    (special : productSpecial a c = some w) (p : Precision) (u : Dword) :
    FpOut.ofValue p f u false ((classify a).mul (classify c)) = FpOut.exact w 0 := by
  obtain ⟨na, nc⟩ := any_isNan_pair nan
  have product := mul_describes (classify_describes na) (classify_describes nc) (productInvalid_of_bits valid)
  have inf : productInfinite a c = (infinite a || infinite c) := by rw [← product.isInf, mul_classify_isInf]
  refine ofValue_special ?_ p f u false
  unfold productSpecial at special
  split_ifs at special with isInf isZero
  · cases special
    exact product.specialIs_inf (inf.symm.trans isInf)
  · cases special
    rw [inf, Bool.not_eq_true, Bool.or_eq_false_iff] at isInf
    refine product.specialIs_zero ?_
    rw [mul_isZero (classify_describes na).proper (classify_describes nc).proper ((classify_isInf a).trans isInf.1)
      ((classify_isInf c).trans isInf.2), classify_isZero, classify_isZero]
    exact isZero

/-- Multiply-adds. -/
theorem madd_special_value {f : Word} (nan : [a, b, c].any isNan = false)
    (valid : productBits a c ||| sumBits (productInfinite a c) (a.msb ^^ c.msb) (infinite b) (b.msb ^^ minus) = 0)
    (special : sumSpecial (slice 2 f 30) (productInfinite a c) (a.msb ^^ c.msb) (numberOf a * numberOf c) (infinite b)
      (b.msb ^^ minus) (if minus then -numberOf b else numberOf b) = some w) (p : Precision) (u : Dword) :
    FpOut.ofValue p f u negate (((classify a).mul (classify c)).add (zeroSumSign f) (addend minus b)) =
      FpOut.exact (negateIf negate w) 0 := by
  obtain ⟨na, nb, nc⟩ := any_isNan_triple nan
  obtain ⟨validProduct, validSum⟩ := BitVec.or_eq_zero_iff.mp valid
  have product := mul_describes (classify_describes na) (classify_describes nc) (productInvalid_of_bits validProduct)
  have inf : productInfinite a c = (infinite a || infinite c) := by rw [← product.isInf, mul_classify_isInf]
  rw [← inf] at product
  rw [← bitIf_sumInvalid _ (mul_classify_isInf a c) mul_classify_sign] at validSum
  exact ofValue_special (add_special product (addend_describes nb) (zeroSumSign_eq f) (sumInvalid_of_bits validSum) special)
    p f u negate

theorem divInvalid_classify (a b : Dword) : divInvalid (classify a) (classify b) = quotientBits a b := by
  rw [divInvalid_eq, classify_isInf, classify_isInf, classify_isZero, classify_isZero]
  rfl

/-- Step 4 of R313 and the quotient: what a division goes on with. -/
def quotientOut (p : Precision) (f : Word) (u : Dword) (neg : Bool) (x y : FpVal) : FpOut :=
  match x, y with
  | .finite _, .zero _ => zeroDivide f neg
  | x, y => .ofValue p f u false (x.div y)

theorem divOut_eq (p : Precision) (f : Word) (u a b : Dword) : divOut p f u a b =
    withOperands p f [a, b] (divInvalid (classify a) (classify b))
      (quotientOut p f u (signOf a != signOf b) (classify a) (classify b)) := rfl

/-- Only of a finite value by a zero is the quotient no value of the exact division. -/
theorem quotientOut_eq (p : Precision) (f : Word) (u : Dword) (neg : Bool) {x y : FpVal}
    (h : y.isZero = false ∨ x.isInf = true ∨ x.isZero = true) :
    quotientOut p f u neg x y = .ofValue p f u false (x.div y) := by
  cases x with
  | nan | inf | zero => rfl
  | finite v =>
    cases y with
    | nan | inf | finite => rfl
    | zero n => simp [FpVal.isZero, FpVal.isInf] at h

/-- Quotients. -/
theorem div_special_value {f : Word} (nan : [a, b].any isNan = false) (valid : quotientBits a b = 0)
    (special : quotientSpecial a b = some w) (p : Precision) (u : Dword) (neg : Bool) :
    quotientOut p f u neg (classify a) (classify b) = FpOut.exact w 0 := by
  obtain ⟨na, nb⟩ := any_isNan_pair nan
  have infs : ((classify a).isInf && (classify b).isInf) = false := by
    rw [classify_isInf, classify_isInf, Bool.eq_false_iff]
    intro both
    rw [quotientBits, if_pos both] at valid
    exact absurd valid (by decide)
  obtain ⟨isInf, isZero⟩ := div_special (classify_describes na).proper (classify_describes nb).proper infs
  simp only [classify_isInf, classify_isZero, classify_sign na, classify_sign nb] at isInf isZero
  unfold quotientSpecial at special
  by_cases ia : infinite a = true
  · rw [if_pos ia] at special
    cases special
    rw [quotientOut_eq _ _ _ _ (.inr (.inl ((classify_isInf a).trans ia)))]
    exact ofValue_special (isInf ia) p f u false
  · rw [if_neg ia] at special
    split at special
    · next zeros =>
      cases special
      have cases : infinite b = true ∨ zero a = true ∧ zero b = false := by simpa using zeros
      have plain : (classify b).isZero = false ∨ (classify a).isInf = true ∨ (classify a).isZero = true := by
        rw [classify_isZero, classify_isZero]
        obtain ib | ⟨za, -⟩ := cases
        · exact .inl (Bool.eq_false_iff.mpr fun zb =>
            absurd ((infinite_iff.mp ib).1.symm.trans (zero_iff.mp zb).1) (by decide))
        · exact .inr (.inr za)
      rw [quotientOut_eq _ _ _ _ plain]
      exact ofValue_special (isZero (Bool.eq_false_of_not_eq_true ia) cases) p f u false
    · cases special

theorem bitIf_rootInvalid (b : Dword) : bitIf (rootInvalid (classify b)) bitVxsqrt = rootBits b := by
  obtain ⟨nan, -, zero, is⟩ | ⟨nan, -, zero, is⟩ | ⟨nan, -, zero, is⟩ | ⟨nan, -, zero, is⟩ := classify_flags b <;>
    rw [rootBits, nan, zero, is]
  · simp [rootInvalid, bitIf]
  · simp [rootInvalid, bitIf]; rfl
  · simp [rootInvalid, bitIf]
  · simp [rootInvalid, bitIf, finiteOf_neg]; rfl

theorem infinityWith_of_infinite (h : infinite b = true) : b = infinityWith b.msb := by
  obtain ⟨exp, frac⟩ := infinite_iff.mp h
  rw [infinityWith_eq, infinity]
  obtain ⟨sign, exp', frac'⟩ := makeDouble_fields (neg := b.msb) (k := 2047) (f := 0) (by decide) (by decide)
  exact eq_of_fields sign.symm (exp.trans exp'.symm) (frac.trans frac'.symm)

theorem zeroWith_of_zero (h : zero b = true) : b = zeroWith b.msb := by
  obtain ⟨exp, frac⟩ := zero_iff.mp h
  rw [zeroWith_eq, zeroOf]
  obtain ⟨sign, exp', frac'⟩ := makeDouble_fields (neg := b.msb) (k := 0) (f := 0) (by decide) (by decide)
  exact eq_of_fields sign.symm (exp.trans exp'.symm) (frac.trans frac'.symm)

/-- Square roots. -/
theorem sqrt_special_value {f : Word} (valid : rootBits b = 0) (special : rootSpecial b = some w) (p : Precision) (u : Dword) :
    FpOut.ofValue p f u false (classify b).sqrt = FpOut.exact w 0 := by
  refine ofValue_special ?_ p f u false
  unfold rootSpecial at special
  split at special
  · next h =>
    cases special
    obtain ⟨-, inf, zero, -⟩ | ⟨nan, inf, zero, is⟩ | ⟨-, -, zero, is⟩ | ⟨-, inf, zero, -⟩ := classify_flags b
    · rw [inf, zero] at h; cases h
    · have plus : b.msb = false := by
        rw [rootBits, nan, zero] at valid
        cases sign : b.msb with
        | false => rfl
        | true => rw [sign] at valid; exact absurd valid (by decide)
      rw [is, plus]
      exact (infinityWith_of_infinite inf).trans (congrArg infinityWith plus)
    · rw [is]
      exact zeroWith_of_zero zero
    · rw [inf, zero] at h; cases h
  · cases special

end

/-- A multiply-add with special operands. -/
theorem specialMadd_of_runs {s : State} {d a b c : BitVec 5} {rc minus negate : Bool} {i j : Instr} {fop : FpOp} {x : FpOperands}
    (ref : s.cfg.fpResult = .reference)
    (ei : exec i s = runDouble d rc affectedMadd fop x
      (fun f u => maddOut .double minus negate f u (s.getFpr a) (s.getFpr b) (s.getFpr c)) s)
    (ej : exec j s = runSingle d rc [s.getFpr a, s.getFpr b, s.getFpr c] affectedMadd fop x
      (fun f u => maddOut .single minus negate f u (s.getFpr a) (s.getFpr b) (s.getFpr c)) s) :
    specialMadd s d a b c rc minus negate i j := by
  have op : bitIf (productInvalid (classify (s.getFpr a)) (classify (s.getFpr c))) bitVximz |||
      bitIf (sumInvalid ((classify (s.getFpr a)).mul (classify (s.getFpr c))) (addend minus (s.getFpr b))) bitVxisi =
      productBits (s.getFpr a) (s.getFpr c) ||| sumBits (productInfinite (s.getFpr a) (s.getFpr c))
        ((s.getFpr a).msb ^^ (s.getFpr c).msb) (infinite (s.getFpr b)) ((s.getFpr b).msb ^^ minus) := by
    rw [bitIf_productInvalid, bitIf_sumInvalid _ (mul_classify_isInf _ _) mul_classify_sign]
  refine specialBoth_of_runs
    (out := fun p f u => maddOut p minus negate f u (s.getFpr a) (s.getFpr b) (s.getFpr c)) ref ei ej
    (fun _ _ => maddOut_eq ..) op
    ⟨by decide, within_or (productBits_within (by decide) _ _) (sumBits_within (by decide) _ _ _ _)⟩
    (within_or (productBits_within (by decide) _ _) (sumBits_within (by decide) _ _ _ _)) fun nan valid w special p u => ?_
  cases negate with
  | false => exact madd_special_value nan valid special p u
  | true =>
    obtain ⟨v, some, rfl⟩ := Option.map_eq_some_iff.mp special
    exact madd_special_value nan valid some p u

theorem special_results : specialResults := by
  intro s d a b c rc on ref x y z rn
  refine ⟨?fadd, ?fsub, ?fmul, ?fdiv, fun has => ?fsqrt, ?fmadd, ?fmsub, ?fnmadd, ?fnmsub⟩
  case fadd =>
    refine specialBoth_of_runs (out := fun p f u => addOut p false f u x y) ref (exec_float on rfl rfl rfl)
      (exec_float on rfl rfl rfl) (fun _ _ => addOut_eq ..) ?_ ⟨by decide, sumBits_within (by decide) _ _ _ _⟩
      (sumBits_within (by decide) _ _ _ _) fun nan valid w special p u => ?_
    · rw [bitIf_sumInvalid _ (classify_isInf x) fun inf => classify_sign (isNan_of_infinite inf), Bool.xor_false]
    · exact add_special_value (minus := false) nan (by rwa [Bool.xor_false]) (by rwa [Bool.xor_false]) p u
  case fsub =>
    refine specialBoth_of_runs (out := fun p f u => addOut p true f u x y) ref (exec_float on rfl rfl rfl)
      (exec_float on rfl rfl rfl) (fun _ _ => addOut_eq ..) ?_ ⟨by decide, sumBits_within (by decide) _ _ _ _⟩
      (sumBits_within (by decide) _ _ _ _) fun nan valid w special p u => ?_
    · rw [bitIf_sumInvalid _ (classify_isInf x) fun inf => classify_sign (isNan_of_infinite inf), Bool.xor_true]
    · exact add_special_value (minus := true) nan (by rwa [Bool.xor_true]) (by rwa [Bool.xor_true]) p u
  case fmul =>
    exact specialBoth_of_runs (out := fun p f u => mulOut p f u x z) ref (exec_float on rfl rfl rfl)
      (exec_float on rfl rfl rfl) (fun _ _ => rfl) (bitIf_productInvalid x z)
      ⟨by decide, productBits_within (by decide) _ _⟩ (productBits_within (by decide) _ _)
      fun nan valid w special p u => mul_special_value nan valid special p u
  case fdiv =>
    exact specialBoth_of_runs (out := fun p f u => divOut p f u x y) ref (exec_float on rfl rfl rfl)
      (exec_float on rfl rfl rfl) (fun _ _ => divOut_eq ..) (divInvalid_classify x y)
      ⟨by decide, quotientBits_within (by decide) (by decide) _ _⟩ (quotientBits_within (by decide) (by decide) _ _)
      fun nan valid w special p u => div_special_value nan valid special p u _
  case fsqrt =>
    exact specialBoth_of_runs (out := fun p f u => sqrtOut p f u y) ref (exec_optional on has rfl rfl rfl)
      (exec_optional on has rfl rfl rfl) (fun _ _ => rfl) (bitIf_rootInvalid y)
      ⟨by decide, rootBits_within (by decide) _⟩ (rootBits_within (by decide) _)
      fun nan valid w special p u => sqrt_special_value valid special p u
  case fmadd => exact specialMadd_of_runs ref (exec_float on rfl rfl rfl) (exec_float on rfl rfl rfl)
  case fmsub => exact specialMadd_of_runs ref (exec_float on rfl rfl rfl) (exec_float on rfl rfl rfl)
  case fnmadd => exact specialMadd_of_runs ref (exec_float on rfl rfl rfl) (exec_float on rfl rfl rfl)
  case fnmsub => exact specialMadd_of_runs ref (exec_float on rfl rfl rfl) (exec_float on rfl rfl rfl)

/-! ## Zero divides and estimates (O52) -/

/-- A zero divide: ZX, and the infinity unless ZE = 1. -/
theorem zeroDivide_unrounded (f : Word) (neg : Bool) : (zeroDivide f neg).Unrounded f false (bitAt 5)
    (if f.getMsbD 27 then none else some (infinityWith neg)) := by
  have enabled : enabledAmong f (bitAt 5) = fpscrZe f := by
    have bits : fpscrVx (bitAt 5) = false ∧ (bitAt 5).getMsbD 3 = false ∧ (bitAt 5).getMsbD 4 = false ∧
      (bitAt 5).getMsbD 5 = true ∧ (bitAt 5).getMsbD 6 = false := by decide
    obtain ⟨vx, ox, ux, zx, xx⟩ := bits
    rw [enabledAmong_eq (by decide), vx, ox, ux, zx, xx]
    simp only [Bool.false_and, Bool.or_false, Bool.false_or, Bool.true_and]
    rfl
  unfold zeroDivide
  by_cases ze : fpscrZe f = true
  · rw [if_pos ze, if_pos (show f.getMsbD 27 = true from ze)]
    exact FpOut.none_unrounded (by decide) (enabled.trans ze)
  · rw [if_neg ze, if_neg (show ¬ f.getMsbD 27 = true from ze), infinityWith_eq]
    exact FpOut.exact_unrounded _ (by decide) (enabled.trans (Bool.eq_false_of_not_eq_true ze))

theorem singleRepresentable_of_zero {d : Dword} (h : zero d = true) : singleRepresentable d = true := by
  rw [singleRepresentable, if_pos (.inr (beq_iff_eq.mp h))]

theorem classify_of_zero {d : Dword} (h : zero d = true) : isNan d = false ∧ classify d = .zero d.msb := by
  obtain ⟨-, -, zero, -⟩ | ⟨-, -, zero, -⟩ | ⟨nan, -, -, is⟩ | ⟨-, -, zero, -⟩ := classify_flags d
  · exact absurd (zero.symm.trans h) (by decide)
  · exact absurd (zero.symm.trans h) (by decide)
  · exact ⟨nan, is⟩
  · exact absurd (zero.symm.trans h) (by decide)

theorem classify_of_infinite {d : Dword} (h : infinite d = true) : isNan d = false ∧ classify d = .inf d.msb := by
  obtain ⟨-, inf, -, -⟩ | ⟨nan, -, -, is⟩ | ⟨-, inf, -, -⟩ | ⟨-, inf, -, -⟩ := classify_flags d
  · exact absurd (inf.symm.trans h) (by decide)
  · exact ⟨nan, is⟩
  · exact absurd (inf.symm.trans h) (by decide)
  · exact absurd (inf.symm.trans h) (by decide)

theorem classify_of_number {d : Dword} (h : isNumber d = true) (nonzero : numberOf d ≠ 0) :
    zero d = false ∧ classify d = .finite (finiteOf d) := by
  obtain ⟨nan, -⟩ | ⟨-, inf, -⟩ | ⟨-, -, is⟩ | ⟨-, zero, is⟩ := classify_cases d
  · exact absurd nan (by rw [isNan_of_isNumber h]; decide)
  · exact absurd inf (by rw [infinite_of_isNumber h]; decide)
  · rw [numberOf_eq h, is] at nonzero
    exact absurd rfl nonzero
  · exact ⟨zero, is⟩

/-- A division of a finite nonzero number by a zero. -/
theorem divOut_zeroDivide {a b : Dword} (number : isNumber a = true) (nonzero : numberOf a ≠ 0) (zb : zero b = true)
    (p : Precision) (f : Word) (u : Dword) : divOut p f u a b = zeroDivide f (a.msb ^^ b.msb) := by
  obtain ⟨-, ia⟩ := classify_of_number number nonzero
  obtain ⟨nb, ib⟩ := classify_of_zero zb
  have nan : [a, b].any isNan = false := by simp [isNan_of_isNumber number, nb]
  have valid : divInvalid (.finite (finiteOf a)) (.zero b.msb) = 0 := rfl
  rw [divOut_eq, ia, ib, valid, withOperands_plain nan]
  rfl

theorem zero_divides : zeroDivides := by
  intro s d a b rc on ref number nonzero zb neg
  refine ⟨?fdiv, fun single => ?fdivs⟩
  case fdiv =>
    have ends := endsWith_double ref (exec_float (i := .fdivx d a b rc) on rfl rfl rfl)
    rw [divOut_zeroDivide number nonzero zb] at ends
    exact ends.unroundedEffect ((zeroDivide_unrounded _ _).within (by decide))
  case fdivs =>
    have singles : [s.getFpr a, s.getFpr b].all singleRepresentable = true := by
      simp [single, singleRepresentable_of_zero zb]
    have ends := endsWith_single ref singles (exec_float (i := .fdivsx d a b rc) on rfl rfl rfl)
    rw [divOut_zeroDivide number nonzero zb] at ends
    exact ends.unroundedEffect ((zeroDivide_unrounded _ _).within (by decide))

/-- What `fres` goes on with, the operand being no NaN. -/
def resRest (f : Word) (y : Dword) (fr fi : Bool) (x : FpVal) : FpOut :=
  match x with
  | .nan => FpOut.exact defaultNan 0
  | .inf n => FpOut.exact (zeroOf n) 0
  | .zero n => zeroDivide f n
  | .finite v => reciprocal f y fr fi v

theorem resOut_eq (f : Word) (y : Dword) (fr fi : Bool) (b : Dword) : resOut f y fr fi b =
    (withOperands (precisionOf true) f [b] 0 (resRest f y fr fi (classify b))).looseFraction fr fi := rfl

/-- What `frsqrte` goes on with. -/
def rsqrteRest (f : Word) (y : Dword) (x : FpVal) : FpOut :=
  match x with
  | .nan => FpOut.exact defaultNan 0
  | .inf _ => FpOut.exact (zeroOf false) 0
  | .zero n => zeroDivide f n
  | .finite v => FpOut.exact (if goodRsqrt v y then y else (roundTo .double (roundMode f) false false v.rsqrt).value) 0

theorem rsqrteOut_eq (f : Word) (y : Dword) (fr fi : Bool) (b : Dword) : rsqrteOut f y fr fi b =
    (withOperands (precisionOf false) f [b] (bitIf (rootInvalid (classify b)) bitVxsqrt)
      (rsqrteRest f y (classify b))).looseFraction fr fi := rfl

theorem any_isNan_singleton {b : Dword} (h : isNan b = false) : [b].any isNan = false := by simp [h]

theorem rootBits_of_zero {b : Dword} (h : zero b = true) : rootBits b = 0 := by
  rw [rootBits, h, Bool.not_true, Bool.and_false]
  rfl

theorem rootBits_of_plus {b : Dword} (h : b.msb = false) : rootBits b = 0 := by
  rw [rootBits, h, Bool.false_and]
  rfl

theorem estimate_tables : estimateTables := by
  intro s d b rc on y
  refine ⟨fun has single => ?fres, fun has => ?frsqrte⟩
  case fres =>
    have singles : [y].all singleRepresentable = true := by simp [single]
    have ends := endsWith_single_bound rfl singles (exec_optional (i := .fresx d b rc) on has rfl rfl rfl)
    rw [resOut_eq] at ends
    refine ⟨nanEffect_of_ends_loose ends (by decide) (by decide) (by decide), fun zero => ?_, fun inf => ?_⟩
    · obtain ⟨nan, is⟩ := classify_of_zero zero
      rw [withOperands_plain (any_isNan_singleton nan), is] at ends
      exact ends.unroundedEffect (((zeroDivide_unrounded _ _).looseFraction _ _).within (by decide))
    · obtain ⟨nan, is⟩ := classify_of_infinite inf
      rw [withOperands_plain (any_isNan_singleton nan), is] at ends
      rw [zeroWith_eq]
      exact ends.unroundedEffect (((FpOut.plain_unrounded _ _).looseFraction _ _).within (by decide))
  case frsqrte =>
    have ends := endsWith_double_bound rfl (exec_optional (i := .frsqrtex d b rc) on has rfl rfl rfl)
    rw [rsqrteOut_eq, bitIf_rootInvalid] at ends
    refine ⟨nanEffect_of_ends_loose ends (rootBits_within (by decide) _) (by decide) (rootBits_within (by decide) _),
      fun zero => ?_, fun inf plus => ?_⟩
    · obtain ⟨nan, is⟩ := classify_of_zero zero
      rw [rootBits_of_zero zero, withOperands_plain (any_isNan_singleton nan), is] at ends
      exact ends.unroundedEffect (((zeroDivide_unrounded _ _).looseFraction _ _).within (by decide))
    · obtain ⟨nan, is⟩ := classify_of_infinite inf
      rw [rootBits_of_plus plus, withOperands_plain (any_isNan_singleton nan), is] at ends
      exact ends.unroundedEffect (((FpOut.plain_unrounded _ _).looseFraction _ _).within (by decide))

/-- Settles O52: each instruction ends in `fp_finish` with an output that is not rounded. -/
theorem floatInvalid : Obligations.FloatInvalid := by
  unfold Obligations.FloatInvalid
  exact ⟨special_results, zero_divides, estimate_tables⟩

end Sys2Proof.Machine
end

section
/-!
PROOFS. Rounding to a format (43_float_arithmetic R313 step 5): the double that holds a rounded magnitude, and what `roundTo` gives in
the format's range, above it and below it.
-/

namespace Sys2Proof.Machine

/-! ## Powers of two -/

section
variable {n m : ℕ} {q e : ℤ} {a : ℝ}

/-- The binary logarithm of a nonzero number of units bounds its magnitude. -/
theorem two_zpow_log2_le (h : n ≠ 0) (q : ℤ) : (2 : ℝ) ^ (n.log2 + q) ≤ n * 2 ^ q := by
  rw [zpow_add₀ two_ne_zero, zpow_natCast]
  have low : ((2 ^ n.log2 : ℕ) : ℝ) ≤ n := Nat.cast_le.mpr (Nat.log2_self_le h)
  push_cast at low
  exact mul_le_mul_of_nonneg_right low (two_zpow_pos q).le

theorem lt_two_zpow_log2 (n : ℕ) (q : ℤ) : (n : ℝ) * 2 ^ q < 2 ^ (n.log2 + q + 1) := by
  have high : (n : ℝ) < ((2 ^ (n.log2 + 1) : ℕ) : ℝ) := Nat.cast_lt.mpr Nat.lt_log2_self
  push_cast at high
  rw [show (n.log2 : ℤ) + q + 1 = (n.log2 + 1 : ℕ) + q by push_cast; ring, zpow_add₀ two_ne_zero, zpow_natCast]
  exact mul_lt_mul_of_pos_right high (two_zpow_pos q)

theorem lt_of_zpow_lt {i j : ℤ} (h : (2 : ℝ) ^ i < 2 ^ j) : i < j := (zpow_lt_zpow_iff_right₀ one_lt_two).mp h

theorem zpow_mono {i j : ℤ} (h : i ≤ j) : (2 : ℝ) ^ i ≤ 2 ^ j := zpow_le_zpow_right₀ one_le_two h

/-- A number of units reaches a power of two when its logarithm does. -/
theorem lt_log2_iff (h : n ≠ 0) : e < n.log2 + q ↔ (2 : ℝ) ^ (e + 1) ≤ n * 2 ^ q := by
  constructor
  · intro lt
    exact (zpow_mono (by omega)).trans (two_zpow_log2_le h q)
  · intro le
    have := lt_of_zpow_lt (le.trans_lt (lt_two_zpow_log2 n q))
    omega

/-- Only one exponent fits a magnitude. -/
theorem exponent_unique {e' : ℤ} (h : (2 : ℝ) ^ e ≤ a) (h' : a < 2 ^ (e + 1)) (g : (2 : ℝ) ^ e' ≤ a) (g' : a < 2 ^ (e' + 1)) :
    e = e' := by
  have := lt_of_zpow_lt (h.trans_lt g')
  have := lt_of_zpow_lt (g.trans_lt h')
  omega

/-- A value has the exponent of the magnitude that it stands for. -/
theorem Exact.StandsFor.exponent {v : Exact} (h : v.StandsFor a) (pos : 0 < a) :
    (2 : ℝ) ^ v.exponent ≤ a ∧ a < 2 ^ (v.exponent + 1) := by
  have unit := two_zpow_pos v.exp
  have split (k : ℕ) : (2 : ℝ) ^ ((k : ℤ) + v.exp) = (2 ^ k : ℕ) * 2 ^ v.exp := by
    rw [zpow_add₀ two_ne_zero, zpow_natCast, Nat.cast_pow, Nat.cast_ofNat]
  have next : v.exponent + 1 = ((v.mant.log2 + 1 : ℕ) : ℤ) + v.exp := by rw [Exact.exponent]; push_cast; ring
  rw [next, split, Exact.exponent, split, ← le_div_iff₀ unit, ← div_lt_iff₀ unit]
  obtain e | ⟨big, odd, lo, hi⟩ := h.scaled
  · have nonzero : v.mant ≠ 0 := by
      rintro zero
      rw [zero, Nat.cast_zero, div_eq_zero_iff] at e
      obtain e | e := e
      · exact pos.ne' e
      · exact unit.ne' e
    rw [e]
    exact ⟨Nat.cast_le.mpr (Nat.log2_self_le nonzero), Nat.cast_lt.mpr Nat.lt_log2_self⟩
  · have nonzero : v.mant ≠ 0 := by omega
    have low := Nat.log2_self_le nonzero
    have high : v.mant < 2 ^ (v.mant.log2 + 1) := Nat.lt_log2_self
    have some : v.mant.log2 ≠ 0 := by
      intro zero
      rw [zero] at high
      omega
    obtain ⟨k, hk⟩ := Nat.exists_eq_succ_of_ne_zero some
    rw [hk] at low high ⊢
    have even : 2 ^ (k + 1) = 2 * 2 ^ k := Nat.pow_succ'
    have even' : 2 ^ (k + 1 + 1) = 2 * 2 ^ (k + 1) := Nat.pow_succ'
    have low' : ((2 ^ (k + 1) : ℕ) : ℝ) + 1 ≤ v.mant := by exact_mod_cast (show 2 ^ (k + 1) + 1 ≤ v.mant by omega)
    have high' : (v.mant : ℝ) + 1 ≤ ((2 ^ (k + 1 + 1) : ℕ) : ℝ) := by
      exact_mod_cast (show v.mant + 1 ≤ 2 ^ (k + 1 + 1) by omega)
    exact ⟨by linarith, by linarith⟩

/-- Many bits of a jammed value lie below the last bit of a format. -/
theorem Exact.StandsFor.fine {v : Exact} (h : v.StandsFor a) (hq : v.exponent - 52 ≤ q) :
    a = v.mant * 2 ^ v.exp ∨ v.exp + 2 ≤ q := by
  refine h.imp_right fun ⟨big, _, _⟩ => ?_
  have log : 60 ≤ v.mant.log2 := (Nat.le_log2 (by omega)).mpr big
  rw [Exact.exponent] at hq
  omega

end

/-! ## The double that holds a magnitude -/

section
variable {n : ℕ} {q : ℤ} {neg : Bool}

theorem numberOf_fields (d : Dword) : numberOf d = signFactor d.msb *
    (if expField d = 0 then (fracField d : ℚ) * 2 ^ (-1074 : ℤ)
     else ((2 ^ 52 + fracField d : ℕ) : ℚ) * 2 ^ ((expField d : ℤ) - 1075)) := by
  have exponent : slice 11 d 1 = 0 ↔ expField d = 0 := by rw [← BitVec.toNat_inj]; exact Iff.rfl
  rw [numberOf]
  by_cases h : expField d = 0
  · rw [if_pos (exponent.mpr h), if_pos h]; rfl
  · rw [if_neg (fun e => h (exponent.mp e)), if_neg h]; rfl

/-- A double of a given magnitude and sign. -/
theorem valueIs_of_fields {d : Dword} {y : ℝ} (number : expField d ≠ 2047) (sign : d.msb = neg)
    (value : ((if expField d = 0 then (fracField d : ℚ) * 2 ^ (-1074 : ℤ)
      else ((2 ^ 52 + fracField d : ℕ) : ℚ) * 2 ^ ((expField d : ℤ) - 1075) : ℚ) : ℝ) = y) : valueIs d neg y := by
  refine ⟨isNumber_iff.mpr number, sign, ?_⟩
  rw [numberOf_fields, sign, Rat.cast_mul, value]
  cases neg <;> simp [signFactor]

theorem packDouble_zero (neg : Bool) (q : ℤ) : valueIs (packDouble neg 0 q) neg 0 := by
  obtain ⟨sign, exp, frac⟩ := makeDouble_fields (neg := neg) (k := 0) (f := 0) (by decide) (by decide)
  rw [packDouble, if_pos rfl]
  refine valueIs_of_fields (by rw [zeroOf, exp]; decide) sign ?_
  rw [zeroOf, exp, frac]
  norm_num

/-- The double of `n` units of `2 ^ q` is that number, if its exponent is one of the format and its units are not finer than the
format's. -/
theorem packDouble_value (nonzero : n ≠ 0) (hn : n ≤ 2 ^ 53) (high : (n.log2 : ℤ) + q ≤ 1023)
    (low : -1074 ≤ q ∨ -1022 ≤ (n.log2 : ℤ) + q) : valueIs (packDouble neg n q) neg (n * 2 ^ q) := by
  have self := Nat.log2_self_le nonzero
  have next : n < 2 ^ (n.log2 + 1) := Nat.lt_log2_self
  rw [packDouble, if_neg nonzero]
  by_cases tiny : (n.log2 : ℤ) + q < -1022
  · obtain ⟨k, hk⟩ : ∃ k : ℕ, q = k - 1074 := ⟨(q + 1074).toNat, by omega⟩
    have units : (q + 1074).toNat = k := by omega
    have bound : n * 2 ^ k < 2 ^ 52 := by
      calc n * 2 ^ k < 2 ^ (n.log2 + 1) * 2 ^ k := Nat.mul_lt_mul_of_pos_right next (Nat.two_pow_pos k)
        _ = 2 ^ (n.log2 + 1 + k) := (Nat.pow_add ..).symm
        _ ≤ 2 ^ 52 := Nat.pow_le_pow_right two_pos (by omega)
    rw [if_pos tiny, units]
    obtain ⟨sign, exp, frac⟩ := makeDouble_fields (neg := neg) (k := 0) (by decide) bound
    refine valueIs_of_fields (by rw [exp]; decide) sign ?_
    rw [exp, frac, if_pos rfl, hk, sub_eq_add_neg, zpow_add₀ two_ne_zero, zpow_natCast]
    rw [Rat.cast_mul, Rat.cast_natCast, Rat.cast_zpow, Rat.cast_ofNat, Nat.cast_mul, Nat.cast_pow, Nat.cast_ofNat, mul_assoc]
  · rw [if_neg tiny]
    obtain ⟨k, hk⟩ : ∃ k : ℕ, (n.log2 : ℤ) + q + 1023 = k := ⟨((n.log2 : ℤ) + q + 1023).toNat, by omega⟩
    have field : ((n.log2 : ℤ) + q + 1023).toNat = k := by omega
    have log : n.log2 ≤ 53 := by
      by_contra gt
      have : 2 ^ 54 ≤ 2 ^ n.log2 := Nat.pow_le_pow_right two_pos (by omega)
      omega
    -- the fraction, and the significand that it makes with the leading 1
    have fraction : (n - 2 ^ n.log2) * 2 ^ (52 - n.log2) < 2 ^ 52 ∧
        ((2 ^ 52 + (n - 2 ^ n.log2) * 2 ^ (52 - n.log2) : ℕ) : ℝ) * 2 ^ ((n.log2 : ℤ) - 52) = n := by
      by_cases full : n.log2 = 53
      · have whole : n = 2 ^ 53 := by rw [full] at self; omega
        rw [full, whole]
        norm_num
      · have split : 2 ^ n.log2 * 2 ^ (52 - n.log2) = 2 ^ 52 := by rw [← Nat.pow_add]; congr 1; omega
        have scaled : 2 ^ 52 + (n - 2 ^ n.log2) * 2 ^ (52 - n.log2) = n * 2 ^ (52 - n.log2) := by
          rw [Nat.sub_mul, split, Nat.add_sub_cancel']
          exact split ▸ Nat.mul_le_mul_right _ self
        have twice : n * 2 ^ (52 - n.log2) < 2 * 2 ^ 52 := by
          calc n * 2 ^ (52 - n.log2) < 2 ^ (n.log2 + 1) * 2 ^ (52 - n.log2) :=
                Nat.mul_lt_mul_of_pos_right next (Nat.two_pow_pos _)
            _ = 2 * 2 ^ 52 := by rw [Nat.pow_succ', Nat.mul_assoc, split]
        refine ⟨by omega, ?_⟩
        rw [scaled, Nat.cast_mul, Nat.cast_pow, Nat.cast_ofNat, ← zpow_natCast, mul_assoc, ← zpow_add₀ two_ne_zero,
          show ((52 - n.log2 : ℕ) : ℤ) + (n.log2 - 52) = 0 by omega, zpow_zero, mul_one]
    obtain ⟨bound, significand⟩ := fraction
    rw [field]
    obtain ⟨sign, exp, frac⟩ := makeDouble_fields (neg := neg) (k := k) (by omega) bound
    refine valueIs_of_fields (by rw [exp]; omega) sign ?_
    rw [exp, frac, if_neg (by omega)]
    have exponent : (k : ℤ) - 1075 = (n.log2 - 52) + q := by omega
    rw [exponent, zpow_add₀ two_ne_zero, Rat.cast_mul, Rat.cast_mul, Rat.cast_natCast, ← mul_assoc, Rat.cast_zpow,
      Rat.cast_zpow, Rat.cast_ofNat, significand]

end

/-! ## Rounding to a format -/

/-- The format of a precision, as the statements name it. -/
def Precision.format (p : Precision) : Format :=
  match p with
  | .double => doubleFormat
  | .single => singleFormat

theorem Precision.format_eq (p : Precision) : p.format = ⟨p.bits, p.minExp, p.maxExp, p.adjust⟩ := by
  cases p <;> rfl

/-- What the numbers of the formats have to do with each other and with the double format. -/
theorem Precision.bounds (p : Precision) : 1 ≤ p.bits ∧ p.bits ≤ 53 ∧ -1074 ≤ p.minExp - (p.bits - 1) ∧ -1022 ≤ p.minExp ∧
    p.minExp + p.adjust ≤ p.maxExp ∧ p.maxExp ≤ 1023 ∧ -1022 ≤ p.maxExp - p.adjust := by
  cases p <;> decide

/-- The double of a rounded magnitude is `y`, with FR, FI, OX and UX; `a` is the magnitude before the rounding. -/
structure Rounded.Reports (r : Rounded) (neg : Bool) (a y : ℝ) (ox ux : Bool) : Prop where
  within : r.outside = false
  value : valueIs r.value neg y
  fr : r.fr = true ↔ a < y
  fi : r.fi = true ↔ y ≠ a
  ox : r.ox = ox
  ux : r.ux = ux

section
variable {p : Precision} {mode : RoundMode} {oe ue : Bool} {v : Exact} {a : ℝ} {e : ℤ} {n : ℕ}

/-- A magnitude of `bits` significant bits rounds to a number of units of as many. -/
theorem roundsTo_bits (bits : ℕ) (h : (2 : ℝ) ^ e ≤ a) (h' : a < 2 ^ (e + 1))
    (rounds : roundsTo mode v.neg (a / 2 ^ (e - bits)) n) : 2 ^ bits ≤ n ∧ n ≤ 2 ^ (bits + 1) := by
  have pos := two_zpow_pos (e - bits)
  refine ⟨le_roundsTo rounds ?_, roundsTo_le rounds ?_⟩
  · rw [le_div_iff₀ pos, Nat.cast_pow, Nat.cast_ofNat, ← zpow_natCast, ← zpow_add₀ two_ne_zero, add_sub_cancel]
    exact h
  · rw [div_le_iff₀ pos, Nat.cast_pow, Nat.cast_ofNat, ← zpow_natCast, ← zpow_add₀ two_ne_zero]
    refine h'.le.trans (le_of_eq ?_)
    congr 1
    push_cast
    ring

/-- The model rounds to the same number of units, and reports what the rounding did. -/
theorem Exact.StandsFor.quantize_eq (hv : v.StandsFor a) {q : ℤ} (fine : v.exponent - 52 ≤ q)
    (rounds : roundsTo mode v.neg (a / 2 ^ q) n) : (Machine.quantize mode v q).n = n ∧
      ((Machine.quantize mode v q).inexact = true ↔ (n : ℝ) * 2 ^ q ≠ a) ∧ ((Machine.quantize mode v q).up = true ↔ a < n * 2 ^ q) := by
  obtain ⟨rounds', inexact, up⟩ := hv.quantize mode (hv.fine fine)
  have same := roundsTo_unique rounds' rounds
  rw [same] at inexact up
  exact ⟨same, inexact, up⟩

theorem Exact.StandsFor.exponent_eq (hv : v.StandsFor a) (h : (2 : ℝ) ^ e ≤ a) (h' : a < 2 ^ (e + 1)) : v.exponent = e := by
  obtain ⟨low, high⟩ := hv.exponent ((two_zpow_pos e).trans_le h)
  exact exponent_unique low high h h'

theorem log2_le_of_le {k : ℕ} (h : n ≤ 2 ^ k) : n.log2 ≤ k := by
  by_cases zero : n = 0
  · rw [zero]; exact Nat.zero_le k
  · exact (Nat.pow_le_pow_iff_right one_lt_two).mp ((Nat.log2_self_le zero).trans h)

/-- The number of units of a magnitude in its own exponent: it has at most one bit more than the format. -/
theorem roundsTo_significand (h : (2 : ℝ) ^ e ≤ a) (h' : a < 2 ^ (e + 1))
    (rounds : roundsTo mode v.neg (a / 2 ^ (e - (p.bits - 1))) n) : n ≠ 0 ∧ n.log2 ≤ p.bits ∧ n ≤ 2 ^ 53 := by
  obtain ⟨one, bits, -⟩ := p.bounds
  have width : (p.bits : ℤ) - 1 = (p.bits - 1 : ℕ) := by omega
  rw [width] at rounds
  obtain ⟨low, high⟩ := roundsTo_bits _ h h' rounds
  rw [Nat.sub_add_cancel one] at high
  exact ⟨(Nat.two_pow_pos _ |>.trans_le low).ne', log2_le_of_le high, high.trans (Nat.pow_le_pow_right two_pos bits)⟩

/-- A magnitude in the range of the format. -/
theorem roundTo_inRange (hv : v.StandsFor a) (h : (2 : ℝ) ^ e ≤ a) (h' : a < 2 ^ (e + 1)) (range : p.minExp ≤ e)
    (rounds : roundsTo mode v.neg (a / 2 ^ (e - (p.bits - 1))) n)
    (fits : (n : ℝ) * 2 ^ (e - (p.bits - 1)) < 2 ^ (p.maxExp + 1)) :
    (roundTo p mode oe ue v).Reports v.neg a (n * 2 ^ (e - (p.bits - 1))) false false := by
  obtain ⟨one, bits, unit, -, -, max, -⟩ := p.bounds
  obtain rfl := hv.exponent_eq h h'
  obtain ⟨nonzero, -, small⟩ := roundsTo_significand h h' rounds
  obtain ⟨same, inexact, up⟩ := hv.quantize_eq (by omega) rounds
  have within : ¬ p.maxExp < (n.log2 : ℤ) + (v.exponent - (p.bits - 1)) := fun above =>
    absurd ((lt_log2_iff nonzero).mp above) (not_le.mpr fits)
  rw [roundTo, if_neg (by omega)]
  simp only [same, if_neg within]
  exact ⟨rfl, packDouble_value nonzero small (by omega) (.inl (by omega)), up, inexact, rfl, rfl⟩

/-- A magnitude above it. -/
theorem roundTo_overflow (hv : v.StandsFor a) (h : (2 : ℝ) ^ e ≤ a) (h' : a < 2 ^ (e + 1)) (range : p.minExp ≤ e)
    (rounds : roundsTo mode v.neg (a / 2 ^ (e - (p.bits - 1))) n)
    (above : (2 : ℝ) ^ (p.maxExp + 1) ≤ n * 2 ^ (e - (p.bits - 1))) :
    let r := roundTo p mode oe ue v
    r.fi = true ∧ r.ox = true ∧ r.ux = false ∧
      (oe = false → r.outside = false ∧ r.value = if toInfinity mode v.neg then infinity v.neg else p.largest v.neg) ∧
      (oe = true → (n : ℝ) * 2 ^ (e - (p.bits - 1)) * 2 ^ (-p.adjust) < 2 ^ (p.maxExp + 1) → r.outside = false ∧
        valueIs r.value v.neg (n * 2 ^ (e - (p.bits - 1)) * 2 ^ (-p.adjust))) := by
  obtain ⟨one, bits, -, -, -, max, scaled⟩ := p.bounds
  obtain rfl := hv.exponent_eq h h'
  obtain ⟨nonzero, -, small⟩ := roundsTo_significand h h' rounds
  obtain ⟨same, -, -⟩ := hv.quantize_eq (by omega) rounds
  have exceeds := (lt_log2_iff nonzero).mpr above
  rw [roundTo, if_neg (by omega)]
  simp only [same, if_pos exceeds, roundOverflow]
  cases oe with
  | false =>
    rw [if_neg Bool.false_ne_true]
    have up : overflowsUp mode v.neg = toInfinity mode v.neg := by cases mode <;> rfl
    rw [up]
    cases toInfinity mode v.neg with
    | true => exact ⟨rfl, rfl, rfl, fun _ => ⟨rfl, rfl⟩, nofun⟩
    | false => exact ⟨rfl, rfl, rfl, fun _ => ⟨rfl, rfl⟩, nofun⟩
  | true =>
    rw [if_pos rfl]
    refine ⟨rfl, rfl, rfl, nofun, fun _ fits => ?_⟩
    rw [mul_assoc, ← zpow_add₀ two_ne_zero, ← sub_eq_add_neg] at fits ⊢
    have within : ¬ p.maxExp < (n.log2 : ℤ) + (v.exponent - (p.bits - 1) - p.adjust) := fun above =>
      absurd ((lt_log2_iff nonzero).mp above) (not_le.mpr fits)
    exact ⟨decide_eq_false (by omega), packDouble_value nonzero small (by omega) (.inr (by omega))⟩

/-- A magnitude below the normalized range, with underflow not enabled. -/
theorem roundTo_tiny (off : ue = false) (hv : v.StandsFor a) (h : (2 : ℝ) ^ e ≤ a) (h' : a < 2 ^ (e + 1)) (range : e < p.minExp)
    (rounds : roundsTo mode v.neg (a / 2 ^ (p.minExp - (p.bits - 1))) n) :
    ∃ ux, (ux = true ↔ (n : ℝ) * 2 ^ (p.minExp - (p.bits - 1)) ≠ a) ∧
      (roundTo p mode oe ue v).Reports v.neg a (n * 2 ^ (p.minExp - (p.bits - 1))) false ux := by
  obtain ⟨one, bits, unit, -, adjusted, max, -⟩ := p.bounds
  obtain rfl := hv.exponent_eq h h'
  obtain ⟨same, inexact, up⟩ := hv.quantize_eq (by omega) rounds
  have small : n ≤ 2 ^ (p.bits - 1) := by
    refine roundsTo_le rounds ?_
    rw [div_le_iff₀ (two_zpow_pos _), Nat.cast_pow, Nat.cast_ofNat, ← zpow_natCast, ← zpow_add₀ two_ne_zero]
    exact h'.le.trans (zpow_mono (by omega))
  have log := log2_le_of_le small
  rw [off, roundTo, if_pos range, roundTiny, if_neg Bool.false_ne_true]
  refine ⟨_, inexact, ?_⟩
  simp only [same]
  refine ⟨rfl, ?_, up, inexact, rfl, rfl⟩
  by_cases zero : n = 0
  · rw [zero, Nat.cast_zero, zero_mul]
    exact packDouble_zero _ (p.minExp - (p.bits - 1))
  · have adjust : 0 ≤ p.adjust := by cases p <;> decide
    exact packDouble_value zero (small.trans (Nat.pow_le_pow_right two_pos (by omega))) (by omega) (.inl unit)

/-- The same with underflow enabled: the result is scaled. -/
theorem roundTo_tiny_scaled (on : ue = true) (hv : v.StandsFor a) (h : (2 : ℝ) ^ e ≤ a) (h' : a < 2 ^ (e + 1)) (range : e < p.minExp)
    (rounds : roundsTo mode v.neg (a / 2 ^ (e - (p.bits - 1))) n)
    (normal : (2 : ℝ) ^ p.minExp ≤ n * 2 ^ (e - (p.bits - 1)) * 2 ^ p.adjust) :
    (roundTo p mode oe ue v).Reports v.neg (a * 2 ^ p.adjust) (n * 2 ^ (e - (p.bits - 1)) * 2 ^ p.adjust) false true := by
  obtain ⟨one, bits, -, least, adjusted, max, -⟩ := p.bounds
  obtain rfl := hv.exponent_eq h h'
  obtain ⟨nonzero, log, small⟩ := roundsTo_significand h h' rounds
  obtain ⟨same, inexact, up⟩ := hv.quantize_eq (by omega) rounds
  have pos := two_zpow_pos p.adjust
  have scaled : (n : ℝ) * 2 ^ (v.exponent - (p.bits - 1)) * 2 ^ p.adjust =
      n * 2 ^ (v.exponent - (p.bits - 1) + p.adjust) := by rw [mul_assoc, ← zpow_add₀ two_ne_zero]
  have reaches : p.minExp - 1 < (n.log2 : ℤ) + (v.exponent - (p.bits - 1) + p.adjust) := by
    rw [lt_log2_iff nonzero, sub_add_cancel, ← scaled]
    exact normal
  rw [on, roundTo, if_pos range, roundTiny, if_pos rfl]
  simp only [same]
  refine ⟨decide_eq_false (by omega), ?_, ?_, ?_, rfl, rfl⟩
  · rw [scaled]
    exact packDouble_value nonzero small (by omega) (.inr (by omega))
  · rw [mul_lt_mul_iff_left₀ pos]
    exact up
  · rw [ne_eq, mul_left_inj' pos.ne']
    exact inexact

end

end Sys2Proof.Machine
end

section
/-!
PROOFS. Correctly rounded and exact results (43_float_arithmetic R313 to R323, R327 to R334) under the reference arithmetic: the exact
result of each operation stands for the real result, and is rounded as R313 says.
-/

namespace Sys2Proof.Machine

/-! ## The output of a rounded value -/

section
variable {s t : State} {d : BitVec 5} {rc negate neg oe ue ux : Bool} {affected : Word} {u w : Dword} {r : Rounded} {a y x : ℝ}
  {p : Precision} {mode : RoundMode} {v : Exact} {q : Result}

theorem valueIs_negateIf (negate : Bool) (h : valueIs w neg y) : valueIs (negateIf negate w) (neg != negate) y := by
  cases negate with
  | false => rw [Bool.bne_false]; exact h
  | true =>
    obtain ⟨number, sign, value⟩ := h
    obtain ⟨msb, exp, frac⟩ := xor_sign_fields w
    rw [Bool.bne_true]
    have msb' : (w ^^^ 0x8000000000000000).msb = !neg := msb.trans (congrArg (!·) sign)
    refine ⟨?_, msb', ?_⟩
    · rw [isNumber_iff] at number ⊢
      exact exp ▸ number
    · rw [negateIf, if_pos rfl, numberOf_fields, msb', exp, frac]
      rw [numberOf_fields, sign] at value
      cases neg <;> simp only [signFactor, Bool.not_true, Bool.not_false, Bool.false_eq_true, if_false, if_true] at value ⊢
      · rw [neg_one_mul, Rat.cast_neg, ← one_mul (ite _ _ _), value]
      · rw [one_mul, ← neg_neg y, ← value, neg_one_mul, Rat.cast_neg, neg_neg]

theorem bitIf_false (b : Word) : bitIf false b = 0#32 := rfl

/-- The bits of OX, UX and XX that a rounding raises. -/
theorem rounded_raised (u : Dword) (negate : Bool) (r : Rounded) : (FpOut.rounded u negate r).raised =
    bitIf r.ox (bitAt 3) ||| bitIf r.ux (bitAt 4) ||| bitIf r.fi (bitAt 6) := rfl

theorem rounded_listed (u : Dword) (negate : Bool) (r : Rounded) :
    (FpOut.rounded u negate r).raised &&& (bitAt 3 ||| bitAt 4 ||| bitAt 6) = (FpOut.rounded u negate r).raised := by
  rw [rounded_raised]
  exact within_or (within_or (within_bitIf _ (by decide)) (within_bitIf _ (by decide))) (within_bitIf _ (by decide))

/-- A page that lists OX, UX and XX lists what a rounding raises. -/
theorem rounded_affected (h : (bitAt 3 ||| bitAt 4 ||| bitAt 6) &&& affected = bitAt 3 ||| bitAt 4 ||| bitAt 6) :
    (FpOut.rounded u negate r).raised &&& affected = (FpOut.rounded u negate r).raised :=
  within_trans (rounded_listed u negate r) h

/-- A rounded value stands in the state `t`. -/
def RoundedStands (s t : State) (d : BitVec 5) (rc negate : Bool) (u : Dword) (r : Rounded) : Prop :=
  OutputStands s t d rc (FpOut.rounded u negate r)

theorem RoundedStands.getFpr (h : RoundedStands s t d rc negate u r) (within : r.outside = false) :
    t.getFpr d = negateIf negate r.value := by
  rw [OutputStands.value h, FpOut.rounded, within]
  rfl

theorem RoundedStands.raises (h : RoundedStands s t d rc negate u r) :
    raisesBits s t (bitIf r.ox (bitAt 3) ||| bitIf r.ux (bitAt 4) ||| bitIf r.fi (bitAt 6)) :=
  OutputStands.raises h (within_trans (rounded_listed u negate r) (by decide))

theorem RoundedStands.inexactly (h : RoundedStands s t d rc negate u r) (rep : r.Reports neg a y false ux) :
    inexactly s t d (neg != negate) a y (bitIf ux (bitAt 4)) := by
  have raises := h.raises
  obtain ⟨within, value, fr, fi, ox, rfl⟩ := rep
  rw [ox, bitIf_false, BitVec.zero_or] at raises
  refine ⟨?_, ?_, ?_, fun exact => ?_, fun inexact => ?_⟩
  · rw [h.getFpr within]
    exact valueIs_negateIf negate value
  · rw [OutputStands.fr h]
    exact fr
  · rw [OutputStands.fi h]
    exact fi
  · have off : r.fi = false := Bool.eq_false_iff.mpr fun on => fi.mp on exact
    rw [off, bitIf_false, BitVec.or_zero] at raises
    exact raises
  · rw [fi.mpr inexact] at raises
    exact raises

theorem overflow_value (p : Precision) (up neg negate : Bool) : negateIf negate (if up then infinity neg else p.largest neg) =
    if up then (if neg != negate then 0xFFF0000000000000 else 0x7FF0000000000000) else p.format.greatest (neg != negate) := by
  cases up <;> cases neg <;> cases negate <;> cases p <;> decide

/-- An instruction whose exact result stands for `x` rounds it. -/
theorem roundedEffect_of_ends
    (ends : EndsWith s d rc
      ((FpOut.rounded u negate (roundTo p (roundMode s.fpscr) (fpscrOe s.fpscr) (fpscrUe s.fpscr) v)).within affected) q)
    (listed : (FpOut.rounded u negate (roundTo p (roundMode s.fpscr) (fpscrOe s.fpscr) (fpscrUe s.fpscr) v)).raised &&& affected =
      (FpOut.rounded u negate (roundTo p (roundMode s.fpscr) (fpscrOe s.fpscr) (fpscrUe s.fpscr) v)).raised)
    (fe : s.fe = false) (hv : v.StandsFor |x|) (sign : v.neg = decide (x < 0)) :
    roundedEffect p.format s d rc negate x q := by
  have whole : (FpOut.rounded u negate (roundTo p (roundMode s.fpscr) (fpscrOe s.fpscr) (fpscrUe s.fpscr) v)).within affected =
      FpOut.rounded u negate (roundTo p (roundMode s.fpscr) (fpscrOe s.fpscr) (fpscrUe s.fpscr) v) := by
    rw [FpOut.within, listed]
  rw [whole] at ends
  intro nonzero mode neg sign'
  change v.neg = neg at sign
  clear_value neg
  obtain ⟨t, next, frame, stands⟩ := ends.completes (.inr fe)
  have rounded : RoundedStands s t d rc negate u _ := stands
  refine ⟨t, next, frame, stands.kept, stands.cr1, stands.effect (rounded_listed ..) (by decide), ?_, fun e h h' => ⟨?_, ?_, ?_⟩⟩
  · rw [stands.fprf (within_trans (rounded_listed ..) (by decide)), stands.value]
    rfl
  all_goals rw [p.format_eq]
  · intro range n rounds y
    rw [← sign] at rounds
    refine ⟨fun fits => ?_, fun above => ?_⟩
    · have rep := roundTo_inRange (oe := fpscrOe s.fpscr) (ue := fpscrUe s.fpscr) hv h h' range rounds fits
      rw [sign] at rep
      exact rounded.inexactly rep
    · obtain ⟨fi, ox, ux, infinite, scaled⟩ := roundTo_overflow (oe := fpscrOe s.fpscr) (ue := fpscrUe s.fpscr) hv h h' range
        rounds above
      have raises := rounded.raises
      rw [fi, ox, ux] at raises
      refine ⟨(OutputStands.fi rounded).trans fi, raises, fun oe => ?_, fun oe fits => ?_⟩
      · obtain ⟨within, value⟩ := infinite oe
        rw [rounded.getFpr within, value, overflow_value, sign]
        rw [p.format_eq]
      · obtain ⟨within, value⟩ := scaled oe fits
        rw [rounded.getFpr within]
        rw [sign] at value
        exact valueIs_negateIf negate value
  · intro range ue n rounds y
    rw [← sign] at rounds
    obtain ⟨ux, inexact, rep⟩ := roundTo_tiny (oe := fpscrOe s.fpscr) ue hv h h' range rounds
    rw [sign] at rep
    have bits : bitIf ux (bitAt 4) = if y = |x| then 0 else bitAt 4 := by
      by_cases exact : y = |x|
      · rw [if_pos exact, Bool.eq_false_iff.mpr fun on => inexact.mp on exact]; rfl
      · rw [if_neg exact, inexact.mpr exact]; rfl
    rw [← bits]
    exact rounded.inexactly rep
  · intro range ue n rounds y normal
    rw [← sign] at rounds
    have rep := roundTo_tiny_scaled (oe := fpscrOe s.fpscr) ue hv h h' range rounds normal
    rw [sign] at rep
    exact rounded.inexactly rep

end

end Sys2Proof.Machine
end

section
/-!
PROOFS. The exact results of the operations on numbers (43_float_arithmetic R313): sums and products are values of the model; quotients
and roots are truncated and jammed, and stand for the real ones.
-/

namespace Sys2Proof.Machine

/-! ## Truncated and jammed magnitudes -/

section
variable {neg cut : Bool} {m : ℕ} {e : ℤ} {a b : ℝ}

/-- A truncated magnitude with a jammed bit stands for the magnitude before the cut. -/
theorem jam_standsFor (big : 2 ^ 59 ≤ m) (exact : cut = false → a = m * 2 ^ e)
    (between : cut = true → (m : ℝ) * 2 ^ e < a ∧ a < (m + 1) * 2 ^ e) : (jam neg m cut e).StandsFor a := by
  have half : (2 : ℝ) ^ e = 2 * 2 ^ (e - 1) := by rw [← zpow_one_add₀ two_ne_zero, add_sub_cancel]
  cases cut with
  | false =>
    refine .inl ((exact rfl).trans ?_)
    rw [half, jam, Bool.toNat_false, Nat.add_zero]
    push_cast
    ring
  | true =>
    obtain ⟨lo, hi⟩ := between rfl
    rw [half] at lo hi
    refine .inr ⟨?_, ?_, ?_⟩
    · change 2 ^ 60 ≤ 2 * m + 1
      omega
    · change (2 * m + 1) % 2 = 1
      omega
    · rw [jam, Bool.toNat_true, abs_lt]
      push_cast
      exact ⟨by linarith, by linarith⟩

/-- The magnitude of a value. -/
noncomputable def Exact.magnitude (v : Exact) : ℝ := v.mant * 2 ^ v.exp

theorem Exact.abs_toRat (v : Exact) : |((v.toRat : ℚ) : ℝ)| = v.magnitude := by
  have nonneg : (0 : ℝ) ≤ v.mant * 2 ^ v.exp := by positivity
  rw [Exact.toRat_eq, Exact.magnitude]
  push_cast
  rw [mul_assoc, abs_mul, abs_of_nonneg nonneg]
  cases v.neg <;> simp [signFactor]

theorem Exact.magnitude_pos {v : Exact} (h : v.mant ≠ 0) : 0 < v.magnitude :=
  mul_pos (Nat.cast_pos.mpr (Nat.pos_of_ne_zero h)) (two_zpow_pos _)

/-- A quotient. -/
theorem Exact.div_standsFor {v w : Exact} (hv : v.mant ≠ 0) (hw : w.mant ≠ 0) (small : w.mant < 2 ^ 53) :
    (v.div w).StandsFor (v.magnitude / w.magnitude) := by
  have pos : 0 < w.mant := Nat.pos_of_ne_zero hw
  have pos' : (0 : ℝ) < w.mant := Nat.cast_pos.mpr pos
  have big : 2 ^ 59 ≤ v.mant * 2 ^ 128 / w.mant := by
    rw [Nat.le_div_iff_mul_le pos]
    have one := Nat.pos_of_ne_zero hv
    nlinarith
  have parts : ((v.mant * 2 ^ 128 : ℕ) : ℝ) = (v.mant * 2 ^ 128 / w.mant : ℕ) * w.mant + (v.mant * 2 ^ 128 % w.mant : ℕ) := by
    exact_mod_cast (Nat.div_add_mod' _ _).symm
  have rest : ((v.mant * 2 ^ 128 % w.mant : ℕ) : ℝ) < w.mant := Nat.cast_lt.mpr (Nat.mod_lt _ pos)
  have value : v.magnitude / w.magnitude = ((v.mant * 2 ^ 128 : ℕ) : ℝ) / w.mant * 2 ^ (v.exp - w.exp - 128) := by
    have units := (two_zpow_pos w.exp).ne'
    have mant := pos'.ne'
    have guard : (2 : ℝ) ^ (128 : ℤ) = (2 ^ 128 : ℕ) := by norm_num
    have nonzero : ((2 ^ 128 : ℕ) : ℝ) ≠ 0 := by norm_num
    rw [Exact.magnitude, Exact.magnitude, zpow_sub₀ two_ne_zero, zpow_sub₀ two_ne_zero, guard, Nat.cast_mul]
    generalize ((2 ^ 128 : ℕ) : ℝ) = g at *
    field_simp
  rw [value, Exact.div]
  generalize v.mant * 2 ^ 128 / w.mant = m at *
  generalize v.mant * 2 ^ 128 % w.mant = rem at *
  have unit := two_zpow_pos (v.exp - w.exp - 128)
  refine jam_standsFor big (fun exact => ?_) (fun cut => ?_)
  · have zero : rem = 0 := by simpa using exact
    rw [parts, zero, Nat.cast_zero, add_zero, mul_div_assoc, div_self pos'.ne', mul_one]
  · have one : (1 : ℝ) ≤ rem := by
      have : rem ≠ 0 := by simpa using cut
      exact_mod_cast Nat.pos_of_ne_zero this
    rw [mul_lt_mul_iff_left₀ unit, mul_lt_mul_iff_left₀ unit, lt_div_iff₀ pos', div_lt_iff₀ pos', parts]
    exact ⟨by linarith, by linarith⟩

/-- The bits found so far are those of the root, and the rest of it is below the next bit. -/
theorem sqrtBits_spec (n k r : ℕ) (low : r * r ≤ n) (high : n < (r + 2 ^ k) * (r + 2 ^ k)) :
    sqrtBits n k r * sqrtBits n k r ≤ n ∧ n < (sqrtBits n k r + 1) * (sqrtBits n k r + 1) := by
  induction k generalizing r with
  | zero => exact ⟨low, by rwa [Nat.pow_zero] at high⟩
  | succ k ih =>
    rw [sqrtBits]
    split
    · next set => exact ih _ set (by rwa [Nat.add_assoc, ← Nat.two_mul, ← Nat.pow_succ'])
    · next clear => exact ih _ low (not_le.mp clear)

theorem sqrtFloor_spec {n : ℕ} (h : n < 2 ^ 208) : sqrtFloor n * sqrtFloor n ≤ n ∧ n < (sqrtFloor n + 1) * (sqrtFloor n + 1) :=
  sqrtBits_spec n 104 0 (Nat.zero_le n) (by rw [Nat.zero_add, ← Nat.pow_add]; exact h)

/-- A truncated root. -/
theorem jam_root {r : ℕ} (big : 2 ^ 59 ≤ r) (low : ((r * r : ℕ) : ℝ) ≤ b) (high : b < ((r + 1) * (r + 1) : ℕ))
    (hcut : cut = true ↔ b ≠ (r * r : ℕ)) : (jam false r cut e).StandsFor (Real.sqrt b * 2 ^ e) := by
  have unit := two_zpow_pos e
  push_cast at low high hcut
  have nonneg : (0 : ℝ) ≤ b := (by positivity : (0 : ℝ) ≤ r * r).trans low
  refine jam_standsFor big (fun exact => ?_) (fun cut => ?_)
  · have square : b = r * r := by
      by_contra ne
      rw [hcut.mpr ne] at exact
      cases exact
    rw [square, Real.sqrt_mul_self (Nat.cast_nonneg r)]
  · have above : (r : ℝ) * r < b := lt_of_le_of_ne low (hcut.mp cut).symm
    rw [mul_lt_mul_iff_left₀ unit, mul_lt_mul_iff_left₀ unit, Real.lt_sqrt (Nat.cast_nonneg r), Real.sqrt_lt' (by positivity)]
    exact ⟨by nlinarith, by nlinarith⟩

/-- A square of a power of two comes out of the root. -/
theorem sqrt_mul_zpow (nonneg : 0 ≤ b) (h : ℤ) : Real.sqrt (b * 2 ^ (2 * h)) = Real.sqrt b * 2 ^ h := by
  rw [Real.sqrt_mul nonneg, mul_comm 2 h, zpow_mul, zpow_ofNat, Real.sqrt_sq (two_zpow_pos h).le]

/-- A square root. -/
theorem Exact.sqrt_standsFor {v : Exact} (hv : v.mant ≠ 0) (small : v.mant < 2 ^ 53) :
    v.sqrt.StandsFor (Real.sqrt v.magnitude) := by
  obtain ⟨k, hk, low, high, half⟩ : ∃ k : ℕ, (if v.exp % 2 = 0 then 128 else 129) = k ∧ 128 ≤ k ∧ k ≤ 129 ∧
      v.exp = 2 * ((v.exp - k) / 2) + k := by
    by_cases even : v.exp % 2 = 0
    · exact ⟨128, if_pos even, le_refl _, by decide, by omega⟩
    · exact ⟨129, if_neg even, by decide, le_refl _, by omega⟩
  have bound : v.mant * 2 ^ k < 2 ^ 208 := by
    calc v.mant * 2 ^ k ≤ v.mant * 2 ^ 129 := Nat.mul_le_mul_left _ (Nat.pow_le_pow_right two_pos high)
      _ < 2 ^ 208 := by omega
  have least : 2 ^ 128 ≤ v.mant * 2 ^ k := by
    calc 2 ^ 128 ≤ 2 ^ k := Nat.pow_le_pow_right two_pos low
      _ ≤ v.mant * 2 ^ k := Nat.le_mul_of_pos_left _ (Nat.pos_of_ne_zero hv)
  obtain ⟨floor, next⟩ := sqrtFloor_spec bound
  have value : v.magnitude = ((v.mant * 2 ^ k : ℕ) : ℝ) * 2 ^ (2 * ((v.exp - k) / 2)) := by
    rw [Exact.magnitude, Nat.cast_mul, Nat.cast_pow, Nat.cast_ofNat, mul_assoc, ← zpow_natCast, ← zpow_add₀ two_ne_zero,
      add_comm, ← half]
  rw [value, sqrt_mul_zpow (Nat.cast_nonneg _), Exact.sqrt]
  simp only [hk]
  refine jam_root ?_ (Nat.cast_le.mpr floor) (Nat.cast_lt.mpr next) ?_
  · by_contra lt
    have : sqrtFloor (v.mant * 2 ^ k) + 1 ≤ 2 ^ 59 := by omega
    have := Nat.mul_le_mul this this
    omega
  · rw [bne_iff_ne, ne_eq, ne_eq, Nat.cast_inj, eq_comm]

/-- A reciprocal square root. -/
theorem Exact.rsqrt_standsFor {v : Exact} (hv : v.mant ≠ 0) (small : v.mant < 2 ^ 53) :
    v.rsqrt.StandsFor (Real.sqrt v.magnitude⁻¹) := by
  have pos : 0 < v.mant := Nat.pos_of_ne_zero hv
  have pos' : (0 : ℝ) < v.mant := Nat.cast_pos.mpr pos
  obtain ⟨k, hk, low, high, half⟩ : ∃ k : ℕ, (if v.exp % 2 = 0 then 200 else 201) = k ∧ 200 ≤ k ∧ k ≤ 201 ∧
      -v.exp = 2 * ((-v.exp - k) / 2) + k := by
    by_cases even : v.exp % 2 = 0
    · exact ⟨200, if_pos even, le_refl _, by decide, by omega⟩
    · exact ⟨201, if_neg even, by decide, le_refl _, by omega⟩
  have power : 2 ^ 200 ≤ 2 ^ k ∧ 2 ^ k ≤ 2 ^ 201 := ⟨Nat.pow_le_pow_right two_pos low, Nat.pow_le_pow_right two_pos high⟩
  have value : v.magnitude⁻¹ = ((2 ^ k : ℕ) : ℝ) / v.mant * 2 ^ (2 * ((-v.exp - k) / 2)) := by
    have unit : (2 : ℝ) ^ (-v.exp) = 2 ^ (2 * ((-v.exp - k) / 2)) * (2 ^ k : ℕ) := by
      rw [Nat.cast_pow, Nat.cast_ofNat, ← zpow_natCast, ← zpow_add₀ two_ne_zero, ← half]
    rw [Exact.magnitude, mul_inv, ← zpow_neg, unit]
    ring
  rw [value, sqrt_mul_zpow (by positivity), Exact.rsqrt]
  simp only [hk]
  generalize 2 ^ k = N at *
  have bound : N / v.mant < 2 ^ 208 := (Nat.div_le_self _ _).trans_lt (by omega)
  have least : 2 ^ 140 ≤ N / v.mant := by
    rw [Nat.le_div_iff_mul_le pos]
    omega
  obtain ⟨floor, next⟩ := sqrtFloor_spec bound
  refine jam_root ?_ ?_ ?_ ?_
  · by_contra lt
    have : sqrtFloor (N / v.mant) + 1 ≤ 2 ^ 59 := by omega
    have := Nat.mul_le_mul this this
    omega
  · rw [le_div_iff₀ pos']
    exact_mod_cast (Nat.le_div_iff_mul_le pos).mp floor
  · rw [div_lt_iff₀ pos']
    exact_mod_cast (Nat.div_lt_iff_lt_mul pos).mp next
  · rw [bne_iff_ne, ne_eq, ne_eq, div_eq_iff pos'.ne', not_iff_not, eq_comm]
    exact_mod_cast Iff.rfl

end

end Sys2Proof.Machine
end

section
/-!
PROOFS. The numbers that a format holds (43_float_arithmetic R311), and the arithmetic instructions on numbers (R313 to R323, R327 to
R334): where the format holds the exact result it is the result, and elsewhere the result is that number rounded.
-/

namespace Sys2Proof.Machine

/-! ## Numbers of a format -/

/-- The significand of a double that is a number. -/
def significand (d : Dword) : ℕ := if expField d = 0 then fracField d else 2 ^ 52 + fracField d

/-- The exponent of its units. -/
def unitExp (d : Dword) : ℤ := if expField d = 0 then -1074 else (expField d : ℤ) - 1075

/-- The format holds the magnitude: `bits` significant bits, and units no finer than those of a denormalized number. -/
def Precision.Holds (p : Precision) (a : ℝ) : Prop :=
  a < 2 ^ (p.maxExp + 1) ∧ ∃ (m : ℕ) (q : ℤ), a = m * 2 ^ q ∧ m < 2 ^ p.bits ∧ p.minExp - (p.bits - 1) ≤ q

section
variable {d w : Dword} {a y : ℝ} {neg : Bool}

theorem numberOf_significand (d : Dword) : numberOf d = signFactor d.msb * (significand d * 2 ^ unitExp d) := by
  rw [numberOf_fields, significand, unitExp]
  split <;> rfl

theorem abs_numberOf (d : Dword) : |((numberOf d : ℚ) : ℝ)| = significand d * 2 ^ unitExp d := by
  have nonneg : (0 : ℝ) ≤ significand d * 2 ^ unitExp d := by positivity
  rw [numberOf_significand]
  push_cast
  rw [abs_mul, abs_of_nonneg nonneg]
  cases d.msb <;> simp [signFactor]

theorem significand_lt (d : Dword) : significand d < 2 ^ 53 := by
  have := fracField_lt d
  unfold significand
  split <;> omega

theorem mul_zpow_lt_of_lt {m k : ℕ} (h : m < 2 ^ k) (q : ℤ) : (m : ℝ) * 2 ^ q < 2 ^ ((k : ℤ) + q) := by
  rw [zpow_add₀ two_ne_zero, zpow_natCast]
  refine mul_lt_mul_of_pos_right ?_ (two_zpow_pos q)
  exact_mod_cast h

theorem zpow_le_mul_of_le {m k : ℕ} (h : 2 ^ k ≤ m) (q : ℤ) : (2 : ℝ) ^ ((k : ℤ) + q) ≤ m * 2 ^ q := by
  rw [zpow_add₀ two_ne_zero, zpow_natCast]
  refine mul_le_mul_of_nonneg_right ?_ (two_zpow_pos q).le
  exact_mod_cast h

/-- A larger exponent field, a larger number. -/
theorem abs_numberOf_lt (h : expField d < expField w) :
    (significand d : ℝ) * 2 ^ unitExp d < significand w * 2 ^ unitExp w := by
  have normal : expField w ≠ 0 := by omega
  have large : 2 ^ 52 ≤ significand w := by rw [significand, if_neg normal]; exact Nat.le_add_right _ _
  obtain ⟨k, bound, exponents⟩ : ∃ k : ℕ, significand d < 2 ^ k ∧ (k : ℤ) + unitExp d ≤ (52 : ℕ) + unitExp w := by
    by_cases tiny : expField d = 0
    · refine ⟨52, ?_, ?_⟩
      · rw [significand, if_pos tiny]
        exact fracField_lt d
      · rw [unitExp, if_pos tiny, unitExp, if_neg normal]
        omega
    · refine ⟨53, significand_lt d, ?_⟩
      rw [unitExp, if_neg tiny, unitExp, if_neg normal]
      omega
  exact (mul_zpow_lt_of_lt bound _).trans_le ((zpow_mono exponents).trans (zpow_le_mul_of_le large _))

theorem abs_numberOf_of_valueIs (h : valueIs d neg y) : |((numberOf d : ℚ) : ℝ)| = |y| := by
  obtain ⟨-, -, value⟩ := h
  rw [value]
  cases neg
  · rfl
  · exact abs_neg y

/-- A double is determined by its sign and magnitude. -/
theorem eq_of_valueIs (hd : valueIs d neg y) (hw : valueIs w neg y) : d = w := by
  have same : (significand d : ℝ) * 2 ^ unitExp d = significand w * 2 ^ unitExp w := by
    rw [← abs_numberOf, ← abs_numberOf, abs_numberOf_of_valueIs hd, abs_numberOf_of_valueIs hw]
  have exp : expField d = expField w := by
    obtain lt | eq | gt := lt_trichotomy (expField d) (expField w)
    · exact absurd same (abs_numberOf_lt lt).ne
    · exact eq
    · exact absurd same (abs_numberOf_lt gt).ne'
  have units : unitExp d = unitExp w := by rw [unitExp, unitExp, exp]
  rw [units, mul_left_inj' (two_zpow_pos _).ne', Nat.cast_inj, significand, significand, exp] at same
  have frac : fracField d = fracField w := by
    split at same
    · exact same
    · omega
  exact eq_of_fields (hd.2.1.trans hw.2.1.symm) exp frac

/-- A number has its own sign and magnitude. -/
theorem valueIs_numberOf (h : isNumber d = true) : valueIs d d.msb |((numberOf d : ℚ) : ℝ)| := by
  refine ⟨h, rfl, ?_⟩
  rw [abs_numberOf, numberOf_significand]
  push_cast
  cases d.msb <;> simp [signFactor]

/-- The sign of a nonzero number is its sign bit. -/
theorem numberOf_neg_iff (h : isNumber d = true) (nonzero : numberOf d ≠ 0) : numberOf d < 0 ↔ d.msb = true := by
  obtain ⟨zero, is⟩ := classify_of_number h nonzero
  rw [numberOf_eq h, is, FpVal.toRat, Exact.toRat_neg_iff (finiteOf_mant_pos zero), finiteOf_neg]

theorem double_holds (h : isNumber d = true) : Precision.double.Holds |((numberOf d : ℚ) : ℝ)| := by
  have exp := expField_lt d
  have number := isNumber_iff.mp h
  have units : -1074 ≤ unitExp d ∧ unitExp d ≤ 971 := by unfold unitExp; split <;> omega
  obtain ⟨low, high⟩ := units
  rw [abs_numberOf]
  refine ⟨(mul_zpow_lt_of_lt (significand_lt d) _).trans_le (zpow_mono ?_), _, _, rfl, significand_lt d, ?_⟩
  · change ((53 : ℕ) : ℤ) + unitExp d ≤ 1023 + 1
    omega
  · change (-1022 : ℤ) - ((53 : ℕ) - 1) ≤ unitExp d
    omega

/-- Trailing zero bits move into the units. -/
theorem mul_zpow_of_mod {m k : ℕ} (h : m % 2 ^ k = 0) (q : ℤ) : (m : ℝ) * 2 ^ q = ((m / 2 ^ k : ℕ) : ℝ) * 2 ^ (q + k) := by
  conv_lhs => rw [← Nat.div_add_mod m (2 ^ k), h]
  rw [zpow_add₀ two_ne_zero, zpow_natCast]
  push_cast
  ring

theorem single_holds (h : isNumber d = true) (single : singleRepresentable d = true) :
    Precision.single.Holds |((numberOf d : ℚ) : ℝ)| := by
  have frac := fracField_lt d
  rw [abs_numberOf]
  rw [singleRepresentable] at single
  by_cases zero : expField d = 0 ∧ fracField d = 0
  · have none : significand d = 0 := by rw [significand, if_pos zero.1, zero.2]
    rw [none, Nat.cast_zero, zero_mul]
    exact ⟨two_zpow_pos _, 0, -149, by simp, by decide, le_refl _⟩
  rw [if_neg (not_or.mpr ⟨isNumber_iff.mp h, fun z => zero ((magnitude_zero_iff d).mp z)⟩)] at single
  have holds {k : ℕ} (normal : expField d ≠ 0) (trailing : significand d % 2 ^ k = 0) (bits : 29 ≤ k)
      (low : 926 ≤ expField d + k) (high : expField d ≤ 1150) : Precision.single.Holds (significand d * 2 ^ unitExp d) := by
    have units : unitExp d = (expField d : ℤ) - 1075 := if_neg normal
    refine ⟨(mul_zpow_lt_of_lt (significand_lt d) _).trans_le (zpow_mono ?_), _, _, mul_zpow_of_mod trailing _, ?_, ?_⟩
    · change ((53 : ℕ) : ℤ) + unitExp d ≤ 127 + 1
      omega
    · change _ < 2 ^ 24
      rw [Nat.div_lt_iff_lt_mul (Nat.two_pow_pos k)]
      calc significand d < 2 ^ 24 * 2 ^ 29 := significand_lt d
        _ ≤ 2 ^ 24 * 2 ^ k := Nat.mul_le_mul_left _ (Nat.pow_le_pow_right two_pos bits)
    · change (-126 : ℤ) - ((24 : ℕ) - 1) ≤ unitExp d + k
      omega
  split at single
  · next normal =>
    rw [Bool.and_eq_true, decide_eq_true_eq, beq_iff_eq] at single
    obtain ⟨high, trailing⟩ := single
    refine holds (k := 29) (by omega) ?_ (le_refl _) (by omega) high
    rw [significand, if_neg (by omega)]
    omega
  · next tiny =>
    rw [Bool.and_eq_true, decide_eq_true_eq, beq_iff_eq] at single
    obtain ⟨low, trailing⟩ := single
    refine holds (k := 926 - expField d) (by omega) ?_ (by omega) (by omega) (by omega)
    rw [significand, if_neg (by omega)]
    exact trailing

/-- The least magnitude that the format holds. -/
theorem Precision.Holds.least {p : Precision} (h : p.Holds a) (pos : 0 < a) : (2 : ℝ) ^ (p.minExp - (p.bits - 1)) ≤ a := by
  obtain ⟨-, m, q, rfl, -, least⟩ := h
  have mant : 1 ≤ m := by
    refine Nat.one_le_iff_ne_zero.mpr ?_
    rintro rfl
    rw [Nat.cast_zero, zero_mul] at pos
    exact lt_irrefl _ pos
  exact (zpow_mono least).trans (le_mul_of_one_le_left (two_zpow_pos q).le (by exact_mod_cast mant))

/-- The units of a magnitude that the format holds are no finer than those that it is rounded to. -/
theorem Precision.Holds.units {p : Precision} {e : ℤ} (h : p.Holds a) (pos : 0 < a) (low : (2 : ℝ) ^ e ≤ a) :
    ∃ n : ℕ, a = n * 2 ^ (max e p.minExp - (p.bits - 1)) := by
  obtain ⟨-, m, q, rfl, small, least⟩ := h
  have reach := lt_of_zpow_lt (low.trans_lt (mul_zpow_lt_of_lt small q))
  obtain ⟨k, hk⟩ : ∃ k : ℕ, q = k + (max e p.minExp - (p.bits - 1)) :=
    ⟨(q - (max e p.minExp - (p.bits - 1))).toNat, by omega⟩
  refine ⟨m * 2 ^ k, ?_⟩
  rw [hk, zpow_add₀ two_ne_zero, zpow_natCast]
  push_cast
  ring

/-- A magnitude that the format holds rounds to itself. -/
theorem roundTo_holds {p : Precision} {mode : RoundMode} {oe ue : Bool} {v : Exact} (off : ue = false) (hv : v.StandsFor a)
    (pos : 0 < a) (h : p.Holds a) : (roundTo p mode oe ue v).Reports v.neg a a false false := by
  obtain ⟨low, high⟩ := hv.exponent pos
  obtain ⟨n, hn⟩ := h.units pos low
  have rounds : roundsTo mode v.neg (a / 2 ^ (max v.exponent p.minExp - (p.bits - 1))) n := by
    conv => arg 3; rw [hn, mul_div_assoc, div_self (two_zpow_pos _).ne', mul_one]
    exact roundsTo_natCast mode v.neg n
  by_cases range : p.minExp ≤ v.exponent
  · rw [max_eq_left range] at rounds hn
    have rep := roundTo_inRange (oe := oe) (ue := ue) hv low high range rounds (hn ▸ h.1)
    rwa [← hn] at rep
  · rw [max_eq_right (by omega)] at rounds hn
    obtain ⟨ux, inexact, rep⟩ := roundTo_tiny (oe := oe) off hv low high (by omega) rounds
    rw [← hn] at rep inexact
    have exact : ux = false := Bool.eq_false_iff.mpr fun on => inexact.mp on rfl
    rwa [exact] at rep

/-- What lies well inside the range of the format neither overflows nor underflows. -/
theorem roundTo_inside {p : Precision} {mode : RoundMode} {oe ue : Bool} {v : Exact} (hv : v.StandsFor a)
    (low : (2 : ℝ) ^ p.minExp ≤ a) (high : a < 2 ^ p.maxExp) :
    ∃ n : ℕ, roundsTo mode v.neg (a / 2 ^ (v.exponent - (p.bits - 1))) n ∧
      (roundTo p mode oe ue v).Reports v.neg a (n * 2 ^ (v.exponent - (p.bits - 1))) false false := by
  obtain ⟨one, bits, -⟩ := p.bounds
  obtain ⟨least, next⟩ := hv.exponent ((two_zpow_pos _).trans_le low)
  have range := lt_of_zpow_lt (low.trans_lt next)
  have below := lt_of_zpow_lt (least.trans_lt high)
  have rounds := (hv.quantize mode (hv.fine (q := v.exponent - (p.bits - 1)) (by omega))).1
  refine ⟨_, rounds, roundTo_inRange hv least next (by omega) rounds ?_⟩
  have width : v.exponent - (p.bits - 1) = v.exponent - (p.bits - 1 : ℕ) := by omega
  rw [width] at rounds ⊢
  obtain ⟨-, most⟩ := roundsTo_bits _ least next rounds
  refine (mul_zpow_lt_of_lt (k := p.bits - 1 + 1 + 1) (most.trans_lt (Nat.pow_lt_pow_right one_lt_two (by omega))) _).trans_le
    (zpow_mono ?_)
  omega

theorem two_zpow_sq (e : ℤ) : ((2 : ℝ) ^ e) ^ 2 = 2 ^ (2 * e) := by
  rw [← zpow_natCast, ← zpow_mul, mul_comm]
  rfl

end

end Sys2Proof.Machine
end

section
/-!
PROOFS. The arithmetic instructions on numbers (43_float_arithmetic R313 to R323, R327 to R334) under the reference arithmetic: what
each rounds, and its result where the format holds it and where not.
-/

namespace Sys2Proof.Machine

/-! ## The outputs on numbers -/

/-- The output rounds the exact result `x`, where that is not zero. -/
def Computes (f : Word) (negate : Bool) (x : ℝ) (out : Precision → Dword → FpOut) : Prop :=
  x ≠ 0 → ∃ v : Exact, v.StandsFor |x| ∧ v.neg = decide (x < 0) ∧
    ∀ p u, out p u = FpOut.rounded u negate (roundTo p (roundMode f) (fpscrOe f) (fpscrUe f) v)

section
variable {f : Word} {a b c : Dword} {q : ℚ}

theorem addend_number (minus : Bool) (h : isNumber b = true) : (addend minus b).isNumber = true ∧
    (addend minus b).toRat = if minus then -numberOf b else numberOf b := by
  have finite := infinite_of_isNumber h
  have operand := addend_describes (minus := minus) (isNan_of_isNumber h)
  exact ⟨operand.isNumber finite, operand.value finite⟩

theorem isInf_of_isNumber {x : FpVal} (h : x.isNumber = true) : x.isInf = false := by
  cases x with
  | nan | inf => cases h
  | zero | finite => rfl

theorem sumInvalid_of_isNumber {x : FpVal} (y : FpVal) (h : x.isNumber = true) : sumInvalid x y = false := by
  rw [sumInvalid_eq, isInf_of_isNumber h]
  rfl

theorem productInvalid_of_isNumber {x y : FpVal} (hx : x.isNumber = true) (hy : y.isNumber = true) :
    productInvalid x y = false := by
  rw [productInvalid_eq, isInf_of_isNumber hx, isInf_of_isNumber hy, Bool.false_and, Bool.and_false]
  rfl

/-- A value that is a number is rounded as that number. -/
theorem computes_of_toRat {V : FpVal} {negate : Bool} {out : Precision → Dword → FpOut} (number : V.isNumber = true)
    (value : V.toRat = q) (hout : ∀ p u, out p u = .ofValue p f u negate V) : Computes f negate (q : ℝ) out := by
  intro nonzero
  have some : V.toRat ≠ 0 := fun zero => nonzero (by rw [← value, zero, Rat.cast_zero])
  cases V with
  | nan | inf => cases number
  | zero n => exact absurd rfl some
  | finite v =>
    change v.toRat = q at value
    change v.toRat ≠ 0 at some
    have mant : v.mant ≠ 0 := fun zero => some (by rw [Exact.toRat_eq, zero, Nat.cast_zero, mul_zero, zero_mul])
    refine ⟨v, .inl ?_, ?_, hout⟩
    · rw [← value]
      exact v.abs_toRat
    · rw [Bool.eq_iff_iff, decide_eq_true_iff, Rat.cast_lt_zero, ← value, Exact.toRat_neg_iff mant]

/-- Sums and differences. -/
theorem add_computes (minus : Bool) (ha : isNumber a = true) (hb : isNumber b = true) :
    Computes f false ((if minus then numberOf a - numberOf b else numberOf a + numberOf b : ℚ) : ℝ)
      (fun p u => addOut p minus f u a b) := by
  obtain ⟨nb, vb⟩ := addend_number minus hb
  have na := (isNumber_classify (d := a)).trans ha
  refine computes_of_toRat (toRat_add (zeroSumSign f) na nb).2 ?_ fun p u => ?_
  · rw [(toRat_add _ na nb).1, vb, ← numberOf_eq ha]
    cases minus
    · rfl
    · exact (sub_eq_add_neg _ _).symm
  · rw [addOut_eq, sumInvalid_of_isNumber _ na, bitIf_false]
    exact withOperands_plain (by simp [isNan_of_isNumber ha, isNan_of_isNumber hb])

/-- Products. -/
theorem mul_computes (ha : isNumber a = true) (hc : isNumber c = true) :
    Computes f false ((numberOf a * numberOf c : ℚ) : ℝ) (fun p u => mulOut p f u a c) := by
  have na := (isNumber_classify (d := a)).trans ha
  have nc := (isNumber_classify (d := c)).trans hc
  refine computes_of_toRat (toRat_mul na nc).2 ?_ fun p u => ?_
  · rw [(toRat_mul na nc).1, ← numberOf_eq ha, ← numberOf_eq hc]
  · rw [mulOut, productInvalid_of_isNumber na nc, bitIf_false]
    exact withOperands_plain (by simp [isNan_of_isNumber ha, isNan_of_isNumber hc])

/-- Multiply-adds; the negative ones round what they negate. -/
theorem madd_computes (minus negate : Bool) (ha : isNumber a = true) (hb : isNumber b = true) (hc : isNumber c = true) :
    Computes f negate
      ((if minus then numberOf a * numberOf c - numberOf b else numberOf a * numberOf c + numberOf b : ℚ) : ℝ)
      (fun p u => maddOut p minus negate f u a b c) := by
  obtain ⟨nb, vb⟩ := addend_number minus hb
  have na := (isNumber_classify (d := a)).trans ha
  have nc := (isNumber_classify (d := c)).trans hc
  obtain ⟨product, number⟩ := toRat_mul na nc
  refine computes_of_toRat (toRat_add (zeroSumSign f) number nb).2 ?_ fun p u => ?_
  · rw [(toRat_add _ number nb).1, product, vb, ← numberOf_eq ha, ← numberOf_eq hc]
    cases minus
    · rfl
    · exact (sub_eq_add_neg _ _).symm
  · rw [maddOut_eq, productInvalid_of_isNumber na nc, sumInvalid_of_isNumber _ number, bitIf_false, bitIf_false]
    exact withOperands_plain (by simp [isNan_of_isNumber ha, isNan_of_isNumber hb, isNan_of_isNumber hc])

theorem finiteOf_mant_lt (d : Dword) : (finiteOf d).mant < 2 ^ 53 := by
  have := fracField_lt d
  unfold finiteOf
  split
  · change fracField d < 2 ^ 53
    omega
  · change 2 ^ 52 + fracField d < 2 ^ 53
    omega

theorem finiteOf_toRat (ha : isNumber a = true) (nonzero : numberOf a ≠ 0) : (finiteOf a).toRat = numberOf a := by
  rw [numberOf_eq ha, (classify_of_number ha nonzero).2]
  rfl

theorem finiteOf_magnitude (ha : isNumber a = true) (nonzero : numberOf a ≠ 0) :
    (finiteOf a).magnitude = |((numberOf a : ℚ) : ℝ)| := by
  rw [← finiteOf_toRat ha nonzero, Exact.abs_toRat]

/-- Quotients. -/
theorem div_computes (ha : isNumber a = true) (hb : isNumber b = true) (nonzero : numberOf b ≠ 0) :
    Computes f false ((numberOf a / numberOf b : ℚ) : ℝ) (fun p u => divOut p f u a b) := by
  intro quotient
  have numerator : numberOf a ≠ 0 := fun zero => quotient (by rw [zero, zero_div, Rat.cast_zero])
  obtain ⟨za, ia⟩ := classify_of_number ha numerator
  obtain ⟨zb, ib⟩ := classify_of_number hb nonzero
  have mant := finiteOf_mant_pos zb
  refine ⟨(finiteOf a).div (finiteOf b), ?_, ?_, fun p u => ?_⟩
  · have stands := Exact.div_standsFor (finiteOf_mant_pos za) mant (finiteOf_mant_lt b)
    rw [finiteOf_magnitude ha numerator, finiteOf_magnitude hb nonzero, ← abs_div] at stands
    rwa [Rat.cast_div]
  · have sa := Exact.toRat_neg_iff (finiteOf_mant_pos za)
    have sb := Exact.toRat_neg_iff mant
    rw [finiteOf_toRat ha numerator] at sa
    rw [finiteOf_toRat hb nonzero] at sb
    change ((finiteOf a).neg != (finiteOf b).neg) = _
    rw [Bool.eq_iff_iff, decide_eq_true_iff, Rat.cast_lt_zero, div_neg_iff, bne_iff_ne, ne_eq, Bool.eq_iff_iff, ← sa, ← sb]
    obtain la | ga := lt_or_gt_of_ne numerator <;> obtain lb | gb := lt_or_gt_of_ne nonzero
    · simp [la, lb, la.not_gt, lb.not_gt]
    · simp [la, gb, gb.not_gt]
    · simp [ga, lb, ga.not_gt]
    · simp [ga.not_gt, gb.not_gt]
  · have valid : divInvalid (.finite (finiteOf a)) (.finite (finiteOf b)) = 0 := rfl
    change divOut p f u a b = _
    rw [divOut_eq, ia, ib, valid, withOperands_plain (by simp [isNan_of_isNumber ha, isNan_of_isNumber hb])]
    rfl

/-- Square roots. -/
theorem sqrt_computes (hb : isNumber b = true) (nonneg : 0 ≤ numberOf b) :
    Computes f false (Real.sqrt (numberOf b : ℚ)) (fun p u => sqrtOut p f u b) := by
  intro root
  have nonzero : numberOf b ≠ 0 := fun zero => root (by rw [zero, Rat.cast_zero, Real.sqrt_zero])
  have plus : b.msb = false := Bool.eq_false_iff.mpr fun neg => nonneg.not_gt ((numberOf_neg_iff hb nonzero).mpr neg)
  obtain ⟨zero, is⟩ := classify_of_number hb nonzero
  refine ⟨(finiteOf b).sqrt, ?_, ?_, fun p u => ?_⟩
  · have stands := Exact.sqrt_standsFor (finiteOf_mant_pos zero) (finiteOf_mant_lt b)
    rwa [finiteOf_magnitude hb nonzero, abs_of_nonneg (Rat.cast_nonneg.mpr nonneg), ← abs_of_nonneg (Real.sqrt_nonneg _)]
      at stands
  · rw [decide_eq_false (Real.sqrt_nonneg _).not_gt]
    rfl
  · change sqrtOut p f u b = _
    have sign := (finiteOf_neg b).trans plus
    rw [sqrtOut, is, rootInvalid, sign, bitIf_false, FpVal.sqrt, sign]
    exact withOperands_plain (any_isNan_singleton (isNan_of_isNumber hb))

end

/-! ## Both precisions of an instruction -/

/-- Both precisions of an instruction end in `fp_finish`, in single precision with operands that are singles. -/
def EndsBoth (s : State) (d : BitVec 5) (rc : Bool) (used : List Dword) (affected : Word)
    (out : Precision → Word → Dword → FpOut) (i j : Instr) : Prop :=
  EndsWith s d rc ((out .double s.fpscr (s.draw 64)).within affected) (exec i s) ∧
    (used.all singleRepresentable = true → EndsWith s d rc ((out .single s.fpscr (s.draw 64)).within affected) (exec j s))

theorem endsBoth_of_runs {s : State} {d : BitVec 5} {rc : Bool} {used : List Dword} {affected : Word} {op : FpOp}
    {x : FpOperands} {out : Precision → Word → Dword → FpOut} {i j : Instr} (ref : s.cfg.fpResult = .reference)
    (ei : exec i s = runDouble d rc affected op x (out .double) s)
    (ej : exec j s = runSingle d rc used affected op x (out .single) s) : EndsBoth s d rc used affected out i j :=
  ⟨endsWith_double ref ei, fun singles => endsWith_single ref singles ej⟩

section
variable {s : State} {a b c : BitVec 5} (d : BitVec 5) (rc : Bool)

theorem fadd_ends (on : s.fpOn = true) (ref : s.cfg.fpResult = .reference) : EndsBoth s d rc [s.getFpr a, s.getFpr b] affectedAdd
    (fun p f u => addOut p false f u (s.getFpr a) (s.getFpr b)) (.faddx d a b rc) (.faddsx d a b rc) :=
  endsBoth_of_runs ref (exec_float on rfl rfl rfl) (exec_float on rfl rfl rfl)

theorem fsub_ends (on : s.fpOn = true) (ref : s.cfg.fpResult = .reference) : EndsBoth s d rc [s.getFpr a, s.getFpr b] affectedAdd
    (fun p f u => addOut p true f u (s.getFpr a) (s.getFpr b)) (.fsubx d a b rc) (.fsubsx d a b rc) :=
  endsBoth_of_runs ref (exec_float on rfl rfl rfl) (exec_float on rfl rfl rfl)

theorem fmul_ends (on : s.fpOn = true) (ref : s.cfg.fpResult = .reference) : EndsBoth s d rc [s.getFpr a, s.getFpr c] affectedMul
    (fun p f u => mulOut p f u (s.getFpr a) (s.getFpr c)) (.fmulx d a c rc) (.fmulsx d a c rc) :=
  endsBoth_of_runs ref (exec_float on rfl rfl rfl) (exec_float on rfl rfl rfl)

theorem fdiv_ends (on : s.fpOn = true) (ref : s.cfg.fpResult = .reference) : EndsBoth s d rc [s.getFpr a, s.getFpr b] affectedDiv
    (fun p f u => divOut p f u (s.getFpr a) (s.getFpr b)) (.fdivx d a b rc) (.fdivsx d a b rc) :=
  endsBoth_of_runs ref (exec_float on rfl rfl rfl) (exec_float on rfl rfl rfl)

theorem fsqrt_ends (on : s.fpOn = true) (ref : s.cfg.fpResult = .reference) (has : s.cfg.optFsqrt = true) :
    EndsBoth s d rc [s.getFpr b] affectedSqrt (fun p f u => sqrtOut p f u (s.getFpr b)) (.fsqrtx d b rc) (.fsqrtsx d b rc) :=
  endsBoth_of_runs ref (exec_optional on has rfl rfl rfl) (exec_optional on has rfl rfl rfl)

/-- The double-precision multiply-add. -/
def maddInstr (minus negate : Bool) (d a b c : BitVec 5) (rc : Bool) : Instr :=
  match minus, negate with
  | false, false => .fmaddx d a b c rc
  | true, false => .fmsubx d a b c rc
  | false, true => .fnmaddx d a b c rc
  | true, true => .fnmsubx d a b c rc

/-- The single-precision multiply-add. -/
def maddsInstr (minus negate : Bool) (d a b c : BitVec 5) (rc : Bool) : Instr :=
  match minus, negate with
  | false, false => .fmaddsx d a b c rc
  | true, false => .fmsubsx d a b c rc
  | false, true => .fnmaddsx d a b c rc
  | true, true => .fnmsubsx d a b c rc

theorem fmadd_ends (minus negate : Bool) (on : s.fpOn = true) (ref : s.cfg.fpResult = .reference) :
    EndsBoth s d rc [s.getFpr a, s.getFpr b, s.getFpr c] affectedMadd
      (fun p f u => maddOut p minus negate f u (s.getFpr a) (s.getFpr b) (s.getFpr c))
      (maddInstr minus negate d a b c rc) (maddsInstr minus negate d a b c rc) := by
  match minus, negate with
  | false, false => exact endsBoth_of_runs ref (exec_float on rfl rfl rfl) (exec_float on rfl rfl rfl)
  | true, false => exact endsBoth_of_runs ref (exec_float on rfl rfl rfl) (exec_float on rfl rfl rfl)
  | false, true => exact endsBoth_of_runs ref (exec_float on rfl rfl rfl) (exec_float on rfl rfl rfl)
  | true, true => exact endsBoth_of_runs ref (exec_float on rfl rfl rfl) (exec_float on rfl rfl rfl)

end

/-! ## Rounded results (O53) -/

/-- The page lists what rounding the magnitude `a` raises. -/
def ListsRounding (p : Precision) (f affected : Word) (a : ℝ) : Prop :=
  ∀ (v : Exact) (u : Dword) (negate : Bool), v.StandsFor a →
    let raised := (FpOut.rounded u negate (roundTo p (roundMode f) (fpscrOe f) (fpscrUe f) v)).raised
    raised &&& affected = raised

theorem listsRounding_of_page {affected : Word} (p : Precision) (f : Word) (a : ℝ)
    (h : (bitAt 3 ||| bitAt 4 ||| bitAt 6) &&& affected = bitAt 3 ||| bitAt 4 ||| bitAt 6) : ListsRounding p f affected a :=
  fun _ _ _ _ => rounded_affected h

/-- A root neither overflows nor underflows, and the page of the square roots lists only XX. -/
theorem listsRounding_sqrt {p : Precision} (f : Word) {y : ℝ} (pos : 0 < y) (h : p.Holds y) :
    ListsRounding p f affectedSqrt (Real.sqrt y) := by
  have range : 2 * p.minExp ≤ p.minExp - (p.bits - 1) ∧ p.maxExp + 1 ≤ 2 * p.maxExp := by cases p <;> decide
  intro v u negate hv
  obtain ⟨n, -, rep⟩ := roundTo_inside (p := p) (mode := roundMode f) (oe := fpscrOe f) (ue := fpscrUe f) hv
    (Real.le_sqrt_of_sq_le ((two_zpow_sq _).trans_le ((zpow_mono range.1).trans (h.least pos))))
    ((Real.sqrt_lt' (two_zpow_pos _)).mpr (h.1.trans_le ((zpow_mono range.2).trans_eq (two_zpow_sq _).symm)))
  simp only [rounded_raised, rep.ox, rep.ux, bitIf_false, BitVec.zero_or]
  exact within_bitIf _ (by decide)

section
variable {s : State} {d : BitVec 5} {rc negate : Bool} {used : List Dword} {affected : Word} {x : ℝ} {v : Dword}
  {out : Precision → Word → Dword → FpOut} {i j : Instr} {singles : Bool}

theorem roundsBoth_of_ends (ends : EndsBoth s d rc used affected out i j)
    (comp : Computes s.fpscr negate x (fun p => out p s.fpscr)) (fe : s.fe = false)
    (subset : singles = true → used.all singleRepresentable = true) (double : x ≠ 0 → ListsRounding .double s.fpscr affected |x|)
    (single : x ≠ 0 → singles = true → ListsRounding .single s.fpscr affected |x|) :
    roundsBoth s d rc negate singles x i j := by
  obtain ⟨endsDouble, endsSingle⟩ := ends
  refine ⟨fun nonzero => ?_, fun are nonzero => ?_⟩
  · obtain ⟨v, stands, sign, rounds⟩ := comp nonzero
    beta_reduce at rounds
    rw [rounds] at endsDouble
    exact roundedEffect_of_ends endsDouble (double nonzero v _ _ stands) fe stands sign nonzero
  · obtain ⟨v, stands, sign, rounds⟩ := comp nonzero
    beta_reduce at rounds
    have ends := endsSingle (subset are)
    rw [rounds] at ends
    exact roundedEffect_of_ends ends (single nonzero are v _ _ stands) fe stands sign nonzero

/-- The case of a page that lists OX, UX and XX. -/
theorem roundsBoth_of_page (ends : EndsBoth s d rc used affected out i j)
    (comp : Computes s.fpscr negate x (fun p => out p s.fpscr)) (fe : s.fe = false)
    (subset : singles = true → used.all singleRepresentable = true)
    (page : (bitAt 3 ||| bitAt 4 ||| bitAt 6) &&& affected = bitAt 3 ||| bitAt 4 ||| bitAt 6) :
    roundsBoth s d rc negate singles x i j :=
  roundsBoth_of_ends ends comp fe subset (fun _ => listsRounding_of_page _ _ _ page)
    (fun _ _ => listsRounding_of_page _ _ _ page)

end

theorem rounded_results : roundedResults := by
  intro s d a b c rc on fe ref ha hb x y z singles singles3
  have pair : singles = true → [s.getFpr a, s.getFpr b].all singleRepresentable = true := by
    intro h
    simpa [singles] using h
  have triple : singles3 = true → [s.getFpr a, s.getFpr b, s.getFpr c].all singleRepresentable = true := by
    intro h
    simpa [singles3, singles, and_assoc] using h
  refine ⟨?fadd, ?fsub, ?fmul, fun nonzero => ?fdiv, fun has nonneg => ?fsqrt, fun hc => ?madds⟩
  case fadd =>
    have comp := add_computes (f := s.fpscr) false ha hb
    exact roundsBoth_of_page (fadd_ends d rc on ref) (by simpa using comp) fe pair (by decide)
  case fsub =>
    have comp := add_computes (f := s.fpscr) true ha hb
    exact roundsBoth_of_page (fsub_ends d rc on ref) (by simpa using comp) fe pair (by decide)
  case fmul =>
    have comp := mul_computes (f := s.fpscr) ha hb
    exact roundsBoth_of_page (fmul_ends d rc on ref) (by simpa using comp) fe pair (by decide)
  case fdiv =>
    have comp := div_computes (f := s.fpscr) ha hb (fun zero => nonzero (by simp [y, zero]))
    exact roundsBoth_of_page (fdiv_ends d rc on ref) (by simpa using comp) fe pair (by decide)
  case fsqrt =>
    have comp := sqrt_computes (f := s.fpscr) hb (Rat.cast_nonneg.mp nonneg)
    have positive (root : Real.sqrt y ≠ 0) : 0 < y := Real.sqrt_ne_zero'.mp root
    have magnitude : |y| = y := abs_of_nonneg nonneg
    refine roundsBoth_of_ends (fsqrt_ends d rc on ref has) comp fe (fun single => by simpa using single) (fun root => ?_)
      (fun root single => ?_)
    · rw [abs_of_nonneg (Real.sqrt_nonneg y)]
      exact listsRounding_sqrt _ (positive root) (magnitude ▸ double_holds hb)
    · rw [abs_of_nonneg (Real.sqrt_nonneg y)]
      exact listsRounding_sqrt _ (positive root) (magnitude ▸ single_holds hb single)
  case madds =>
    have madd (negate : Bool) : roundsBoth s d rc negate singles3 (x * z + y) (maddInstr false negate d a b c rc)
        (maddsInstr false negate d a b c rc) := by
      have comp := madd_computes (f := s.fpscr) false negate ha hb hc
      exact roundsBoth_of_page (fmadd_ends d rc false negate on ref) (by simpa using comp) fe triple (by decide)
    have msub (negate : Bool) : roundsBoth s d rc negate singles3 (x * z - y) (maddInstr true negate d a b c rc)
        (maddsInstr true negate d a b c rc) := by
      have comp := madd_computes (f := s.fpscr) true negate ha hb hc
      exact roundsBoth_of_page (fmadd_ends d rc true negate on ref) (by simpa using comp) fe triple (by decide)
    exact ⟨madd false, msub false, madd true, msub true⟩

/-! ## Exact results (O53) -/

section
variable {s : State} {d : BitVec 5} {rc negate : Bool} {used : List Dword} {affected : Word} {x : ℝ} {v : Dword}
  {out : Precision → Word → Dword → FpOut} {i j : Instr} {p : Precision} {u : Dword} {r : Result}

/-- An exact result that the format holds is the result. -/
theorem exactEffect_of_computes (ends : EndsWith s d rc ((out p s.fpscr u).within affected) r)
    (comp : Computes s.fpscr negate x (fun p => out p s.fpscr)) (off : s.fpscr.getMsbD 26 = false) (number : isNumber v = true)
    (nonzero : numberOf v ≠ 0) (value : ((numberOf v : ℚ) : ℝ) = if negate then -x else x) (holds : p.Holds |((numberOf v : ℚ) : ℝ)|) :
    exactEffect s d rc v r := by
  have magnitude : |((numberOf v : ℚ) : ℝ)| = |x| := by
    rw [value]
    cases negate
    · rfl
    · exact abs_neg x
  have some : x ≠ 0 := by
    rw [← abs_pos, ← magnitude, abs_pos]
    exact Rat.cast_ne_zero.mpr nonzero
  obtain ⟨w, stands, sign, rounds⟩ := comp some
  beta_reduce at rounds
  rw [magnitude] at holds
  obtain ⟨within, result, fr, fi, ox, ux⟩ := roundTo_holds (mode := roundMode s.fpscr) (oe := fpscrOe s.fpscr)
    (ue := fpscrUe s.fpscr) off stands (abs_pos.mpr some) holds
  have own := valueIs_numberOf number
  have msb : v.msb = (w.neg != negate) := by
    have neg := numberOf_neg_iff number nonzero
    rw [← Rat.cast_lt_zero (K := ℝ), value] at neg
    rw [sign, Bool.eq_iff_iff, ← neg]
    cases negate
    · simp
    · simp [some.symm.le_iff_lt]
  rw [msb, magnitude] at own
  have output : out p s.fpscr u = FpOut.exact v 0 := by
    rw [rounds, FpOut.rounded, within, ox, ux, Bool.eq_false_iff.mpr fun on => fi.mp on rfl,
      Bool.eq_false_iff.mpr fun on => lt_irrefl _ (fr.mp on), if_neg Bool.false_ne_true, FpOut.exact,
      eq_of_valueIs (valueIs_negateIf negate result) own]
    rfl
  rw [output] at ends
  have plain := (FpOut.plain_unrounded s.fpscr v).within (affected := affected) BitVec.zero_and
  obtain ⟨t, next, -, raises, fraction, cr1, kept, -, result, frame, -⟩ := ends.unroundedEffect plain
  obtain ⟨value, fprf⟩ := result v rfl
  obtain ⟨fr, fi⟩ := fraction rfl
  exact ⟨t, next, value, fprf, fr, fi, raises, frame (.inr nofun), kept, cr1⟩

/-- Both precisions. -/
theorem exactBoth_of_ends {singles : Bool} (ends : EndsBoth s d rc used affected out i j)
    (comp : Computes s.fpscr negate x (fun p => out p s.fpscr)) (off : s.fpscr.getMsbD 26 = false) (number : isNumber v = true)
    (nonzero : numberOf v ≠ 0) (value : ((numberOf v : ℚ) : ℝ) = if negate then -x else x)
    (subset : singles = true → used.all singleRepresentable = true ∧ singleRepresentable v = true) :
    exactEffect s d rc v (exec i s) ∧ (singles = true → exactEffect s d rc v (exec j s)) := by
  refine ⟨exactEffect_of_computes ends.1 comp off number nonzero value (double_holds number), fun are => ?_⟩
  obtain ⟨operands, result⟩ := subset are
  exact exactEffect_of_computes (ends.2 operands) comp off number nonzero value (single_holds number result)

end

theorem exact_results : exactResults := by
  intro s d a b c rc v on ref off number nonzero ha hb x y z single single3 exactly
  have pair : single = true → [s.getFpr a, s.getFpr b].all singleRepresentable = true ∧ singleRepresentable v = true := by
    intro h
    simpa [single] using h
  have triple : single3 = true →
      [s.getFpr a, s.getFpr b, s.getFpr c].all singleRepresentable = true ∧ singleRepresentable v = true := by
    intro h
    simp only [single3, single, Bool.and_eq_true] at h
    obtain ⟨⟨⟨sa, sb⟩, sv⟩, sc⟩ := h
    simp [sa, sb, sc, sv]
  have both {used : List Dword} {affected : Word} {out : Precision → Word → Dword → FpOut} {i j : Instr} {q : ℚ}
      {singles negate : Bool} (ends : EndsBoth s d rc used affected out i j)
      (comp : Computes s.fpscr negate (q : ℝ) (fun p => out p s.fpscr))
      (subset : singles = true → used.all singleRepresentable = true ∧ singleRepresentable v = true) :
      exactly (if negate then -q else q) i ∧ (singles = true → exactly (if negate then -q else q) j) := by
    have exact (value : numberOf v = if negate then -q else q) := exactBoth_of_ends ends comp off number nonzero
      (by rw [value]; cases negate <;> simp) subset
    exact ⟨fun value => (exact value).1, fun are value => (exact value).2 are⟩
  have madd (minus negate : Bool) (hc : isNumber (s.getFpr c) = true) := both (fmadd_ends d rc minus negate on ref)
    (madd_computes (f := s.fpscr) minus negate ha hb hc) triple
  obtain ⟨fadd, fadds⟩ := both (fadd_ends d rc on ref) (add_computes (f := s.fpscr) false ha hb) pair
  obtain ⟨fsub, fsubs⟩ := both (fsub_ends d rc on ref) (add_computes (f := s.fpscr) true ha hb) pair
  obtain ⟨fmul, fmuls⟩ := both (fmul_ends d rc on ref) (mul_computes (f := s.fpscr) ha hb) pair
  refine ⟨fadd, fadds, fsub, fsubs, fmul, fmuls, fun divisor => ?fdiv, fun hc => ?madds, fun has plus square => ?fsqrt⟩
  case fdiv => exact both (fdiv_ends d rc on ref) (div_computes (f := s.fpscr) ha hb divisor) pair
  case madds =>
    obtain ⟨fmadd, fmadds⟩ := madd false false hc
    obtain ⟨fmsub, fmsubs⟩ := madd true false hc
    obtain ⟨fnmadd, fnmadds⟩ := madd false true hc
    obtain ⟨fnmsub, fnmsubs⟩ := madd true true hc
    exact ⟨fmadd, fmadds, fmsub, fmsubs, fnmadd, fnmadds, fnmsub, fnmsubs⟩
  case fsqrt =>
    have nonneg : 0 ≤ numberOf v := by
      by_contra neg
      exact Bool.false_ne_true (plus.symm.trans ((numberOf_neg_iff number nonzero).mp (not_le.mp neg)))
    have root : ((numberOf v : ℚ) : ℝ) = Real.sqrt (numberOf (s.getFpr b) : ℚ) := by
      change numberOf v * numberOf v = numberOf (s.getFpr b) at square
      rw [← square, Rat.cast_mul, Real.sqrt_mul_self (Rat.cast_nonneg.mpr nonneg)]
    have operand : 0 ≤ numberOf (s.getFpr b) := (mul_nonneg nonneg nonneg).trans_eq square
    exact exactBoth_of_ends (fsqrt_ends d rc on ref has) (sqrt_computes (f := s.fpscr) hb operand) off number nonzero root
      (fun h => by simpa using h)

/-- Settles O53: each instruction rounds a value that stands for the exact result, and rounding keeps what the format holds. -/
theorem floatExactResults : Obligations.FloatExactResults := by
  unfold Obligations.FloatExactResults
  exact ⟨exact_results, rounded_results⟩

end Sys2Proof.Machine
end

section
/-!
PROOFS. The bounds of the estimates (43_float_arithmetic R324, R325): a candidate is taken only within the bound, and the rounded
reciprocal, or the largest single where that overflows, lies within it wherever some single does.
-/

namespace Sys2Proof.Machine

/-! ## The tests of a candidate -/

section
variable {i j m : ℕ} {k : ℤ} {b y : Dword}

/-- The power of two of either sign that the tests of a candidate multiply with. -/
theorem two_pow_toNat (k : ℤ) : ((2 ^ k.toNat : ℕ) : ℝ) = 2 ^ k * ((2 ^ (-k).toNat : ℕ) : ℝ) := by
  push_cast
  rw [← zpow_natCast, ← zpow_natCast, ← zpow_add₀ two_ne_zero]
  congr 1
  omega

theorem le_scaled_iff : j * 2 ^ (-k).toNat ≤ i * (m * 2 ^ k.toNat) ↔ (j : ℝ) ≤ i * (m * 2 ^ k) := by
  have pos : (0 : ℝ) < ((2 ^ (-k).toNat : ℕ) : ℝ) := Nat.cast_pos.mpr (Nat.two_pow_pos _)
  rw [← Nat.cast_le (α := ℝ), Nat.cast_mul, Nat.cast_mul, Nat.cast_mul, two_pow_toNat k, ← mul_assoc (m : ℝ), ← mul_assoc (i : ℝ),
    mul_le_mul_iff_left₀ pos]

theorem scaled_le_iff : i * (m * 2 ^ k.toNat) ≤ j * 2 ^ (-k).toNat ↔ (i : ℝ) * (m * 2 ^ k) ≤ j := by
  have pos : (0 : ℝ) < ((2 ^ (-k).toNat : ℕ) : ℝ) := Nat.cast_pos.mpr (Nat.two_pow_pos _)
  rw [← Nat.cast_le (α := ℝ), Nat.cast_mul, Nat.cast_mul, Nat.cast_mul, two_pow_toNat k, ← mul_assoc (m : ℝ), ← mul_assoc (i : ℝ),
    mul_le_mul_iff_left₀ pos]

theorem nearReciprocal_iff (v w : Exact) : nearReciprocal v w 0 = true ↔
    255 / 256 ≤ v.magnitude * w.magnitude ∧ v.magnitude * w.magnitude ≤ 257 / 256 := by
  have product : v.magnitude * w.magnitude = ((v.mant * w.mant : ℕ) : ℝ) * 2 ^ (v.exp + w.exp - 0) := by
    rw [Exact.magnitude, Exact.magnitude, sub_zero, zpow_add₀ two_ne_zero]
    push_cast
    ring
  rw [product, nearReciprocal, Bool.and_eq_true, decide_eq_true_iff, decide_eq_true_iff, le_scaled_iff, scaled_le_iff,
    div_le_iff₀' (by norm_num), le_div_iff₀' (by norm_num)]
  norm_num

theorem nearRsqrt_iff (v w : Exact) : nearRsqrt v w = true ↔
    (31 / 32 : ℝ) ^ 2 ≤ w.magnitude ^ 2 * v.magnitude ∧ w.magnitude ^ 2 * v.magnitude ≤ (33 / 32) ^ 2 := by
  have product : w.magnitude ^ 2 * v.magnitude = ((v.mant * (w.mant * w.mant) : ℕ) : ℝ) * 2 ^ (v.exp + 2 * w.exp) := by
    rw [Exact.magnitude, Exact.magnitude, zpow_add₀ two_ne_zero, two_mul, zpow_add₀ two_ne_zero]
    push_cast
    ring
  have low : (31 / 32 : ℝ) ^ 2 = 961 / 1024 := by norm_num
  have high : (33 / 32 : ℝ) ^ 2 = 1089 / 1024 := by norm_num
  rw [product, low, high, nearRsqrt, Bool.and_eq_true, decide_eq_true_iff, decide_eq_true_iff, le_scaled_iff, scaled_le_iff,
    div_le_iff₀' (by norm_num), le_div_iff₀' (by norm_num)]
  norm_num

/-- A product near 1 has factors of the same sign. -/
theorem near_one_iff {X Y : ℝ} (hX : X ≠ 0) (hY : Y ≠ 0) : |Y * X - 1| ≤ 1 / 256 ↔
    (Y < 0 ↔ X < 0) ∧ 255 / 256 ≤ |X| * |Y| ∧ |X| * |Y| ≤ 257 / 256 := by
  by_cases same : Y < 0 ↔ X < 0
  · have pos : 0 < Y * X := by
      obtain neg | pos := lt_or_gt_of_ne hX
      · exact mul_pos_of_neg_of_neg (same.mpr neg) neg
      · exact mul_pos (lt_of_le_of_ne (not_lt.mp fun neg => pos.not_gt (same.mp neg)) hY.symm) pos
    rw [← abs_mul, mul_comm X, abs_of_pos pos, abs_le]
    exact ⟨fun h => ⟨same, by linarith [h.1], by linarith [h.2]⟩, fun h => ⟨by linarith [h.2.1], by linarith [h.2.2]⟩⟩
  · have neg : Y * X < 0 := by
      obtain neg | pos := lt_or_gt_of_ne hX
      · exact mul_neg_of_pos_of_neg (lt_of_le_of_ne (not_lt.mp fun h => same (iff_of_true h neg)) hY.symm) neg
      · exact mul_neg_of_neg_of_pos (not_le.mp fun h => same (iff_of_false h.not_gt pos.not_gt)) pos
    rw [abs_le]
    exact iff_of_false (fun h => by linarith [h.1]) fun h => same h.1

/-- What the page of `fres` asks of an estimate of the reciprocal of `x`. -/
def NearReciprocal (x : ℚ) (w : Dword) : Prop :=
  isNumber w = true ∧ singleRepresentable w = true ∧ |numberOf w * x - 1| ≤ 1 / 256

theorem nearReciprocal_cast {x : ℚ} {w : Dword} : NearReciprocal x w ↔
    isNumber w = true ∧ singleRepresentable w = true ∧ |((numberOf w : ℚ) : ℝ) * x - 1| ≤ 1 / 256 := by
  rw [NearReciprocal, ← Rat.cast_le (K := ℝ)]
  push_cast
  rfl

theorem classify_of_not_number (h : isNumber y = false) : classify y = .nan ∨ ∃ n, classify y = .inf n := by
  obtain ⟨-, is⟩ | ⟨-, -, is⟩ | ⟨number, -⟩ | ⟨number, -⟩ := classify_cases y
  · exact .inl is
  · exact .inr ⟨_, is⟩
  · rw [number] at h; cases h
  · rw [number] at h; cases h

theorem classify_of_number_zero (h : isNumber y = true) (zero : numberOf y = 0) : ∃ n, classify y = .zero n := by
  obtain ⟨-, -, -, is⟩ | ⟨-, -, -, is⟩ | ⟨-, -, -, is⟩ | ⟨-, -, some, is⟩ := classify_flags y
  · rw [← isNumber_classify, is] at h; cases h
  · rw [← isNumber_classify, is] at h; cases h
  · exact ⟨_, is⟩
  · rw [numberOf_eq h, is] at zero
    exact absurd zero (Exact.toRat_ne_zero (finiteOf_mant_pos some))

/-- The test of a candidate of `fres`. -/
theorem goodReciprocal_iff (hb : isNumber b = true) (nonzero : numberOf b ≠ 0) (y : Dword) :
    goodReciprocal (finiteOf b) 0 y = true ↔ NearReciprocal (numberOf b) y := by
  rw [nearReciprocal_cast]
  cases hy : isNumber y with
  | false =>
    obtain is | ⟨n, is⟩ := classify_of_not_number hy <;> rw [goodReciprocal, is] <;>
      exact iff_of_false Bool.false_ne_true fun h => Bool.false_ne_true h.1
  | true =>
    by_cases zero : numberOf y = 0
    · obtain ⟨n, is⟩ := classify_of_number_zero hy zero
      rw [goodReciprocal, is, zero, Rat.cast_zero, zero_mul, zero_sub, abs_neg, abs_one]
      exact iff_of_false Bool.false_ne_true fun h => absurd h.2.2 (by norm_num)
    · have sign : ((finiteOf y).neg == (finiteOf b).neg) = true ↔
          (((numberOf y : ℚ) : ℝ) < 0 ↔ ((numberOf b : ℚ) : ℝ) < 0) := by
        rw [finiteOf_neg, finiteOf_neg, Rat.cast_lt_zero, Rat.cast_lt_zero, numberOf_neg_iff hy zero,
          numberOf_neg_iff hb nonzero, beq_iff_eq, Bool.eq_iff_iff]
      rw [goodReciprocal, (classify_of_number hy zero).2, Bool.and_eq_true, Bool.and_eq_true, sign, nearReciprocal_iff,
        finiteOf_magnitude hb nonzero, finiteOf_magnitude hy zero,
        near_one_iff (Rat.cast_ne_zero.mpr nonzero) (Rat.cast_ne_zero.mpr zero)]
      tauto

/-- What the page of `frsqrte` asks of an estimate. -/
def NearRsqrt (x : ℚ) (w : Dword) : Prop :=
  isNumber w = true ∧ 0 < numberOf w ∧ (31 / 32 : ℚ) ^ 2 ≤ numberOf w ^ 2 * x ∧ numberOf w ^ 2 * x ≤ (33 / 32 : ℚ) ^ 2

theorem nearRsqrt_cast {x : ℚ} {w : Dword} : NearRsqrt x w ↔ isNumber w = true ∧ 0 < ((numberOf w : ℚ) : ℝ) ∧
    (31 / 32 : ℝ) ^ 2 ≤ ((numberOf w : ℚ) : ℝ) ^ 2 * x ∧ ((numberOf w : ℚ) : ℝ) ^ 2 * x ≤ (33 / 32 : ℝ) ^ 2 := by
  rw [NearRsqrt, ← Rat.cast_le (K := ℝ), ← Rat.cast_le (K := ℝ), Rat.cast_pos]
  push_cast
  rfl

/-- The test of a candidate of `frsqrte`. -/
theorem nearRsqrt_of_good (hb : isNumber b = true) (pos : 0 < numberOf b) (h : goodRsqrt (finiteOf b) y = true) :
    NearRsqrt (numberOf b) y := by
  rw [nearRsqrt_cast]
  cases hy : isNumber y with
  | false =>
    obtain is | ⟨n, is⟩ := classify_of_not_number hy <;> rw [goodRsqrt, is] at h <;> cases h
  | true =>
    by_cases zero : numberOf y = 0
    · obtain ⟨n, is⟩ := classify_of_number_zero hy zero
      rw [goodRsqrt, is] at h
      cases h
    · rw [goodRsqrt, (classify_of_number hy zero).2, Bool.and_eq_true, finiteOf_neg, Bool.not_eq_true', nearRsqrt_iff,
        finiteOf_magnitude hb pos.ne', finiteOf_magnitude hy zero, sq_abs, abs_of_pos (Rat.cast_pos.mpr pos)] at h
      obtain ⟨plus, near⟩ := h
      have sign : ¬ numberOf y < 0 := fun neg => Bool.false_ne_true (plus.symm.trans ((numberOf_neg_iff hy zero).mp neg))
      exact ⟨rfl, Rat.cast_pos.mpr (lt_of_le_of_ne (not_lt.mp sign) (Ne.symm zero)), near⟩

end

/-! ## The values that are rounded -/

section
variable {p : Precision} {mode : RoundMode} {oe : Bool} {v : Exact} {a : ℝ} {n : ℕ} {q : ℤ} {neg : Bool} {w : Dword}

/-- Rounding moves a magnitude of many units by a small part of it. -/
theorem roundsTo_relative {k : ℕ} (rounds : roundsTo mode neg (a / 2 ^ q) n) (many : (2 : ℝ) ^ ((k : ℤ) + q) ≤ a) :
    |(n : ℝ) * 2 ^ q - a| ≤ a / 2 ^ k := by
  have unit := two_zpow_pos q
  have pos : 0 < a := (two_zpow_pos _).trans_le many
  have near := (roundsTo_bounds (div_nonneg pos.le unit.le) rounds).1
  have distance : (n : ℝ) * 2 ^ q - a = (n - a / 2 ^ q) * 2 ^ q := by
    rw [sub_mul, div_mul_cancel₀ _ unit.ne']
  rw [zpow_add₀ two_ne_zero, zpow_natCast] at many
  rw [distance, abs_mul, abs_of_pos unit, le_div_iff₀ (by positivity)]
  calc |(n : ℝ) - a / 2 ^ q| * 2 ^ q * 2 ^ k ≤ 1 * 2 ^ q * 2 ^ k := by gcongr
    _ = 2 ^ k * 2 ^ q := by ring
    _ ≤ a := many

/-- A number of units of one bit more, a power of two, is a number of twice the units. -/
theorem Precision.holds_of_le (hn : n ≤ 2 ^ p.bits) (hq : p.minExp - (p.bits - 1) ≤ q) (fits : (n : ℝ) * 2 ^ q < 2 ^ (p.maxExp + 1)) :
    p.Holds (n * 2 ^ q) := by
  refine ⟨fits, ?_⟩
  by_cases full : n = 2 ^ p.bits
  · refine ⟨2 ^ (p.bits - 1), q + 1, ?_, Nat.pow_lt_pow_right one_lt_two (by cases p <;> decide), by omega⟩
    have bits : p.bits = p.bits - 1 + 1 := by cases p <;> rfl
    conv_lhs => rw [full, bits, Nat.pow_succ]
    rw [zpow_add_one₀ two_ne_zero]
    push_cast
    ring
  · exact ⟨n, q, rfl, lt_of_le_of_ne hn full, hq⟩

/-- The magnitude of the largest finite single. -/
def greatestSingleUnits : ℕ := 2 ^ 24 - 1

theorem le_greatestSingle (h : Precision.single.Holds a) : a ≤ greatestSingleUnits * 2 ^ (104 : ℤ) := by
  obtain ⟨fits, m, q, rfl, small, -⟩ := h
  change m < 2 ^ 24 at small
  have most : m ≤ greatestSingleUnits := by unfold greatestSingleUnits; omega
  by_cases low : q ≤ 104
  · exact mul_le_mul (Nat.cast_le.mpr most) (zpow_mono low) (two_zpow_pos q).le (Nat.cast_nonneg _)
  · obtain ⟨k, rfl⟩ : ∃ k : ℕ, q = k + 104 := ⟨(q - 104).toNat, by omega⟩
    have units : (m : ℝ) * 2 ^ ((k : ℤ) + 104) = ((m * 2 ^ k : ℕ) : ℝ) * 2 ^ (104 : ℤ) := by
      rw [zpow_add₀ two_ne_zero, zpow_natCast, Nat.cast_mul, Nat.cast_pow, Nat.cast_ofNat, mul_assoc]
    have limit : (2 : ℝ) ^ (Precision.single.maxExp + 1) = ((2 ^ 24 : ℕ) : ℝ) * 2 ^ (104 : ℤ) := by
      rw [Nat.cast_pow, Nat.cast_ofNat, ← zpow_natCast, ← zpow_add₀ two_ne_zero]
      rfl
    rw [units, limit, mul_lt_mul_iff_left₀ (two_zpow_pos _), Nat.cast_lt] at fits
    rw [units]
    refine mul_le_mul_of_nonneg_right (Nat.cast_le.mpr ?_) (two_zpow_pos _).le
    unfold greatestSingleUnits
    omega

theorem greatestSingle_value (neg : Bool) : singleRepresentable (greatestSingle neg) = true ∧
    valueIs (greatestSingle neg) neg (greatestSingleUnits * 2 ^ (104 : ℤ)) := by
  have fields : expField (greatestSingle neg) = 1150 ∧ fracField (greatestSingle neg) = 2 ^ 52 - 2 ^ 29 ∧
      (greatestSingle neg).msb = neg ∧ singleRepresentable (greatestSingle neg) = true := by cases neg <;> decide
  obtain ⟨exp, frac, sign, single⟩ := fields
  refine ⟨single, valueIs_of_fields (by rw [exp]; decide) sign ?_⟩
  rw [exp, frac, if_neg (by decide), greatestSingleUnits]
  norm_num

/-- A number that the single format holds is one in double format. -/
theorem singleRepresentable_of_holds (h : isNumber w = true) (holds : Precision.single.Holds |((numberOf w : ℚ) : ℝ)|) :
    singleRepresentable w = true := by
  obtain ⟨fits, m, q, units, small, least⟩ := holds
  change m < 2 ^ 24 at small
  change (-126 : ℤ) - ((24 : ℕ) - 1) ≤ q at least
  rw [abs_numberOf] at units fits
  rw [singleRepresentable]
  by_cases zero : slice 63 w 1 = 0
  · rw [if_pos (.inr zero)]
  rw [if_neg (not_or.mpr ⟨isNumber_iff.mp h, zero⟩)]
  have nonzero : significand w ≠ 0 := by
    unfold significand
    split
    · next exp => exact fun frac => zero ((magnitude_zero_iff w).mpr ⟨exp, frac⟩)
    · omega
  have mant : 1 ≤ m := by
    refine Nat.one_le_iff_ne_zero.mpr fun none => ?_
    rw [none, Nat.cast_zero, zero_mul, mul_eq_zero, or_iff_left (two_zpow_pos _).ne'] at units
    exact nonzero (Nat.cast_eq_zero.mp units)
  have bound := lt_of_zpow_lt (((zpow_le_mul_of_le (k := 0) mant q).trans_eq units.symm).trans_lt
    (mul_zpow_lt_of_lt (significand_lt w) (unitExp w)))
  have normal : expField w ≠ 0 := by
    intro tiny
    rw [unitExp, if_pos tiny] at bound
    omega
  have leading : 2 ^ 52 ≤ significand w := by rw [significand, if_neg normal]; exact Nat.le_add_right _ _
  have exp : unitExp w = (expField w : ℤ) - 1075 := if_neg normal
  have high := lt_of_zpow_lt ((zpow_le_mul_of_le leading _).trans_lt fits)
  have reach := lt_of_zpow_lt ((zpow_le_mul_of_le leading _).trans_lt (units.trans_lt (mul_zpow_lt_of_lt small q)))
  change ((52 : ℕ) : ℤ) + unitExp w < 127 + 1 at high
  obtain ⟨j, rfl⟩ : ∃ j : ℕ, q = j + unitExp w := ⟨(q - unitExp w).toNat, by omega⟩
  have whole : significand w = m * 2 ^ j := by
    rw [zpow_add₀ two_ne_zero, ← mul_assoc, mul_left_inj' (two_zpow_pos _).ne', zpow_natCast] at units
    exact_mod_cast units
  have trailing {k : ℕ} (hk : k ≤ j) : significand w % 2 ^ k = 0 := by
    rw [whole]
    exact Nat.mod_eq_zero_of_dvd ((Nat.pow_dvd_pow 2 hk).mul_left m)
  split
  · rw [Bool.and_eq_true, decide_eq_true_eq, beq_iff_eq]
    have mod := trailing (k := 29) (by omega)
    rw [significand, if_neg normal] at mod
    exact ⟨by omega, by omega⟩
  · rw [Bool.and_eq_true, decide_eq_true_eq, beq_iff_eq]
    have mod := trailing (k := 926 - expField w) (by omega)
    rw [significand, if_neg normal] at mod
    exact ⟨by omega, mod⟩

theorem part_le (pos : 0 < a) {k : ℕ} (hk : 8 ≤ k) : a / 2 ^ k ≤ a / 256 := by
  have power : (2 : ℝ) ^ 8 ≤ 2 ^ k := pow_le_pow_right₀ one_le_two hk
  exact div_le_div_of_nonneg_left pos.le (by norm_num) ((by norm_num : (256 : ℝ) = 2 ^ 8).trans_le power)

/-- What rounds beyond the singles is greater than each of them. -/
theorem greatestSingle_lt_of_overflow {e : ℤ} (low : (2 : ℝ) ^ e ≤ a) (high : a < 2 ^ (e + 1))
    (rounds : roundsTo mode neg (a / 2 ^ (e - (23 : ℕ))) n) (beyond : (2 : ℝ) ^ (128 : ℤ) ≤ n * 2 ^ (e - (23 : ℕ))) :
    greatestSingleUnits * 2 ^ (104 : ℤ) < a := by
  have most := (roundsTo_bits (v := ⟨neg, 0, 0⟩) 23 low high rounds).2
  have limit : ((greatestSingleUnits : ℕ) : ℝ) * 2 ^ (104 : ℤ) < 2 ^ (128 : ℤ) :=
    mul_zpow_lt_of_lt (k := 24) (by decide) 104
  have reach := lt_of_zpow_lt (beyond.trans_lt (mul_zpow_lt_of_lt (k := 25) (by omega) _))
  by_contra le
  have below := lt_of_zpow_lt (low.trans_lt ((not_lt.mp le).trans_lt limit))
  obtain rfl : e = 127 := by
    by_contra ne
    have fewer : (n : ℝ) * 2 ^ (e - (23 : ℕ)) ≤ 2 ^ (((24 : ℕ) : ℤ) + (e - (23 : ℕ))) := by
      rw [zpow_add₀ two_ne_zero, zpow_natCast]
      exact mul_le_mul_of_nonneg_right (by exact_mod_cast most) (two_zpow_pos _).le
    have := (zpow_le_zpow_iff_right₀ (one_lt_two (α := ℝ))).mp (beyond.trans fewer)
    omega
  have units : n ≤ greatestSingleUnits := by
    refine roundsTo_le rounds ?_
    rw [div_le_iff₀ (two_zpow_pos _)]
    exact not_lt.mp le
  exact absurd (beyond.trans (mul_le_mul_of_nonneg_right (Nat.cast_le.mpr units) (two_zpow_pos _).le)) (not_le.mpr limit)

/-- What rounding the magnitude to single must give: it is above every finite single, or the rounded magnitude is near. -/
def Rounded.NearSingle (r : Rounded) (neg : Bool) (a : ℝ) : Prop :=
  (r.ox = true → greatestSingleUnits * 2 ^ (104 : ℤ) < a) ∧
    (r.ox = false → ∃ y, valueIs r.value neg y ∧ Precision.single.Holds y ∧ |y - a| ≤ a / 256)

theorem roundTo_single_normal (hv : v.StandsFor a) (range : (2 : ℝ) ^ (-126 : ℤ) ≤ a) :
    (roundTo .single mode oe false v).NearSingle v.neg a := by
  have pos : 0 < a := (two_zpow_pos _).trans_le range
  obtain ⟨low, high⟩ := hv.exponent pos
  have least := lt_of_zpow_lt (range.trans_lt high)
  have normal : Precision.single.minExp ≤ v.exponent := by change (-126 : ℤ) ≤ _; omega
  have rounds := (hv.quantize mode (hv.fine (q := v.exponent - (23 : ℕ)) (by omega))).1
  generalize (Machine.quantize mode v (v.exponent - (23 : ℕ))).n = n at rounds
  by_cases fits : (n : ℝ) * 2 ^ (v.exponent - (23 : ℕ)) < 2 ^ (128 : ℤ)
  · have rep := roundTo_inRange (p := .single) (oe := oe) (ue := false) hv low high normal rounds fits
    refine ⟨fun ox => absurd (rep.ox.symm.trans ox) Bool.false_ne_true, fun _ => ⟨_, rep.value, ?_, ?_⟩⟩
    · refine Precision.holds_of_le (roundsTo_bits 23 low high rounds).2 ?_ fits
      change (-126 : ℤ) - ((24 : ℕ) - 1) ≤ v.exponent - ((24 : ℕ) - 1)
      omega
    · refine (roundsTo_relative rounds ?_).trans (part_le pos (k := 23) (by decide))
      rw [add_sub_cancel]
      exact low
  · have beyond := (roundTo_overflow (p := .single) (oe := oe) (ue := false) hv low high normal rounds (not_lt.mp fits)).2.1
    exact ⟨fun _ => greatestSingle_lt_of_overflow low high rounds (not_lt.mp fits),
      fun ox => absurd (beyond.symm.trans ox) (by decide)⟩

theorem roundTo_single_tiny (hv : v.StandsFor a) (large : (2 : ℝ) ^ (-128 : ℤ) < a) (tiny : a < (2 : ℝ) ^ (-126 : ℤ)) :
    (roundTo .single mode oe false v).NearSingle v.neg a := by
  have pos : 0 < a := (two_zpow_pos _).trans large
  obtain ⟨low, high⟩ := hv.exponent pos
  have below := lt_of_zpow_lt (low.trans_lt tiny)
  have rounds := (hv.quantize mode (hv.fine (q := -149) (by omega))).1
  generalize (Machine.quantize mode v (-149)).n = n at rounds
  obtain ⟨ux, -, rep⟩ := roundTo_tiny (p := .single) (oe := oe) rfl hv low high below rounds
  have few : n ≤ 2 ^ 23 := by
    refine roundsTo_le rounds ?_
    rw [div_le_iff₀ (two_zpow_pos _), Nat.cast_pow, Nat.cast_ofNat, ← zpow_natCast, ← zpow_add₀ two_ne_zero]
    exact tiny.le
  refine ⟨fun ox => absurd (rep.ox.symm.trans ox) Bool.false_ne_true, fun _ => ⟨_, rep.value, ?_, ?_⟩⟩
  · refine Precision.holds_of_le (few.trans (by decide)) (le_refl _) ?_
    exact (mul_zpow_lt_of_lt (k := 24) (by omega) _).trans_le (zpow_mono (by decide))
  · refine (roundsTo_relative rounds ?_).trans (part_le pos (k := 21) (by decide))
    exact large.le

/-- The magnitude rounded to single, of a value that is not too small. -/
theorem roundTo_single_near (hv : v.StandsFor a) (large : (2 : ℝ) ^ (-128 : ℤ) < a) :
    (roundTo .single mode oe false v).NearSingle v.neg a := by
  obtain range | tiny := le_or_gt ((2 : ℝ) ^ (-126 : ℤ)) a
  · exact roundTo_single_normal hv range
  · exact roundTo_single_tiny hv large tiny

end

/-! ## The estimates (O51) -/

section
variable {b y w : Dword} {f : Word} {fr fi : Bool}

/-- A number of the sign of `x` and near to its reciprocal is an estimate. -/
theorem nearReciprocal_of_valueIs {z : ℝ} (hb : isNumber b = true) (nonzero : numberOf b ≠ 0) (hw : valueIs w b.msb z)
    (single : singleRepresentable w = true) (near : |z * |((numberOf b : ℚ) : ℝ)| - 1| ≤ 1 / 256) : NearReciprocal (numberOf b) w := by
  obtain ⟨number, -, value⟩ := hw
  rw [nearReciprocal_cast]
  refine ⟨number, single, ?_⟩
  have magnitude : |((numberOf b : ℚ) : ℝ)| = if b.msb then -(numberOf b : ℝ) else (numberOf b : ℝ) := by
    have sign := numberOf_neg_iff hb nonzero
    rw [← Rat.cast_lt_zero (K := ℝ)] at sign
    split
    · next neg => exact abs_of_neg (sign.mpr neg)
    · next plus => exact abs_of_nonneg (not_lt.mp fun neg => plus (sign.mp neg))
  rw [value]
  rw [magnitude] at near
  cases msb : b.msb <;> rw [msb] at near
  · exact near
  · rw [if_pos rfl] at near ⊢
    rwa [neg_mul, ← mul_neg]

/-- Wherever some single is near to the reciprocal, and the rounded reciprocal overflows, the largest single is near. -/
theorem nearReciprocal_greatest (hb : isNumber b = true) (nonzero : numberOf b ≠ 0) (hy : NearReciprocal (numberOf b) y)
    (above : greatestSingleUnits * 2 ^ (104 : ℤ) < |((numberOf b : ℚ) : ℝ)|⁻¹) :
    NearReciprocal (numberOf b) (greatestSingle b.msb) := by
  obtain ⟨number, single, near⟩ := nearReciprocal_cast.mp hy
  have pos : 0 < |((numberOf b : ℚ) : ℝ)| := abs_pos.mpr (Rat.cast_ne_zero.mpr nonzero)
  have some : numberOf y ≠ 0 := by
    intro zero
    rw [zero, Rat.cast_zero, zero_mul, zero_sub, abs_neg, abs_one] at near
    norm_num at near
  obtain ⟨-, low, -⟩ := (near_one_iff (Rat.cast_ne_zero.mpr nonzero) (Rat.cast_ne_zero.mpr some)).mp near
  have below := le_greatestSingle (single_holds number single)
  obtain ⟨single', value⟩ := greatestSingle_value b.msb
  refine nearReciprocal_of_valueIs hb nonzero value single' ?_
  have high : (greatestSingleUnits : ℝ) * 2 ^ (104 : ℤ) * |((numberOf b : ℚ) : ℝ)| < 1 := by
    calc _ < |((numberOf b : ℚ) : ℝ)|⁻¹ * |((numberOf b : ℚ) : ℝ)| := mul_lt_mul_of_pos_right above pos
      _ = 1 := inv_mul_cancel₀ pos.ne'
  have least : 255 / 256 ≤ (greatestSingleUnits : ℝ) * 2 ^ (104 : ℤ) * |((numberOf b : ℚ) : ℝ)| := by
    calc 255 / 256 ≤ |((numberOf b : ℚ) : ℝ)| * |((numberOf y : ℚ) : ℝ)| := low
      _ = |((numberOf y : ℚ) : ℝ)| * |((numberOf b : ℚ) : ℝ)| := mul_comm _ _
      _ ≤ _ := mul_le_mul_of_nonneg_right below pos.le
  rw [abs_le]
  constructor <;> linarith

/-- The value that `fres` gives. -/
theorem reciprocal_near (hb : isNumber b = true) (single : singleRepresentable b = true) (nonzero : numberOf b ≠ 0)
    (some : ∃ y, NearReciprocal (numberOf b) y) :
    ∃ w, (reciprocal f y fr fi (finiteOf b)).value = .some w ∧ NearReciprocal (numberOf b) w := by
  obtain ⟨y', hy'⟩ := some
  have pos : 0 < |((numberOf b : ℚ) : ℝ)| := abs_pos.mpr (Rat.cast_ne_zero.mpr nonzero)
  have stands : (exactOne.div (finiteOf b)).StandsFor |((numberOf b : ℚ) : ℝ)|⁻¹ := by
    have quotient := Exact.div_standsFor (v := exactOne) (by decide)
      (finiteOf_mant_pos (classify_of_number hb nonzero).1) (finiteOf_mant_lt b)
    have one : exactOne.magnitude = 1 := by norm_num [exactOne, Exact.magnitude]
    rwa [one, finiteOf_magnitude hb nonzero, one_div] at quotient
  have large : (2 : ℝ) ^ (-128 : ℤ) < |((numberOf b : ℚ) : ℝ)|⁻¹ := by
    rw [zpow_neg]
    exact inv_strictAnti₀ pos (single_holds hb single).1
  obtain ⟨above, near⟩ := roundTo_single_near (mode := roundMode f) (oe := fpscrOe f) stands large
  have sign : (exactOne.div (finiteOf b)).neg = b.msb := (Bool.false_bne _).trans (finiteOf_neg b)
  rw [sign] at near
  have good := goodReciprocal_iff hb nonzero
  have within : ((roundTo .single (roundMode f) (fpscrOe f) false (exactOne.div (finiteOf b))).ox &&
      !goodReciprocal (finiteOf b) 0 (greatestSingle b.msb)) = false := by
    cases ox : (roundTo .single (roundMode f) (fpscrOe f) false (exactOne.div (finiteOf b))).ox with
    | false => rfl
    | true => rw [(good _).mpr (nearReciprocal_greatest hb nonzero hy' (above ox))]; rfl
  refine ⟨_, rfl, ?_⟩
  simp only [finiteOf_neg, within, Bool.false_and, Bool.false_eq_true, if_false, Bool.not_false, Bool.and_true]
  split
  · next taken => exact (good y).mp taken
  split
  · next ox => exact nearReciprocal_greatest hb nonzero hy' (above ox)
  · next ox =>
    obtain ⟨z, value, holds, close⟩ := near (Bool.eq_false_of_not_eq_true ox)
    have magnitude : |((numberOf _ : ℚ) : ℝ)| = |z| := abs_numberOf_of_valueIs value
    have nonneg : 0 ≤ z := by
      have := abs_le.mp close
      have := inv_pos.mpr pos
      linarith
    refine nearReciprocal_of_valueIs hb nonzero value ?_ ?_
    · refine singleRepresentable_of_holds value.1 ?_
      rwa [magnitude, abs_of_nonneg nonneg]
    · have scaled : z * |((numberOf b : ℚ) : ℝ)| - 1 = (z - |((numberOf b : ℚ) : ℝ)|⁻¹) * |((numberOf b : ℚ) : ℝ)| := by
        rw [sub_mul, inv_mul_cancel₀ pos.ne']
      rw [scaled, abs_mul, abs_abs]
      calc _ ≤ |((numberOf b : ℚ) : ℝ)|⁻¹ / 256 * |((numberOf b : ℚ) : ℝ)| := mul_le_mul_of_nonneg_right close pos.le
        _ = 1 / 256 := by rw [div_mul_eq_mul_div, inv_mul_cancel₀ pos.ne']

/-- The rounded reciprocal square root. -/
theorem nearRsqrt_rounded (hb : isNumber b = true) (pos : 0 < numberOf b) (mode : RoundMode) :
    NearRsqrt (numberOf b) (roundTo .double mode false false (finiteOf b).rsqrt).value := by
  have pos' : (0 : ℝ) < numberOf b := Rat.cast_pos.mpr pos
  have stands := Exact.rsqrt_standsFor (finiteOf_mant_pos (classify_of_number hb pos.ne').1) (finiteOf_mant_lt b)
  rw [finiteOf_magnitude hb pos.ne', abs_of_pos pos'] at stands
  have square : Real.sqrt (numberOf b : ℝ)⁻¹ ^ 2 * (numberOf b : ℝ) = 1 := by
    rw [Real.sq_sqrt (inv_pos.mpr pos').le, inv_mul_cancel₀ pos'.ne']
  have holds := double_holds hb
  rw [abs_of_pos pos'] at holds
  have low : (2 : ℝ) ^ Precision.double.minExp ≤ Real.sqrt (numberOf b : ℝ)⁻¹ := by
    refine Real.le_sqrt_of_sq_le ((two_zpow_sq _).trans_le ?_)
    rw [le_inv_comm₀ (two_zpow_pos _) pos', ← zpow_neg]
    exact holds.1.le.trans (zpow_mono (by decide))
  have high : Real.sqrt (numberOf b : ℝ)⁻¹ < 2 ^ Precision.double.maxExp := by
    refine (Real.sqrt_lt' (two_zpow_pos _)).mpr (lt_of_lt_of_eq ?_ (two_zpow_sq _).symm)
    rw [inv_lt_comm₀ pos' (two_zpow_pos _), ← zpow_neg]
    exact (zpow_lt_zpow_right₀ one_lt_two (by decide)).trans_le (holds.least pos')
  obtain ⟨n, rounds, rep⟩ := roundTo_inside (mode := mode) (oe := false) (ue := false) stands low high
  generalize Real.sqrt (numberOf b : ℝ)⁻¹ = a at *
  have root : 0 < a := (two_zpow_pos _).trans_le low
  have reach := (stands.exponent root).1
  have close := roundsTo_relative (k := 52) rounds (by
    rw [show ((52 : ℕ) : ℤ) = ((Precision.double.bits : ℕ) : ℤ) - 1 from rfl, add_sub_cancel]
    exact reach)
  obtain ⟨-, ⟨number, -, value⟩, -⟩ := rep
  generalize (n : ℝ) * 2 ^ ((finiteOf b).rsqrt.exponent - (Precision.double.bits - 1)) = z at *
  rw [show (finiteOf b).rsqrt.neg = false from rfl, if_neg Bool.false_ne_true] at value
  rw [nearRsqrt_cast, value]
  have part : a / 2 ^ 52 ≤ a / 32 := div_le_div_of_nonneg_left root.le (by norm_num) (by norm_num)
  obtain ⟨below, above⟩ := abs_le.mp (close.trans part)
  have least : 31 / 32 * a ≤ z := by linarith
  have most : z ≤ 33 / 32 * a := by linarith
  have positive : 0 < z := (by positivity : 0 < 31 / 32 * a).trans_le least
  refine ⟨number, positive, ?_, ?_⟩
  · calc (31 / 32 : ℝ) ^ 2 = (31 / 32 * a) ^ 2 * numberOf b := by rw [mul_pow, mul_assoc, square, mul_one]
      _ ≤ z ^ 2 * numberOf b := mul_le_mul_of_nonneg_right (pow_le_pow_left₀ (by positivity) least 2) pos'.le
  · calc z ^ 2 * numberOf b ≤ (33 / 32 * a) ^ 2 * numberOf b :=
          mul_le_mul_of_nonneg_right (pow_le_pow_left₀ positive.le most 2) pos'.le
      _ = (33 / 32 : ℝ) ^ 2 := by rw [mul_pow, mul_assoc, square, mul_one]

end

theorem estimates_hold : estimates := by
  intro s d b rc on number x
  refine ⟨fun has single nonzero some => ?fres, fun has pos => ?frsqrte⟩
  case fres =>
    have singles : [s.getFpr b].all singleRepresentable = true := by simp [single]
    have ends := endsWith_single_bound rfl singles (exec_optional (i := .fresx d b rc) on has rfl rfl rfl)
    rw [resOut_eq, withOperands_plain (any_isNan_singleton (isNan_of_isNumber number)),
      (classify_of_number number nonzero).2] at ends
    obtain ⟨t, next, stands⟩ := ends.stands
    obtain ⟨w, value, near⟩ := reciprocal_near (fr := (estimateBits s).getMsbD 0) (fi := (estimateBits s).getMsbD 1)
      (f := s.fpscr) (y := s.draw 64) number single nonzero some
    refine ⟨t, next, ?_⟩
    have result : t.getFpr d = w := stands.value.trans (congrArg (Option.getD · _) value)
    rw [result]
    exact near
  case frsqrte =>
    have nonzero : numberOf (s.getFpr b) ≠ 0 := pos.ne'
    have plus : (s.getFpr b).msb = false :=
      Bool.eq_false_iff.mpr fun neg => pos.not_gt ((numberOf_neg_iff number nonzero).mpr neg)
    have ends := endsWith_double_bound rfl (exec_optional (i := .frsqrtex d b rc) on has rfl rfl rfl)
    rw [rsqrteOut_eq, bitIf_rootInvalid, rootBits_of_plus plus,
      withOperands_plain (any_isNan_singleton (isNan_of_isNumber number)), (classify_of_number number nonzero).2] at ends
    obtain ⟨t, next, stands⟩ := ends.stands
    refine ⟨t, next, ?_⟩
    rw [stands.value]
    change NearRsqrt (numberOf (s.getFpr b)) (ite _ _ _)
    split
    · next taken => exact nearRsqrt_of_good number pos taken
    · exact nearRsqrt_rounded number pos _

/-- Settles O51: the effects of `fp_finish`, and the bounds of the estimates. -/
theorem floatArithmetic : Obligations.FloatArithmetic := by
  unfold Obligations.FloatArithmetic
  exact ⟨arithmetic_effects, estimates_hold⟩

end Sys2Proof.Machine
end

section
/-!
PROOFS. The sign rules (43_float_arithmetic R316, R317, R331 to R334) under the reference arithmetic: subtraction adds the operand with
its sign inverted, and the negative multiply-adds negate what is no NaN.
-/

namespace Sys2Proof.Machine

/-! ## Outcomes that differ in FPRF alone -/

/-- Outside FPRF, bits 15 to 19, the words are the same. -/
def AgreeButFprf (f g : Word) : Prop := ∀ k < 32, k < 15 ∨ 19 < k → f.getMsbD k = g.getMsbD k

section
variable {f g m : Word} {out out' : FpOut}

theorem AgreeButFprf.refl (f : Word) : AgreeButFprf f f := fun _ _ _ => rfl

/-- The same under a mask that leaves FPRF out. -/
theorem AgreeButFprf.masked (h : AgreeButFprf f g) (hm : m &&& 0x1F000 = 0) : f &&& m = g &&& m := by
  apply eq_of_getMsbD
  intro k hk
  rw [BitVec.getMsbD_and, BitVec.getMsbD_and]
  by_cases fprf : k < 15 ∨ 19 < k
  · rw [h k hk fprf]
  · have inside : ∀ k : Fin 32, ¬ (k.val < 15 ∨ 19 < k.val) → (0x1F000 : Word).getMsbD k.val = true := by decide
    have off : m.getMsbD k = false := by
      have bit := congrArg (·.getMsbD k) hm
      rw [BitVec.getMsbD_and, inside ⟨k, hk⟩ fprf, Bool.and_true] at bit
      exact bit.trans BitVec.getMsbD_zero
    rw [off, Bool.and_false, Bool.and_false]

theorem AgreeButFprf.summary (h : AgreeButFprf f g) : AgreeButFprf (fpscrSummary f) (fpscrSummary g) := by
  have vx : fpscrVx f = fpscrVx g := by rw [fpscrVx, fpscrVx, h.masked (m := 0x01F80700) (by decide)]
  have bit {k : Nat} (hk : k < 32) (out : k < 15 ∨ 19 < k) := h k hk out
  intro k hk out
  rw [fpscrSummary_getMsbD _ _ hk, fpscrSummary_getMsbD _ _ hk, vx, bit hk out]
  simp only [fpscrFex, bit (k := 3) (by decide) (by decide), bit (k := 4) (by decide) (by decide),
    bit (k := 5) (by decide) (by decide), bit (k := 6) (by decide) (by decide), bit (k := 24) (by decide) (by decide),
    bit (k := 25) (by decide) (by decide), bit (k := 26) (by decide) (by decide), bit (k := 27) (by decide) (by decide),
    bit (k := 28) (by decide) (by decide)]

theorem AgreeButFprf.withFx (h : AgreeButFprf f g) (before : Word) : AgreeButFprf (withFx before f) (withFx before g) := by
  have fresh : f &&& ~~~ before &&& fpscrExceptions = g &&& ~~~ before &&& fpscrExceptions := by
    have apart : ~~~ before &&& fpscrExceptions &&& 0x1F000 = 0 := by
      rw [BitVec.and_assoc, show fpscrExceptions &&& 0x1F000 = 0 by decide]
      exact BitVec.and_zero
    rw [BitVec.and_assoc, BitVec.and_assoc]
    exact h.masked apart
  intro k hk out
  by_cases fx : k = 0
  · subst fx
    rw [withFx_fx, withFx_fx, fresh, h 0 hk out]
  · rw [withFx_getMsbD _ hk fx, withFx_getMsbD _ hk fx, h k hk out]

/-- Outputs that raise the same and have the same FR and FI leave the same FPSCR but for FPRF. -/
theorem agreeButFprf_fpscr (raised : out.raised = out'.raised) (fr : out.fr = out'.fr) (fi : out.fi = out'.fi) (f : Word) :
    AgreeButFprf (fpscrSummary (out.fpscr f)) (fpscrSummary (out'.fpscr f)) := by
  rw [FpOut.fpscr, FpOut.fpscr, raised, fr, fi]
  refine (AgreeButFprf.withFx (fun k hk out => ?_) f).summary
  rw [putFprf_getMsbD _ hk out, putFprf_getMsbD _ hk out]

end

section
variable {s : State} {d : BitVec 5} {rc : Bool} {out out' : FpOut} {r r' : Result} {mask : Word} {p : Dword → Dword → Prop}

/-- The pc after an operation: the vector of the enabled exception, or the next instruction. -/
def niaAfter (s : State) (raised : Word) : Dword :=
  if enabledAmong s.fpscr raised && s.fe then (enter (.program .fpEnabled) s.nia s).nia else s.nextPc

theorem EndsWith.nia {t : State} (h : EndsWith s d rc out r) (next : r = .next t) : t.nia = niaAfter s out.raised := by
  obtain ⟨single, n, rfl⟩ := h
  unfold niaAfter
  cases taken : enabledAmong s.fpscr out.raised && s.fe with
  | false =>
    have done := (fpFinish_done (d := d) (single := single) (rc := rc) (s := { s with draws := n })
      (Bool.and_eq_false_iff.mp taken)).symm.trans next
    rw [Host.Outcome.next.injEq] at done
    rw [← done]
    rfl
  | true =>
    obtain ⟨enabled, fe⟩ := (Bool.and_eq_true ..).mp taken
    have raised := (fpFinish_raise (d := d) (single := single) (rc := rc) (s := { s with draws := n }) enabled fe).symm.trans next
    rw [Host.Outcome.next.injEq] at raised
    rw [← raised, enter_nia, fpUpdate_eq]
    rfl

/-- Two instructions that end in `fp_finish`, of states with the same control registers, have the same outcome where their outputs
do. -/
theorem sameOutcome_of_ends {file : Vector Dword 32} {tags : Vector Bool 32} (ends : EndsWith s d rc out r)
    (ends' : EndsWith { s with fpr := file, fprSingle := tags } d rc out' r') (raised : out.raised = out'.raised)
    (value : p (out.value.getD (s.getFpr d)) (out'.value.getD (file.get d.toFin)))
    (fpscr : fpscrSummary (out.fpscr s.fpscr) &&& mask = fpscrSummary (out'.fpscr s.fpscr) &&& mask)
    (agree : AgreeButFprf (fpscrSummary (out.fpscr s.fpscr)) (fpscrSummary (out'.fpscr s.fpscr))) :
    sameOutcome d mask p r r' := by
  obtain ⟨t, next, stands⟩ := ends.stands
  obtain ⟨t', next', stands'⟩ := ends'.stands
  refine ⟨t, t', next, next', ?_, ?_, ?_, ?_⟩
  · rw [stands.value, stands'.value]
    exact value
  · rw [stands.fpscr, stands'.fpscr]
    exact fpscr
  · have field : slice 4 t.fpscr 0 = slice 4 t'.fpscr 0 := by
      rw [stands.fpscr, stands'.fpscr]
      apply eq_of_getMsbD
      intro k hk
      rw [slice_getMsbD 4 _ _ _ (by decide) hk, slice_getMsbD 4 _ _ _ (by decide) hk]
      exact agree _ (by omega) (by omega)
    rw [stands.cr1.1, stands'.cr1.1, field]
    rfl
  · rw [ends.nia next, ends'.nia next', raised]
    rfl

end

/-! ## Subtraction -/

section
variable {a b : Dword}

theorem singleRepresentable_xor_sign (d : Dword) : singleRepresentable (d ^^^ 0x8000000000000000) = singleRepresentable d := by
  obtain ⟨-, exp, frac⟩ := xor_sign_fields d
  simp only [singleRepresentable, magnitude_zero_iff, exp, frac]

/-- Inverting the sign bit negates what is no NaN. -/
theorem classify_xor_sign (nan : isNan b = false) : classify (b ^^^ 0x8000000000000000) = (classify b).negate := by
  obtain ⟨sign, exp, frac⟩ := xor_sign_fields b
  simp only [classify, isNan_xor_sign, nan, magnitude_zero_iff, exp, frac, sign, Bool.false_eq_true, if_false]
  split_ifs <;> rfl

/-- Steps 1 to 3 of R313 see of the operands only their NaNs. -/
theorem withOperands_congr {used used' : List Dword} (any : used.any isNan = used'.any isNan)
    (snan : used.any isSnan = used'.any isSnan) (leading : used.find? isNan = used'.find? isNan) (p : Precision) (f invalid : Word)
    (k : FpOut) : withOperands p f used invalid k = withOperands p f used' invalid k := by
  simp only [withOperands, chooseNan, any, snan, leading]

theorem addOut_xor_sign (nan : isNan b = false) (p : Precision) (f : Word) (u : Dword) :
    addOut p true f u a b = addOut p false f u a (b ^^^ 0x8000000000000000) := by
  have inverted := (isNan_xor_sign b).trans nan
  have quiet {d : Dword} (h : isNan d = false) : isSnan d = false := by rw [isSnan, h, Bool.false_and]
  have same : addend true b = addend false (b ^^^ 0x8000000000000000) := (classify_xor_sign nan).symm
  rw [addOut_eq, addOut_eq, same]
  refine withOperands_congr ?_ ?_ ?_ ..
  · simp only [List.any_cons, List.any_nil, nan, inverted]
  · simp only [List.any_cons, List.any_nil, quiet nan, quiet inverted]
  · simp only [List.find?_cons, List.find?_nil, nan, inverted]

end

section
variable {s : State} {a b d e : BitVec 5} {rc tag : Bool}

/-- An operation with operands that are no singles is undefined, whatever it is. -/
theorem endsWith_undefined {used : List Dword} {affected : Word} {op : FpOp} {x : FpOperands} {out : Word → Dword → FpOut}
    {r : Result} (some : used.all singleRepresentable = false) (h : r = runSingle d rc used affected op x out s) :
    EndsWith s d rc ((FpOut.undefined (s.draw 64) (s.drew.draw 32)).within affected) r := by
  refine ⟨true, s.draws + 2, h.trans ?_⟩
  rw [runSingle_eq, singleOut, if_neg (by rw [some]; exact Bool.false_ne_true)]

theorem fsubs_undefined (on : s.fpOn = true) (some : [s.getFpr a, s.getFpr b].all singleRepresentable = false) :
    EndsWith s d rc ((FpOut.undefined (s.draw 64) (s.drew.draw 32)).within affectedAdd) (exec (.fsubsx d a b rc) s) :=
  endsWith_undefined some (exec_float on rfl rfl rfl)

theorem fadds_undefined (on : s.fpOn = true) (some : [s.getFpr a, s.getFpr b].all singleRepresentable = false) :
    EndsWith s d rc ((FpOut.undefined (s.draw 64) (s.drew.draw 32)).within affectedAdd) (exec (.faddsx d a b rc) s) :=
  endsWith_undefined some (exec_float on rfl rfl rfl)

theorem fsub_eq_fadd (on : s.fpOn = true) (ref : s.cfg.fpResult = .reference) (nan : isNan (s.getFpr b) = false) (hea : e ≠ a)
    (hed : e ≠ d) :
    let s' := s.setFpr e (s.getFpr b ^^^ 0x8000000000000000) tag
    let same := sameOutcome d (BitVec.allOnes 32) (fun v w => v = w)
    same (exec (.fsubx d a b rc) s) (exec (.faddx d a e rc) s') ∧ same (exec (.fsubsx d a b rc) s) (exec (.faddsx d a e rc) s') := by
  intro s' same
  have readE : s'.getFpr e = s.getFpr b ^^^ 0x8000000000000000 := by rw [State.setFpr_getFpr, if_pos rfl]
  have readA : s'.getFpr a = s.getFpr a := by rw [State.setFpr_getFpr, if_neg hea.symm]
  have readD : s'.getFpr d = s.getFpr d := by rw [State.setFpr_getFpr, if_neg hed.symm]
  have outcome {out : FpOut} {r r' : Result} (ends : EndsWith s d rc out r) (ends' : EndsWith s' d rc out r') : same r r' :=
    sameOutcome_of_ends ends ends' rfl (congrArg (out.value.getD ·) readD.symm) rfl (.refl _)
  obtain ⟨sub, subs⟩ := fsub_ends (a := a) (b := b) d rc on ref
  obtain ⟨add, adds⟩ := fadd_ends (s := s') (a := a) (b := e) d rc on ref
  simp only [readA, readE, ← addOut_xor_sign nan] at add adds
  refine ⟨outcome sub add, ?_⟩
  have singles : [s'.getFpr a, s'.getFpr e].all singleRepresentable = [s.getFpr a, s.getFpr b].all singleRepresentable := by
    simp only [List.all_cons, List.all_nil, readA, readE, singleRepresentable_xor_sign]
  cases single : [s.getFpr a, s.getFpr b].all singleRepresentable with
  | true =>
    refine outcome (subs single) (adds ?_)
    rw [← readA, ← readE]
    exact singles.trans single
  | false => exact outcome (fsubs_undefined on single) (fadds_undefined (s := s') on (singles.trans single))

end

/-! ## Negative multiply-adds -/

/-- The output `out` negates `out'`, FPRF being the class of its own value. -/
structure FpOut.Negates (out out' : FpOut) : Prop where
  raised : out.raised = out'.raised
  fr : out.fr = out'.fr
  fi : out.fi = out'.fi
  value : ∃ v w, out.value = some v ∧ out'.value = some w ∧ negated v w
  fprf : out.fprf = out.value.map fprfOf

/-- What is finite in the value is not zero. -/
def FpVal.Nonzero (x : FpVal) : Prop := ∀ v, x = .finite v → v.mant ≠ 0

section
variable {d : Dword} {x y : FpVal}

theorem fracField_ne_zero (h : d.getMsbD 12 = true) : fracField d ≠ 0 := by
  intro zero
  have frac : slice 52 d 12 = 0 := BitVec.eq_of_toNat_eq zero
  have bit := slice_getMsbD 52 d 12 0 (by decide) (by decide)
  rw [frac, h] at bit
  exact absurd bit (by decide)

theorem isNan_of_bits (exp : slice 11 d 1 = 0x7FF) (quiet : d.getMsbD 12 = true) : isNan d = true :=
  isNan_iff.mpr ⟨congrArg BitVec.toNat exp, fracField_ne_zero quiet⟩

theorem isNan_quietNan (p : Precision) (h : isNan d = true) : isNan (quietNan p d) = true := by
  have exp : slice 11 d 1 = 0x7FF := BitVec.eq_of_toNat_eq (isNan_iff.mp h).1
  rw [slice] at exp
  cases p with
  | double =>
    refine isNan_of_bits ?_ ?_
    · rw [quietNan, slice, BitVec.extractLsb'_or, exp]
      decide
    · rw [quietNan, BitVec.getMsbD_or, show (0x0008000000000000 : Dword).getMsbD 12 = true by decide, Bool.or_true]
  | single =>
    refine isNan_of_bits ?_ ?_
    · rw [quietNan, slice, BitVec.extractLsb'_and, BitVec.extractLsb'_or, exp]
      decide
    · rw [quietNan, BitVec.getMsbD_and, BitVec.getMsbD_or, show (0x0008000000000000 : Dword).getMsbD 12 = true by decide,
        Bool.or_true]
      decide

theorem isNan_chooseNan (p : Precision) (used : List Dword) : isNan (chooseNan p used) = true := by
  unfold chooseNan
  split
  · decide
  · next d found => exact isNan_quietNan p (List.find?_some found)

theorem negated_of_isNan (h : isNan d = true) : negated d d :=
  ⟨fun _ => rfl, fun number => absurd (h.symm.trans number) (by decide)⟩

theorem negated_of_not_isNan (h : isNan d = false) : negated (negateIf true d) (negateIf false d) :=
  ⟨fun nan => absurd (h.symm.trans nan) (by decide), fun _ => rfl⟩

theorem isNan_infinity (n : Bool) : isNan (infinity n) = false := by cases n <;> decide

theorem isNan_zeroOf (n : Bool) : isNan (zeroOf n) = false := by cases n <;> decide

theorem nonzero_classify (d : Dword) : (classify d).Nonzero := by
  obtain ⟨-, -, -, is⟩ | ⟨-, -, -, is⟩ | ⟨-, -, -, is⟩ | ⟨-, -, zero, is⟩ := classify_flags d <;> rw [is]
  · exact nofun
  · exact nofun
  · exact nofun
  · rintro _ ⟨rfl⟩
    exact finiteOf_mant_pos zero

theorem nonzero_addend (minus : Bool) (b : Dword) : (addend minus b).Nonzero := by
  cases minus with
  | false => exact nonzero_classify b
  | true =>
    have plain := nonzero_classify b
    rw [addend, if_pos rfl]
    cases is : classify b with
    | nan | inf | zero => exact nofun
    | finite v =>
      rintro _ ⟨rfl⟩
      exact plain v is

theorem nonzero_mul (hx : x.Nonzero) (hy : y.Nonzero) : (x.mul y).Nonzero := by
  cases x with
  | nan => exact nofun
  | inf | zero => cases y <;> exact nofun
  | finite v =>
    cases y with
    | nan | inf | zero => exact nofun
    | finite w =>
      rintro _ ⟨rfl⟩
      exact Nat.mul_ne_zero (hx v rfl) (hy w rfl)

theorem nonzero_ofInt (z : Bool) (i e : Int) : (ofInt z i e).Nonzero := by
  unfold ofInt
  split
  · exact nofun
  · next some =>
    rintro _ ⟨rfl⟩
    exact Int.natAbs_ne_zero.mpr some

theorem nonzero_add (z : Bool) (hx : x.Nonzero) (hy : y.Nonzero) : (x.add z y).Nonzero := by
  cases x with
  | nan => exact nofun
  | inf a =>
    cases y with
    | inf b => rw [FpVal.add]; split <;> exact nofun
    | nan | zero | finite => exact nofun
  | zero a =>
    cases y with
    | nan | inf | zero => exact nofun
    | finite w => exact hy
  | finite v =>
    cases y with
    | nan | inf => exact nofun
    | zero => exact hx
    | finite w => exact nonzero_ofInt _ _ _

/-- With overflow and underflow not enabled a rounded value is within the format, and no NaN. -/
theorem roundTo_plain (p : Precision) (mode : RoundMode) {v : Exact} (nonzero : v.mant ≠ 0) :
    (roundTo p mode false false v).outside = false ∧ isNan (roundTo p mode false false v).value = false := by
  have hv : v.StandsFor v.magnitude := .inl rfl
  obtain ⟨low, high⟩ := hv.exponent (Exact.magnitude_pos nonzero)
  obtain ⟨one, bits, -⟩ := p.bounds
  have reported {y : ℝ} {ox ux : Bool} (rep : (roundTo p mode false false v).Reports v.neg v.magnitude y ox ux) :
      (roundTo p mode false false v).outside = false ∧ isNan (roundTo p mode false false v).value = false :=
    ⟨rep.within, isNan_of_isNumber rep.value.1⟩
  by_cases range : p.minExp ≤ v.exponent
  · have rounds := (hv.quantize mode (.inl rfl : _ ∨ v.exp + 2 ≤ v.exponent - (p.bits - 1))).1
    by_cases fits : ((quantize mode v (v.exponent - (p.bits - 1))).n : ℝ) * 2 ^ (v.exponent - (p.bits - 1)) < 2 ^ (p.maxExp + 1)
    · exact reported (roundTo_inRange hv low high range rounds fits)
    · obtain ⟨-, -, -, infinite, -⟩ := roundTo_overflow (oe := false) (ue := false) hv low high range rounds (not_lt.mp fits)
      obtain ⟨within, value⟩ := infinite rfl
      refine ⟨within, ?_⟩
      rw [value]
      split
      · exact isNan_infinity v.neg
      · cases p <;> cases v.neg <;> decide
  · have rounds := (hv.quantize mode (.inl rfl : _ ∨ v.exp + 2 ≤ p.minExp - (p.bits - 1))).1
    obtain ⟨ux, -, rep⟩ := roundTo_tiny (oe := false) rfl hv low high (not_le.mp range) rounds
    exact reported rep

end

section
variable {p : Precision} {f u : Dword} {x : FpVal} {out out' : FpOut}

theorem exact_negates {v w : Dword} (h : negated v w) (bits : Word) : (FpOut.exact v bits).Negates (FpOut.exact w bits) :=
  ⟨rfl, rfl, rfl, ⟨v, w, rfl, rfl, h⟩, rfl⟩

theorem ofValue_negates {f : Word} (oe : fpscrOe f = false) (ue : fpscrUe f = false) (nonzero : x.Nonzero) :
    (FpOut.ofValue p f u true x).Negates (FpOut.ofValue p f u false x) := by
  cases x with
  | nan => exact exact_negates (negated_of_isNan (by decide)) 0
  | inf n => exact exact_negates (negated_of_not_isNan (isNan_infinity n)) 0
  | zero n => exact exact_negates (negated_of_not_isNan (isNan_zeroOf n)) 0
  | finite v =>
    obtain ⟨within, number⟩ := roundTo_plain p (roundMode f) (nonzero v rfl)
    rw [FpOut.ofValue, FpOut.ofValue, oe, ue, FpOut.rounded, FpOut.rounded, within]
    exact ⟨rfl, rfl, rfl, ⟨_, _, rfl, rfl, negated_of_not_isNan number⟩, rfl⟩

theorem withOperands_negates {f invalid : Word} {used : List Dword} (ve : fpscrVe f = false) (h : out.Negates out') :
    (withOperands p f used invalid out).Negates (withOperands p f used invalid out') := by
  have nan (bits : Word) := exact_negates (negated_of_isNan (isNan_chooseNan p used)) bits
  simp only [withOperands, ve, Bool.false_eq_true, if_false]
  split
  · exact nan _
  · split
    · exact nan _
    · exact h

theorem maddOut_negates {f : Word} {a b c : Dword} (ve : fpscrVe f = false) (oe : fpscrOe f = false) (ue : fpscrUe f = false)
    (minus : Bool) : (maddOut p minus true f u a b c).Negates (maddOut p minus false f u a b c) := by
  rw [maddOut_eq, maddOut_eq]
  exact withOperands_negates ve (ofValue_negates oe ue
    (nonzero_add _ (nonzero_mul (nonzero_classify a) (nonzero_classify c)) (nonzero_addend minus b)))

theorem FpOut.Negates.within (h : out.Negates out') (affected : Word) : (out.within affected).Negates (out'.within affected) := by
  obtain ⟨raised, fr, fi, value, fprf⟩ := h
  exact ⟨congrArg (· &&& affected) raised, fr, fi, value, fprf⟩

end

section
variable {s : State} {d : BitVec 5} {rc : Bool} {out out' : FpOut} {r r' : Result}

theorem negates_of_ends (h : out.Negates out') (ends : EndsWith s d rc out r) (ends' : EndsWith s d rc out' r') :
    sameOutcome d (~~~ 0x1F000) negated r r' := by
  obtain ⟨raised, fr, fi, ⟨v, w, some, some', value⟩, -⟩ := h
  have agree := agreeButFprf_fpscr raised fr fi s.fpscr
  refine sameOutcome_of_ends (file := s.fpr) (tags := s.fprSingle) ends ends' raised ?_ (agree.masked (by decide)) agree
  rw [some, some']
  exact value

/-- Where invalid operation, overflow and underflow are not enabled, the enable bits are 0. -/
theorem enables_off {f : Word} (h : f &&& 0xE0 = 0) : fpscrVe f = false ∧ fpscrOe f = false ∧ fpscrUe f = false := by
  have bit {k : Nat} (hk : (0xE0 : Word).getMsbD k = true) : f.getMsbD k = false := by
    have bit := congrArg (·.getMsbD k) h
    rw [BitVec.getMsbD_and, hk, Bool.and_true] at bit
    exact bit.trans BitVec.getMsbD_zero
  exact ⟨bit (by decide), bit (by decide), bit (by decide)⟩

end

/-- Settles O54: `fsub` and `fadd` have the same output, and those of the multiply-adds negate each other. -/
theorem floatSignRules : Obligations.FloatSignRules := by
  intro s d a b c e rc tag on ref
  refine ⟨fun nan hea hed => fsub_eq_fadd on ref nan hea hed, fun disabled => ?_⟩
  obtain ⟨ve, oe, ue⟩ := enables_off disabled
  have outputs (p : Precision) (minus : Bool) (u : Dword) := (maddOut_negates (p := p) (u := u) (a := s.getFpr a)
    (b := s.getFpr b) (c := s.getFpr c) ve oe ue minus).within affectedMadd
  have double (minus : Bool) := negates_of_ends (outputs .double minus (s.draw 64)) (fmadd_ends d rc minus true on ref).1
    (fmadd_ends d rc minus false on ref).1
  have single (minus : Bool) (singles : [s.getFpr a, s.getFpr b, s.getFpr c].all singleRepresentable = true) :=
    negates_of_ends (outputs .single minus (s.draw 64)) ((fmadd_ends d rc minus true on ref).2 singles)
      ((fmadd_ends d rc minus false on ref).2 singles)
  refine ⟨double false, double true, fun are => ?singles, fun t next => ?fprf⟩
  case singles =>
    have singles : [s.getFpr a, s.getFpr b, s.getFpr c].all singleRepresentable = true := by simpa [and_assoc] using are
    exact ⟨single false singles, single true singles⟩
  case fprf =>
    have ends := (fmadd_ends (a := a) (b := b) (c := c) d rc false true on ref).1
    obtain ⟨t', next', stands⟩ := ends.stands
    have same := Host.Outcome.next.inj (next.symm.trans next')
    subst same
    obtain ⟨-, -, -, ⟨v, w, some, -, -⟩, fprf⟩ := outputs .double false (s.draw 64)
    rw [stands.fprf (within_trans (FpOut.within_raised ..) (by decide)), stands.value, fprf, some]
    rfl

end Sys2Proof.Machine
end

section
/-!
PROOFS. The instructions that write the FPSCR and CR fields alone (44_float_move_convert_fpscr R350, R361 to R368): the comparisons and
the FPSCR moves. All end alike: they complete, or take the enabled exception where FEX = 1 afterwards (log 38). What an instruction has
of its own is the bits that it writes.
-/

namespace Sys2Proof.Machine

/-! ## The end of an instruction that writes the FPSCR (R350; log 38) -/

/-- What all of them say of the state `t` that `r` leaves: nothing but the FPSCR, CR and the pc has changed, or the enabled exception
has been taken. -/
def StatusEnd (s t : State) (r : Result) : Prop :=
  sameMemory s t ∧
    ((s.fe && t.fpscr.getMsbD 1) = false → t = { s with fpscr := t.fpscr, cr := t.cr, nia := s.nextPc }) ∧
    ((s.fe && t.fpscr.getMsbD 1) = true → raisesIn (.program .fpEnabled) { s with fpscr := t.fpscr, cr := t.cr } r)

section
variable {s t u : State} {rc : Bool} {f g : Word} {r : Result} {k : Nat}

/-- The state with the writes made completes or takes the exception, and keeps what was written. -/
theorem endFex_ends (writes : u = { s with fpscr := u.fpscr, cr := u.cr }) :
    ∃ t, endFex u = .next t ∧ t.fpscr = u.fpscr ∧ t.cr = u.cr ∧ StatusEnd s t (endFex u) := by
  have fe : u.fe = s.fe := by rw [writes]; rfl
  have nia : u.nia = s.nia := by rw [writes]
  cases taken : s.fe && u.fpscr.getMsbD 1 with
  | false =>
    have ends : endFex u = .next { u with nia := u.nextPc } := by
      rw [endFex, endEnabled, fe, Bool.and_comm, taken]
      exact done_eq u
    refine ⟨_, ends, rfl, rfl, fun a => ?_, fun _ => ?_, fun on => ?_⟩
    · rw [writes]
    · rw [writes]; rfl
    · exact absurd (taken.symm.trans on) Bool.false_ne_true
  | true =>
    have ends : endFex u = .next (enter (.program .fpEnabled) u.nia u) := by
      rw [endFex, endEnabled, fe, Bool.and_comm, taken]
      rfl
    refine ⟨_, ends, enter_fpscr .., enter_cr .., fun a => ?_, fun off => ?_, fun _ => ?_⟩
    · rw [enter_mem, writes]
    · rw [enter_fpscr] at off
      exact absurd (off.symm.trans taken) Bool.false_ne_true
    · rw [ends, raisesIn, enter_fpscr, enter_cr, ← writes, nia]

/-- CR1 is recorded as well in a state with the same FPSCR and CR. -/
theorem cr1Effect_of_recorded (fpscr : t.fpscr = (u.recordCr1If rc).fpscr) (cr : t.cr = (u.recordCr1If rc).cr)
    (before : u.cr = s.cr) : cr1Effect s t rc := by
  obtain ⟨one, others⟩ := u.recordCr1If_cr1Effect rc
  have after (q : BitVec 3) : t.crField q = (u.recordCr1If rc).crField q := by rw [State.crField, cr]; rfl
  have start (q : BitVec 3) : u.crField q = s.crField q := by rw [State.crField, before]; rfl
  refine ⟨?_, fun q hq => ?_⟩
  · rw [after, one, fpscr, start]
  · rw [after, others q hq, start]

/-! ## The FPSCR bits that an instruction writes -/

theorem plainBit_iff : plainBit k = true ↔ k < 32 ∧ k ≠ 1 ∧ k ≠ 2 := by
  rw [plainBit, Bool.and_eq_true, Bool.and_eq_true, decide_eq_true_eq, bne_iff_ne, bne_iff_ne, and_assoc]

/-- The FPSCR written with the bits of `g`, its summaries recomputed. -/
theorem fpscrWritten_of_bits {f : Nat → Bool} (fpscr : t.fpscr = fpscrSummary g)
    (bits : ∀ k, plainBit k = true → g.getMsbD k = f k) : fpscrWritten t f := by
  refine ⟨fun k plain => ?_, ?_⟩
  · obtain ⟨inside, fex, vx⟩ := plainBit_iff.mp plain
    rw [fpscr, fpscrSummary_getMsbD _ _ inside, if_neg fex, if_neg vx, bits k plain]
  · rw [State.FpscrSummarised, fpscr, fpscrSummary_idem]

/-- An instruction that ends by writing the bits of `g`, CR1 and perhaps, before, another CR field. -/
theorem fpscrWriteEffect_of_endFpscr {f : Nat → Bool} {crs : State → Prop} (before : u = { s with cr := u.cr })
    (e : r = endFpscr rc g u) (bits : ∀ k, plainBit k = true → g.getMsbD k = f k)
    (fields : ∀ t : State, t.fpscr = ((u.setFpscr g).recordCr1If rc).fpscr → t.cr = ((u.setFpscr g).recordCr1If rc).cr → crs t) :
    fpscrWriteEffect s f crs r := by
  have writes : (u.setFpscr g).recordCr1If rc =
      { s with fpscr := ((u.setFpscr g).recordCr1If rc).fpscr, cr := ((u.setFpscr g).recordCr1If rc).cr } := by
    rw [State.recordCr1If_frame, before]
    rfl
  have written : ((u.setFpscr g).recordCr1If rc).fpscr = fpscrSummary g := by cases rc <;> rfl
  obtain ⟨t, next, fpscr, cr, ends⟩ := endFex_ends writes
  rw [e]
  exact ⟨t, next, fpscrWritten_of_bits (fpscr.trans written) bits, fields t fpscr cr, ends⟩

/-- The case of an instruction that writes no CR field but CR1. -/
theorem fpscrWriteEffect_of_cr1 {f : Nat → Bool} (e : r = endFpscr rc g s) (bits : ∀ k, plainBit k = true → g.getMsbD k = f k) :
    fpscrWriteEffect s f (cr1Effect s · rc) r :=
  fpscrWriteEffect_of_endFpscr rfl e bits fun _ fpscr cr => cr1Effect_of_recorded fpscr cr rfl

theorem word_zero_getMsbD (k : Nat) : (0 : Word).getMsbD k = false := BitVec.getMsbD_zero

/-! ### Fields (R364 to R366) -/

theorem field_ones_getMsbD (j : BitVec 3) (hk : k < 32) : (fieldWord j 0xF).getMsbD k = decide (k / 4 = j.toNat) := by
  have ones : ∀ i : Fin 4, (0xF : BitVec 4).getMsbD i.val = true := by decide
  rw [fieldWord_getMsbD _ _ _ hk, ones ⟨k % 4, Nat.mod_lt _ (by decide)⟩, Bool.and_true]

/-- Software writes the bits of a field but FEX and VX. -/
theorem writableField_getMsbD (j : BitVec 3) (plain : plainBit k = true) :
    (writableField j).getMsbD k = decide (k / 4 = j.toNat) := by
  have inside := (plainBit_iff.mp plain).1
  have writable : ∀ i : Fin 32, plainBit i.val = true → (~~~ 0x60000000 : Word).getMsbD i.val = true := by decide
  rw [writableField, BitVec.getMsbD_and, field_ones_getMsbD j inside, writable ⟨k, inside⟩ plain, Bool.and_true]

/-- A bit of words put together over a list. -/
theorem foldl_or_getMsbD (p : Nat → Bool) (w : Nat → Word) (l : List Nat) (m : Word) :
    (l.foldl (fun m i => if p i then m ||| w i else m) m).getMsbD k = (m.getMsbD k || l.any fun i => p i && (w i).getMsbD k) := by
  induction l generalizing m with
  | nil => rw [List.foldl_nil, List.any_nil, Bool.or_false]
  | cons i l ih =>
    rw [List.foldl_cons, ih, List.any_cons]
    cases p i
    · simp
    · simp [Bool.or_assoc]

/-- The mask of `mtfsf` selects a bit when it selects the bit's field. -/
theorem fieldMask_getMsbD (fm : BitVec 8) (plain : plainBit k = true) : (fieldMask fm).getMsbD k = fm.getMsbD (k / 4) := by
  have inside := (plainBit_iff.mp plain).1
  rw [fieldMask, foldl_or_getMsbD, word_zero_getMsbD, Bool.false_or, Bool.eq_iff_iff]
  simp only [writableField_getMsbD _ plain, List.any_eq_true, List.mem_range, Bool.and_eq_true, decide_eq_true_eq]
  constructor
  · rintro ⟨i, bound, selected, field⟩
    rw [BitVec.toNat_ofNat, Nat.mod_eq_of_lt bound] at field
    rwa [field]
  · intro selected
    refine ⟨k / 4, by omega, selected, ?_⟩
    rw [BitVec.toNat_ofNat, Nat.mod_eq_of_lt (by omega)]

/-- `mcrfs` clears FX and the exception bits of the field that it copies. -/
theorem clearedByCopy_getMsbD (j : BitVec 3) (hk : k < 32) :
    (clearedByCopy j).getMsbD k = (k / 4 == j.toNat && (k == 0 || exceptionBit k)) := by
  have listed : ∀ i : Fin 32, (fpscrExceptions ||| 0x80000000).getMsbD i.val = (i.val == 0 || exceptionBit i.val) := by decide
  rw [clearedByCopy, BitVec.getMsbD_and, field_ones_getMsbD j hk, listed ⟨k, hk⟩]
  rfl

/-! ### Single bits (R367, R368) -/

theorem writableBit_iff (i : BitVec 5) : writableBit i = true ↔ i.toNat ≠ 1 ∧ i.toNat ≠ 2 := by
  have numbers : (i = 1 ↔ i.toNat = 1) ∧ (i = 2 ↔ i.toNat = 2) := ⟨BitVec.toNat_inj.symm, BitVec.toNat_inj.symm⟩
  rw [writableBit, Bool.and_eq_true, bne_iff_ne, bne_iff_ne, ne_eq, ne_eq, numbers.1, numbers.2]

/-- `mtfsb0` clears its bit, unless that is FEX or VX. -/
theorem clearBit_getMsbD (i : BitVec 5) (plain : plainBit k = true) :
    (if writableBit i then putBit f i.toNat false else f).getMsbD k = (f.getMsbD k && k != i.toNat) := by
  obtain ⟨inside, fex, vx⟩ := plainBit_iff.mp plain
  split
  · rw [putBit_getMsbD _ _ _ _ i.isLt inside]
    by_cases same : k = i.toNat <;> simp [same]
  · next fixed =>
    rw [writableBit_iff] at fixed
    have other : k ≠ i.toNat := by omega
    simp [other]

/-- Setting a bit sets FX when the bit is an exception bit that was 0. -/
theorem setBit_fx (i : BitVec 5) : (putBit f i.toNat true &&& ~~~ f &&& fpscrExceptions != 0) =
    (exceptionBit i.toNat && !f.getMsbD i.toNat) := by
  have bit {j : Nat} (inside : j < 32) : (putBit f i.toNat true &&& ~~~ f &&& fpscrExceptions).getMsbD j =
      (decide (j = i.toNat) && !f.getMsbD j && exceptionBit j) := by
    rw [BitVec.getMsbD_and, BitVec.getMsbD_and, BitVec.getMsbD_not, putBit_getMsbD _ _ _ _ i.isLt inside,
      fpscrExceptions_getMsbD inside]
    by_cases same : j = i.toNat
    · simp [same, i.isLt]
    · cases f.getMsbD j <;> simp [same]
  rw [Bool.eq_iff_iff, bne_iff_ne, Bool.and_eq_true]
  constructor
  · intro nonzero
    by_contra off
    refine nonzero (eq_of_getMsbD _ _ fun j inside => ?_)
    rw [bit inside, word_zero_getMsbD, Bool.eq_false_iff]
    simp only [ne_eq, Bool.and_eq_true, decide_eq_true_eq]
    rintro ⟨⟨rfl, clear⟩, listed⟩
    exact off ⟨listed, clear⟩
  · rintro ⟨listed, clear⟩ zero
    have set := bit i.isLt
    rw [zero, word_zero_getMsbD, clear, listed] at set
    simp at set

/-- `mtfsb1` sets its bit, unless that is FEX or VX, and FX by the usual rule. -/
theorem setBit_getMsbD (i : BitVec 5) (plain : plainBit k = true) :
    (if writableBit i then withFx f (putBit f i.toNat true) else f).getMsbD k =
      (f.getMsbD k || k == i.toNat || (k == 0 && exceptionBit i.toNat && !f.getMsbD i.toNat)) := by
  obtain ⟨inside, fex, vx⟩ := plainBit_iff.mp plain
  have put : (putBit f i.toNat true).getMsbD k = (f.getMsbD k || k == i.toNat) := by
    rw [putBit_getMsbD _ _ _ _ i.isLt inside]
    by_cases same : k = i.toNat <;> simp [same]
  split
  · by_cases first : k = 0
    · subst first
      rw [withFx_fx, put, setBit_fx]
      rfl
    · rw [withFx_getMsbD _ inside first, put, beq_eq_false_iff_ne.mpr first, Bool.false_and, Bool.false_and, Bool.or_false]
  · next fixed =>
    rw [writableBit_iff] at fixed
    have other : k ≠ i.toNat := by omega
    have none : exceptionBit i.toNat = false := by
      have cases : i.toNat = 1 ∨ i.toNat = 2 := by omega
      obtain one | two := cases
      · rw [one]; rfl
      · rw [two]; rfl
    simp [other, none]

end

/-- Settles O60: `mffs` is a write of frD and CR1; the others write the FPSCR bit by bit and end alike. -/
theorem floatStatus : Obligations.FloatStatus := by
  unfold Obligations.FloatStatus
  intro s d b i rc fm crfd crfs imm on
  refine ⟨?mffs, ?mtfsf, ?mtfsfi, ?mtfsb0, ?mtfsb1, ?mcrfs⟩
  case mffs =>
    obtain ⟨t, next, frame, fpscr, -, value, tag, kept, cr1⟩ :=
      moveEffect_of_exec (s := s.drew) (exec_float (i := .mffsx d rc) on rfl rfl rfl) rfl
    exact ⟨t, next, frame, fpscr, by rw [value, low_joinWords], tag, kept, cr1⟩
  case mtfsf =>
    refine fpscrWriteEffect_of_cr1 (exec_float on rfl rfl rfl) fun k plain => ?_
    rw [merge_getMsbD, fieldMask_getMsbD fm plain, low_getMsbD]
  case mtfsfi =>
    refine fpscrWriteEffect_of_cr1 (exec_float on rfl rfl rfl) fun k plain => ?_
    rw [merge_getMsbD, writableField_getMsbD crfd plain, fieldWord_getMsbD _ _ _ (plainBit_iff.mp plain).1]
    by_cases field : k / 4 = crfd.toNat <;> simp [field]
  case mtfsb0 => exact fpscrWriteEffect_of_cr1 (exec_float on rfl rfl rfl) fun k plain => clearBit_getMsbD i plain
  case mtfsb1 => exact fpscrWriteEffect_of_cr1 (exec_float on rfl rfl rfl) fun k plain => setBit_getMsbD i plain
  case mcrfs =>
    refine fpscrWriteEffect_of_endFpscr (u := s.setCrField crfd (slice 4 s.fpscr (4 * crfs.toNat))) rfl
      (exec_float on rfl rfl rfl) (fun k plain => ?_) fun t _ cr => ?_
    · have inside := (plainBit_iff.mp plain).1
      rw [BitVec.getMsbD_and, BitVec.getMsbD_not, clearedByCopy_getMsbD crfs inside, decide_eq_true inside, Bool.true_and]
    · have field (q : BitVec 3) : t.crField q = if q = crfd then slice 4 s.fpscr (4 * crfs.toNat) else s.crField q := by
        rw [← State.setCrField_crField, State.crField, cr]
        rfl
      refine ⟨(field crfd).trans (if_pos rfl), fun q hq => (field q).trans (if_neg ?_)⟩
      simpa using hq

end Sys2Proof.Machine
end

section
/-!
PROOFS. The comparisons (44_float_move_convert_fpscr R361, R362): the order of doubles by their bits is the order of the numbers that
they stand for, and the FPSCR is that after an operation without a result whose FPRF keeps its class bit.
-/

namespace Sys2Proof.Machine

/-! ## The order of doubles -/

section
variable {a b d : Dword}

/-- A greater bit pattern, the sign apart, is a greater magnitude. -/
theorem abs_numberOf_strictMono (h : (slice 63 a 1).toNat < (slice 63 b 1).toNat) :
    |((numberOf a : ℚ) : ℝ)| < |((numberOf b : ℚ) : ℝ)| := by
  have fa := fracField_lt a
  have fb := fracField_lt b
  rw [magnitude_fields, magnitude_fields] at h
  rw [abs_numberOf, abs_numberOf]
  obtain lt | same : expField a < expField b ∨ expField a = expField b := by omega
  · exact abs_numberOf_lt lt
  · have units : unitExp a = unitExp b := by rw [unitExp, unitExp, same]
    have larger : significand a < significand b := by
      rw [significand, significand, same]
      split <;> omega
    rw [units]
    exact mul_lt_mul_of_pos_right (Nat.cast_lt.mpr larger) (two_zpow_pos _)

theorem abs_numberOf_congr (h : (slice 63 a 1).toNat = (slice 63 b 1).toNat) :
    |((numberOf a : ℚ) : ℝ)| = |((numberOf b : ℚ) : ℝ)| := by
  have fa := fracField_lt a
  have fb := fracField_lt b
  rw [magnitude_fields, magnitude_fields] at h
  have exp : expField a = expField b := by omega
  have frac : fracField a = fracField b := by omega
  rw [abs_numberOf, abs_numberOf, significand, significand, unitExp, unitExp, exp, frac]

theorem abs_numberOf_lt_iff :
    |((numberOf a : ℚ) : ℝ)| < |((numberOf b : ℚ) : ℝ)| ↔ (slice 63 a 1).toNat < (slice 63 b 1).toNat := by
  refine ⟨fun lt => ?_, abs_numberOf_strictMono⟩
  obtain below | same | above := lt_trichotomy (slice 63 a 1).toNat (slice 63 b 1).toNat
  · exact below
  · exact absurd (abs_numberOf_congr same) lt.ne
  · exact absurd (abs_numberOf_strictMono above) lt.not_gt

theorem abs_numberOf_pos_iff : 0 < |((numberOf d : ℚ) : ℝ)| ↔ 0 < (slice 63 d 1).toNat := by
  have none : |((numberOf 0 : ℚ) : ℝ)| = 0 := by
    rw [abs_numberOf, show significand 0 = 0 by decide, Nat.cast_zero, zero_mul]
  rw [← none]
  exact abs_numberOf_lt_iff

/-- A number is its magnitude with its sign. -/
theorem numberOf_eq_abs (d : Dword) : ((numberOf d : ℚ) : ℝ) =
    if d.msb then -|((numberOf d : ℚ) : ℝ)| else |((numberOf d : ℚ) : ℝ)| := by
  rw [abs_numberOf, numberOf_significand]
  push_cast
  cases d.msb <;> simp [signFactor]

theorem orderKey_eq (d : Dword) :
    orderKey d = if d.msb then -((slice 63 d 1).toNat : Int) else ((slice 63 d 1).toNat : Int) := rfl

/-- The order of the keys is that of the numbers; the zeros are equal. -/
theorem numberOf_lt_iff : numberOf a < numberOf b ↔ orderKey a < orderKey b := by
  have na := abs_nonneg ((numberOf a : ℚ) : ℝ)
  have nb := abs_nonneg ((numberOf b : ℚ) : ℝ)
  rw [← Rat.cast_lt (K := ℝ), numberOf_eq_abs a, numberOf_eq_abs b, orderKey_eq, orderKey_eq]
  cases a.msb <;> cases b.msb <;> simp only [Bool.false_eq_true, if_false, if_true]
  · rw [Nat.cast_lt, abs_numberOf_lt_iff]
  · exact iff_of_false (by linarith) (by omega)
  · have either : -|((numberOf a : ℚ) : ℝ)| < |((numberOf b : ℚ) : ℝ)| ↔
        0 < |((numberOf a : ℚ) : ℝ)| ∨ 0 < |((numberOf b : ℚ) : ℝ)| := by
      constructor
      · intro lt
        by_contra none
        rw [not_or, not_lt, not_lt] at none
        linarith
      · rintro (pos | pos) <;> linarith
    rw [either, abs_numberOf_pos_iff, abs_numberOf_pos_iff]
    omega
  · rw [neg_lt_neg_iff, neg_lt_neg_iff, Nat.cast_lt, abs_numberOf_lt_iff]

/-- The infinities lie outside all numbers. -/
theorem orderKey_of_infinite (h : infinite d = true) :
    orderKey d = if d.msb then -0x7FF0000000000000 else 0x7FF0000000000000 := by
  obtain ⟨exp, frac⟩ := infinite_iff.mp h
  rw [orderKey_eq, magnitude_fields, exp, frac]
  rfl

theorem orderKey_of_isNumber (h : isNumber d = true) :
    -0x7FF0000000000000 < orderKey d ∧ orderKey d < 0x7FF0000000000000 := by
  have exp := expField_lt d
  have number := isNumber_iff.mp h
  have frac := fracField_lt d
  have magnitude := magnitude_fields d
  rw [orderKey_eq]
  split <;> omega

/-! ## The code of a comparison -/

/-- The code of a comparison of keys. -/
theorem compareCode_of_ordered (na : isNan a = false) (nb : isNan b = false) :
    compareCode a b = if orderKey a < orderKey b then 8 else if orderKey b < orderKey a then 4 else 2 := by
  rw [compareCode, na, nb, Bool.or_false, if_neg Bool.false_ne_true]

theorem floatCode_nan_right (x : FpVal) : floatCode x .nan = 1 := by cases x <;> rfl

theorem floatCode_inf_number (n : Bool) {x : FpVal} (h : x.isNumber = true) : floatCode (.inf n) x = if n then 8 else 4 := by
  cases x with
  | nan | inf => cases h
  | zero | finite => rfl

theorem floatCode_number_inf (n : Bool) {x : FpVal} (h : x.isNumber = true) : floatCode x (.inf n) = if n then 4 else 8 := by
  cases x with
  | nan | inf => cases h
  | zero | finite => rfl

theorem floatCode_numbers {x y : FpVal} (hx : x.isNumber = true) (hy : y.isNumber = true) :
    floatCode x y = if x.toRat < y.toRat then 8 else if y.toRat < x.toRat then 4 else 2 := by
  cases x with
  | nan | inf => cases hx
  | zero | finite =>
    cases y with
    | nan | inf => cases hy
    | zero | finite => rfl

/-- The code of a comparison is that of the values. -/
theorem compareCode_eq (a b : Dword) : compareCode a b = floatCode (classify a) (classify b) := by
  have operand (d : Dword) : isNan d = true ∧ classify d = .nan ∨
      isNan d = false ∧ infinite d = true ∧ classify d = .inf d.msb ∨ isNan d = false ∧ isNumber d = true := by
    obtain ⟨nan, is⟩ | inf | ⟨number, -⟩ | ⟨number, -⟩ := classify_cases d
    · exact .inl ⟨nan, is⟩
    · exact .inr (.inl inf)
    · exact .inr (.inr ⟨isNan_of_isNumber number, number⟩)
    · exact .inr (.inr ⟨isNan_of_isNumber number, number⟩)
  obtain ⟨nan, is⟩ | ordered := operand a
  · rw [is, compareCode, nan, Bool.true_or, if_pos rfl]
    rfl
  obtain ⟨nan, is⟩ | ordered' := operand b
  · rw [is, floatCode_nan_right, compareCode, nan, Bool.or_true, if_pos rfl]
  obtain ⟨na, ia, isa⟩ | ⟨na, numa⟩ := ordered <;> obtain ⟨nb, ib, isb⟩ | ⟨nb, numb⟩ := ordered' <;>
    rw [compareCode_of_ordered na nb]
  · rw [isa, isb, orderKey_of_infinite ia, orderKey_of_infinite ib]
    cases a.msb <;> cases b.msb <;> rfl
  · obtain ⟨low, high⟩ := orderKey_of_isNumber numb
    rw [isa, floatCode_inf_number _ (isNumber_classify.trans numb), orderKey_of_infinite ia]
    cases a.msb <;> simp only [Bool.false_eq_true, if_false, if_true]
    · rw [if_neg (by omega), if_pos high]
    · rw [if_pos low]
  · obtain ⟨low, high⟩ := orderKey_of_isNumber numa
    rw [isb, floatCode_number_inf _ (isNumber_classify.trans numa), orderKey_of_infinite ib]
    cases b.msb <;> simp only [Bool.false_eq_true, if_false, if_true]
    · rw [if_pos high]
    · rw [if_neg (by omega), if_pos low]
  · rw [floatCode_numbers (isNumber_classify.trans numa) (isNumber_classify.trans numb), ← numberOf_eq numa, ← numberOf_eq numb]
    simp only [numberOf_lt_iff]

end

/-! ## The FPSCR after a comparison -/

section
variable {f r : Word} {c : BitVec 4} {k : Nat}

/-- A comparison as an operation without a result: FR and FI stay, and of FPRF the class bit. -/
def compareOut (f : Word) (c : BitVec 4) (raised : Word) : FpOut :=
  ⟨none, some (BitVec.ofBool (f.getMsbD 15) ++ c), f.getMsbD 13, f.getMsbD 14, raised⟩

/-- A code shifted to the bits that end with bit 19. -/
theorem shifted_getMsbD {w : Nat} (x : BitVec w) (hw : w ≤ 20) (hk : k < w) :
    (x.setWidth 32 <<< 12 : Word).getMsbD (20 - w + k) = x.getMsbD k := by
  simp only [BitVec.getMsbD_eq_getLsbD, BitVec.getLsbD_shiftLeft, BitVec.getLsbD_setWidth]
  rw [show 32 - 1 - (20 - w + k) - 12 = w - 1 - k by omega]
  simp [hk, show 20 - w + k < 32 by omega, show 32 - 1 - (20 - w + k) < 32 by omega,
    show ¬ 32 - 1 - (20 - w + k) < 12 by omega, show w - 1 - k < 32 by omega]

theorem compareFpscr_eq (hr : r &&& fpscrExceptions = r) : compareFpscr f c r = (compareOut f c r).fpscr f := by
  refine congrArg (withFx f) (eq_of_getMsbD _ _ fun k hk => ?_)
  have fpcc : ∀ k : Fin 32, (0xF000 : Word).getMsbD k.val = decide (16 ≤ k.val ∧ k.val ≤ 19) := by decide
  have fprf : ∀ k : Fin 32, (0x1F000 : Word).getMsbD k.val = decide (15 ≤ k.val ∧ k.val ≤ 19) := by decide
  have quiet (listed : exceptionBit k = false) : (f ||| r).getMsbD k = f.getMsbD k := by
    rw [BitVec.getMsbD_or, getMsbD_of_not_exceptionBit hr hk listed, Bool.or_false]
  rw [compareOut, putFprf, merge_getMsbD, merge_getMsbD, fpcc ⟨k, hk⟩, fprf ⟨k, hk⟩, putBit_getMsbD _ _ _ _ (by decide) hk,
    putBit_getMsbD _ _ _ _ (by decide) hk]
  simp only [decide_eq_true_eq]
  by_cases code : 16 ≤ k ∧ k ≤ 19
  · obtain ⟨j, rfl⟩ : ∃ j, k = 16 + j := ⟨k - 16, by omega⟩
    have four := shifted_getMsbD c (k := j) (by decide) (by omega)
    have five := shifted_getMsbD (BitVec.ofBool (f.getMsbD 15) ++ c) (k := j + 1) (by decide) (by omega)
    rw [show 20 - (1 + 4) + (j + 1) = 16 + j by omega, BitVec.getMsbD_append, if_pos (by omega), Nat.add_sub_cancel] at five
    rw [if_pos code, if_pos (by omega)]
    exact four.trans five.symm
  · rw [if_neg code]
    by_cases first : k = 15
    · subst first
      have five := shifted_getMsbD (BitVec.ofBool (f.getMsbD 15) ++ c) (k := 0) (by decide) (by decide)
      rw [if_pos (by decide), quiet (by decide)]
      refine Eq.trans ?_ five.symm
      rw [BitVec.getMsbD_append, if_neg (by decide)]
      simp
    · rw [if_neg (by omega)]
      by_cases fi : k = 14
      · rw [if_pos fi, quiet (by rw [fi]; decide), fi]
      · by_cases fr : k = 13
        · rw [if_neg fi, if_pos fr, quiet (by rw [fr]; decide), fr]
        · rw [if_neg fi, if_neg fr]

/-- What a comparison writes to the FPSCR beside the exception bits. -/
theorem compareFpscr_class (hr : r &&& fpscrExceptions = r) :
    slice 4 (fpscrSummary (compareFpscr f c r)) 16 = c ∧ slice 3 (fpscrSummary (compareFpscr f c r)) 13 = slice 3 f 13 := by
  have bit {k : Nat} (hk : k < 32) (inside : 13 ≤ k) :
      (fpscrSummary (compareFpscr f c r)).getMsbD k = ((compareOut f c r).fpscr f).getMsbD k := by
    rw [compareFpscr_eq hr, fpscrSummary_getMsbD _ _ hk, if_neg (by omega), if_neg (by omega)]
  have fprf {j : Nat} (hj : j < 5) :
      ((compareOut f c r).fpscr f).getMsbD (15 + j) = (BitVec.ofBool (f.getMsbD 15) ++ c).getMsbD j := by
    rw [← slice_getMsbD 5 _ 15 j (by decide) hj, FpOut.fpscr_fprf]
    rfl
  refine ⟨eq_of_getMsbD _ _ fun j hj => ?_, eq_of_getMsbD _ _ fun j hj => ?_⟩
  · rw [slice_getMsbD 4 _ _ _ (by decide) hj, bit (by omega) (by omega), show 16 + j = 15 + (j + 1) by omega, fprf (by omega),
      BitVec.getMsbD_append, if_pos (by omega), Nat.add_sub_cancel]
  · rw [slice_getMsbD 3 _ _ _ (by decide) hj, slice_getMsbD 3 _ _ _ (by decide) hj, bit (by omega) (by omega)]
    obtain rfl | rfl | rfl : j = 0 ∨ j = 1 ∨ j = 2 := by omega
    · exact FpOut.fpscr_fr
    · exact FpOut.fpscr_fi
    · refine (fprf (j := 0) (by decide)).trans ?_
      rw [BitVec.getMsbD_append, if_neg (by decide)]
      simp

end

/-! ## The comparisons (O59) -/

section
variable {s : State} {crfd : BitVec 3} {a b : Dword} {raised affected : Word} {r : Result}

/-- The bits that the comparisons raise. -/
theorem compareRaised_getMsbD (snan compare : Bool) :
    (bitIf snan bitVxsnan ||| bitIf compare bitVxvc).getMsbD 7 = snan ∧
      (bitIf snan bitVxsnan ||| bitIf compare bitVxvc).getMsbD 12 = compare := by
  cases snan <;> cases compare <;> decide

/-- Which comparison with a NaN is an invalid one (R362). -/
def comparesInvalid (f : Word) (a b : Dword) : Bool :=
  if isSnan a || isSnan b then !f.getMsbD 24 else isNan a || isNan b

theorem orderedRaised_eq (f : Word) (a b : Dword) :
    orderedRaised f a b = bitIf (isSnan a || isSnan b) bitVxsnan ||| bitIf (comparesInvalid f a b) bitVxvc := by
  rw [orderedRaised, comparesInvalid]
  cases isSnan a || isSnan b
  · exact BitVec.zero_or.symm
  · rfl

/-- A comparison ends with the code in the CR field and in FPCC. -/
theorem floatCompareEffect_of_end {compare : Bool} (e : r = endCompare crfd (compareCode a b) raised s)
    (bits : raised = bitIf (isSnan a || isSnan b) bitVxsnan ||| bitIf compare bitVxvc) (listed : raised &&& affected = raised)
    (page : affected &&& fpscrExceptions = affected) (invalid : compare = (affected.getMsbD 12 && comparesInvalid s.fpscr a b)) :
    floatCompareEffect s crfd a b affected r := by
  obtain ⟨snan, vc⟩ := compareRaised_getMsbD (isSnan a || isSnan b) compare
  rw [← bits] at snan vc
  have exceptions := within_trans listed page
  obtain ⟨t, next, fpscr, cr, ends⟩ :=
    endFex_ends (s := s) (u := (s.setCrField crfd (compareCode a b)).setFpscr (compareFpscr s.fpscr (compareCode a b) raised)) rfl
  obtain ⟨memory, completes, takes⟩ := ends
  have field (q : BitVec 3) : t.crField q = if q = crfd then compareCode a b else s.crField q := by
    rw [← State.setCrField_crField, State.crField, cr]
    rfl
  have written : t.fpscr = fpscrSummary (compareFpscr s.fpscr (compareCode a b) raised) := fpscr
  obtain ⟨fpcc, kept⟩ := compareFpscr_class (f := s.fpscr) (c := compareCode a b) exceptions
  rw [← written] at fpcc kept
  rw [compareFpscr_eq exceptions] at written
  rw [e, endCompare, floatCompareEffect, ← compareCode_eq]
  refine ⟨t, next, memory, completes, takes, (field crfd).trans (if_pos rfl), fun q hq => (field q).trans (if_neg ?_), fpcc, kept,
    ?_, ?_, ?_⟩
  · simpa using hq
  · rw [written]
    exact fpscrEffect_summary listed page
  · rw [written, summary_fpscr_getMsbD (by decide) (by decide) (by decide), Bool.or_assoc, ← snan]
    rfl
  · rw [written, summary_fpscr_getMsbD (by decide) (by decide) (by decide)]
    exact congrArg (s.fpscr.getMsbD 12 || ·) (vc.trans invalid)

end

/-- Settles O59: the keys that the model compares order doubles by value, and the comparisons differ in the bits that they raise. -/
theorem floatCompare : Obligations.FloatCompare := by
  unfold Obligations.FloatCompare
  intro s crfd a b on
  refine ⟨?fcmpu, ?fcmpo⟩
  case fcmpu =>
    exact floatCompareEffect_of_end (compare := false) (exec_float on rfl rfl rfl) BitVec.or_zero.symm
      (within_bitIf _ (by decide)) (by decide) rfl
  case fcmpo =>
    refine floatCompareEffect_of_end (exec_float on rfl rfl rfl) (orderedRaised_eq ..) ?_ (by decide) (Bool.true_and _).symm
    rw [orderedRaised_eq]
    exact within_or (within_bitIf _ (by decide)) (within_bitIf _ (by decide))

end Sys2Proof.Machine
end

section
/-!
PROOFS. Rounding and conversions (44_float_move_convert_fpscr R350, R355 to R360). They end as the arithmetic instructions do, but take
the enabled exception wherever FEX = 1 afterwards (log 38); what their outputs are under the reference arithmetic.
-/

namespace Sys2Proof.Machine

/-! ## The end of a rounding or conversion instruction (R350; log 38) -/

section
variable {d : BitVec 5} {single rc : Bool} {out : FpOut} {s : State} {affected : Word} {kind : FpKind} {ref : Word → FpOut}
  {b : Dword} {r : Result} {i : Instr} {n : Nat}

theorem convertFinish_done (h : s.fe = false ∨ leavesFex s.fpscr out.raised = false) :
    convertFinish d single rc out s = .next { fpUpdate d single rc out s with nia := s.nextPc } := by
  have fe : (fpUpdate d single rc out s).fe = s.fe := by rw [fpUpdate_eq]; rfl
  have off : (leavesFex s.fpscr out.raised && (fpUpdate d single rc out s).fe) = false := by
    rw [fe, Bool.and_eq_false_iff]
    exact h.symm
  rw [convertFinish, endEnabled, off]
  exact done_fpUpdate ..

theorem convertFinish_raise (fe : s.fe = true) (h : leavesFex s.fpscr out.raised = true) :
    convertFinish d single rc out s = .next (enter (.program .fpEnabled) s.nia (fpUpdate d single rc out s)) := by
  have fe' : (fpUpdate d single rc out s).fe = s.fe := by rw [fpUpdate_eq]; rfl
  have nia : (fpUpdate d single rc out s).nia = s.nia := by rw [fpUpdate_eq]
  rw [convertFinish, endEnabled, h, fe', fe, ← nia]
  rfl

/-- Where no exception is taken the end is that of an arithmetic instruction. -/
theorem convertFinish_eq_fpFinish (fe : s.fe = false) :
    convertFinish d single rc out { s with draws := n } = fpFinish d single rc out { s with draws := n } :=
  (convertFinish_done (s := { s with draws := n }) (.inl fe)).trans (fpFinish_done (s := { s with draws := n }) (.inr fe)).symm

/-- An instruction that ends so, whatever FE0 and FE1, has the effect that O58 asks of a conversion. -/
theorem convertingEffect_of_finish (on : s.fpOn = true) (hr : out.raised &&& affected = out.raised)
    (ha : affected &&& fpscrExceptions = affected)
    (e : ∀ m, State.fpOn { s with msr := m } = true →
      exec i { s with msr := m } = convertFinish d single rc out { s with msr := m, draws := n }) :
    convertingEffect s d rc affected i := by
  have full : exec i s = convertFinish d single rc out { s with draws := n } := e s.msr on
  have quiet := e (s.msr &&& ~~~ 0x900) (s.quiet_fpOn.trans on)
  have fex : (fpUpdate d single rc out { s with draws := n }).fpscr.getMsbD 1 = leavesFex s.fpscr out.raised := fpUpdate_fex ..
  have value (t : State) (ht : exec i { s with msr := s.msr &&& ~~~ 0x900 } = .next t) :
      t = { fpUpdate d single rc out { s with draws := n } with msr := s.msr &&& ~~~ 0x900, nia := s.nextPc } := by
    rw [quiet.trans (convertFinish_done (.inl s.quiet_fe)), Host.Outcome.next.injEq] at ht
    rw [← ht, ← s.quiet_nextPc, fpUpdate_eq, fpUpdate_eq]
    rfl
  have bit (t : State) (ht : exec i { s with msr := s.msr &&& ~~~ 0x900 } = .next t) :
      t.fpscr.getMsbD 1 = leavesFex s.fpscr out.raised := by rw [value t ht]; exact fex
  have takes (t : State) (ht : exec i { s with msr := s.msr &&& ~~~ 0x900 } = .next t) (fe : s.fe = true)
      (after : t.fpscr.getMsbD 1 = true) : raisesIn (.program .fpEnabled) { t with msr := s.msr, nia := s.nia } (exec i s) := by
    rw [bit t ht] at after
    refine full.trans ((convertFinish_raise (s := { s with draws := n }) fe after).trans ?_)
    rw [value t ht, fpUpdate_eq]
  refine ⟨⟨?_, fun t ht => ⟨fun off => ?_, fun fe _ after => takes t ht fe after⟩⟩, takes⟩
  · obtain ⟨t, next, frame, stands⟩ := fpFinish_completes (d := d) (single := single) (rc := rc) (out := out) (n := n)
      (s := { s with msr := s.msr &&& ~~~ 0x900 }) (.inr s.quiet_fe)
    exact ⟨t, quiet.trans ((convertFinish_eq_fpFinish s.quiet_fe).trans next), frame, stands.kept, stands.effect hr ha, stands.cr1⟩
  · rw [bit t ht] at off
    refine full.trans ((convertFinish_done (s := { s with draws := n }) off).trans ?_)
    rw [value t ht, fpUpdate_eq]
    rfl

/-- The output and the draws of a conversion, read from the state. -/
theorem convertingEffect_of_exec {out : State → FpOut} (on : s.fpOn = true) (ha : affected &&& fpscrExceptions = affected)
    (e : ∀ u : State, u.fpOn = true → u.cfg = s.cfg →
      exec i u = convertFinish d single rc (out u) { u with draws := u.draws + n })
    (hr : (out s).raised &&& affected = (out s).raised) (ho : IgnoresMsr out) : convertingEffect s d rc affected i := by
  refine convertingEffect_of_finish (single := single) (n := s.draws + n) on hr ha fun m h => ?_
  rw [e _ h rfl, ho]

/-- With floating-point exceptions not taken the instruction ends in `fp_finish`. -/
theorem endsWith_of_convertFinish (fe : s.fe = false) (e : r = convertFinish d single rc out { s with draws := n }) :
    EndsWith s d rc out r :=
  ⟨single, n, e.trans (convertFinish_eq_fpFinish fe)⟩

theorem convertResult_reference (h : s.cfg.fpResult = .reference) :
    convertResult kind affected b ref s = (ref s.fpscr).within affected := by
  rw [convertResult, h]

end

/-- The six instructions end so, and raise only what their pages list. -/
theorem converting_effects (s : State) (d b : BitVec 5) (rc : Bool) (on : s.fpOn = true) :
    convertingEffect s d rc affectedRsp (.frspx d b rc) ∧ convertingEffect s d rc affectedConvert (.fctiwx d b rc) ∧
      convertingEffect s d rc affectedConvert (.fctiwzx d b rc) ∧
      (s.cfg.impl64 = true → convertingEffect s d rc affectedConvert (.fctidx d b rc) ∧
        convertingEffect s d rc affectedConvert (.fctidzx d b rc) ∧ convertingEffect s d rc affectedCfid (.fcfidx d b rc)) := by
  have convert : affectedConvert &&& fpscrExceptions = affectedConvert := by decide
  refine ⟨?frsp, ?fctiw, ?fctiwz, fun wide => ⟨?fctid, ?fctidz, ?fcfid⟩⟩
  case frsp =>
    exact convertingEffect_of_exec (n := 1) on (by decide) (fun _ on _ => exec_float on rfl rfl rfl) (convertResult_raised ..)
      fun _ _ => rfl
  case fctiw =>
    exact convertingEffect_of_exec (n := 2) on convert (fun _ on _ => exec_float on rfl rfl rfl) (convertResult_raised ..)
      fun _ _ => rfl
  case fctiwz =>
    exact convertingEffect_of_exec (n := 2) on convert (fun _ on _ => exec_float on rfl rfl rfl) (convertResult_raised ..)
      fun _ _ => rfl
  case fctid =>
    exact convertingEffect_of_exec (n := 1) on convert (fun _ on cfg => exec_optional on (cfg ▸ wide) rfl rfl rfl)
      (convertResult_raised ..) fun _ _ => rfl
  case fctidz =>
    exact convertingEffect_of_exec (n := 1) on convert (fun _ on cfg => exec_optional on (cfg ▸ wide) rfl rfl rfl)
      (convertResult_raised ..) fun _ _ => rfl
  case fcfid =>
    exact convertingEffect_of_exec (n := 0) on (by decide) (fun _ on cfg => exec_optional on (cfg ▸ wide) rfl rfl rfl)
      (convertResult_raised ..) fun _ _ => rfl

/-! ## Rounding to single and from an integer (R355, R360) -/

section
variable {s : State} {d : BitVec 5} {rc : Bool} {b : Dword} {r : Result} {u : Dword}

/-- Infinities and zeros are the special values of their classes. -/
theorem classify_specialIs (h : (infinite b || zero b) = true) : (classify b).SpecialIs b := by
  obtain inf | zero := Bool.or_eq_true_iff.mp h
  · rw [(classify_of_infinite inf).2]
    exact infinityWith_of_infinite inf
  · rw [(classify_of_zero zero).2]
    exact zeroWith_of_zero zero

/-- `frsp` rounds what is a number. -/
theorem rsp_computes (f : Word) (h : isNumber b = true) : Computes f false ((numberOf b : ℚ) : ℝ)
    (fun p u => withOperands p f [b] 0 (.ofValue p f u false (classify b))) :=
  computes_of_toRat (isNumber_classify.trans h) (numberOf_eq h).symm
    fun _ _ => withOperands_plain (any_isNan_singleton (isNan_of_isNumber h))

/-- An instruction that computes a nonzero result, and whose page lists what rounding it raises, rounds it. -/
theorem roundedEffect_of_computes {p : Precision} {x : ℝ} {affected : Word} {out : Precision → Dword → FpOut}
    (comp : Computes s.fpscr false x out) (ends : EndsWith s d rc ((out p u).within affected) r) (fe : s.fe = false)
    (lists : x ≠ 0 → ListsRounding p s.fpscr affected |x|) : roundedEffect p.format s d rc false x r := by
  intro nonzero
  obtain ⟨v, stands, sign, rounds⟩ := comp nonzero
  rw [rounds] at ends
  exact roundedEffect_of_ends ends (lists nonzero v _ _ stands) fe stands sign nonzero

theorem roundedEffect_rsp (ends : EndsWith s d rc ((rspOut s.fpscr u b).within affectedRsp) r) (fe : s.fe = false)
    (h : isNumber b = true) : roundedEffect singleFormat s d rc false ((numberOf b : ℚ) : ℝ) r :=
  roundedEffect_of_computes (p := .single) (rsp_computes s.fpscr h) ends fe
    fun _ => listsRounding_of_page _ _ _ (by decide)

theorem specialEffect_rsp (ends : EndsWith s d rc ((rspOut s.fpscr u b).within affectedRsp) r) :
    specialEffect s d rc true [b] 0 (if infinite b || zero b then some b else none) r := by
  refine specialEffect_of_ends (single := true) ends (by decide) (by decide) (by decide) fun _ _ w value => ?_
  rw [Option.ite_none_right_eq_some] at value
  obtain ⟨special, is⟩ := value
  cases is
  exact ofValue_special (classify_specialIs special) _ _ _ false

/-- `fcfid` rounds the integer. -/
theorem cfid_computes (f : Word) (i : Int) :
    Computes f false (i : ℝ) (fun p u => .ofValue p f u false (ofInt false i 0)) := by
  have value : (ofInt false i 0).toRat = (i : ℚ) := by rw [toRat_ofInt, zpow_zero, mul_one]
  have comp := computes_of_toRat (f := f) (negate := false) (isNumber_ofInt false i 0) value fun _ _ => rfl
  rwa [Rat.cast_intCast] at comp

/-- An integer of 64 bits neither overflows nor underflows, and the page of `fcfid` lists only XX. -/
theorem listsRounding_cfid (f : Word) (nonzero : (b.toInt : ℝ) ≠ 0) : ListsRounding .double f affectedCfid |(b.toInt : ℝ)| := by
  intro v u negate hv
  have one : (1 : ℝ) ≤ |(b.toInt : ℝ)| := by
    rw [← Int.cast_abs]
    exact_mod_cast Int.one_le_abs (Int.cast_ne_zero.mp nonzero)
  have bound : |(b.toInt : ℝ)| ≤ ((2 ^ 63 : ℤ) : ℝ) := by
    rw [← Int.cast_abs, Int.cast_le, abs_le]
    exact ⟨BitVec.le_toInt b, BitVec.toInt_lt.le⟩
  have wide : ((2 ^ 63 : ℤ) : ℝ) < 2 ^ Precision.double.maxExp := by
    rw [Int.cast_pow, Int.cast_ofNat, ← zpow_natCast]
    exact zpow_lt_zpow_right₀ one_lt_two (by decide)
  have least : (2 : ℝ) ^ Precision.double.minExp ≤ 1 := zpow_le_one_of_nonpos₀ one_le_two (by decide)
  obtain ⟨n, -, rep⟩ := roundTo_inside (p := .double) (mode := roundMode f) (oe := fpscrOe f) (ue := fpscrUe f) hv
    (least.trans one) (bound.trans_lt wide)
  simp only [rounded_raised, rep.ox, rep.ux, bitIf_false, BitVec.zero_or]
  exact within_bitIf _ (by decide)

theorem roundedEffect_cfid (ends : EndsWith s d rc ((cfidOut s.fpscr b).within affectedCfid) r) (fe : s.fe = false) :
    roundedEffect doubleFormat s d rc false (b.toInt : ℝ) r :=
  roundedEffect_of_computes (p := .double) (u := 0) (cfid_computes s.fpscr b.toInt) ends fe (listsRounding_cfid s.fpscr)

/-- 0 becomes +0. -/
theorem unroundedEffect_cfid (ends : EndsWith s d rc ((cfidOut s.fpscr b).within affectedCfid) r) (h : b = 0) :
    unroundedEffect s d rc false 0 (some 0) r := by
  have plain : cfidOut s.fpscr b = FpOut.exact 0 0 := by rw [h]; rfl
  rw [plain] at ends
  exact ends.unroundedEffect ((FpOut.plain_unrounded s.fpscr 0).within BitVec.zero_and)

end

/-! ## Conversion to an integer (R356 to R359) -/

/-- The integer of this magnitude and sign. -/
def signedInt (neg : Bool) (n : ℕ) : Int := if neg then -(n : Int) else n

section
variable {mode : RoundMode} {w : Nat} {f extra affected : Word} {fprf : BitVec 5} {b v : Dword} {i : Int} {neg : Bool}

theorem outside_eq_false_iff : outside w i = false ↔ -(2 : Int) ^ (w - 1) ≤ i ∧ i < 2 ^ (w - 1) := by
  rw [outside, decide_eq_false_iff_not, not_or, not_lt, not_le]

/-- An integer of `w` bits stands in the low `w` bits. -/
theorem toInt_setWidth_ofInt (pos : 0 < w) (narrow : w ≤ 64) (h : outside w i = false) :
    ((BitVec.ofInt 64 i).setWidth w).toInt = i := by
  obtain ⟨low, high⟩ := outside_eq_false_iff.mp h
  have same : (BitVec.ofInt 64 i).setWidth w = BitVec.ofInt w i := by
    apply BitVec.eq_of_toNat_eq
    rw [BitVec.toNat_setWidth, BitVec.toNat_ofInt, BitVec.toNat_ofInt]
    have divides : ((2 ^ w : ℕ) : ℤ) ∣ ((2 ^ 64 : ℕ) : ℤ) := Int.natCast_dvd_natCast.mpr (Nat.pow_dvd_pow 2 narrow)
    rw [← Int.natCast_inj, Int.natCast_emod, Int.toNat_of_nonneg (Int.emod_nonneg _ (by decide)),
      Int.toNat_of_nonneg (Int.emod_nonneg _ (Int.natCast_ne_zero.mpr (Nat.two_pow_pos w).ne')), Int.emod_emod_of_dvd _ divides]
  rw [same, BitVec.toInt_ofInt_eq_self pos low high]

theorem saturated_eq (w : Nat) (neg : Bool) :
    saturated w neg = BitVec.ofInt 64 (if neg then -(2 : Int) ^ (w - 1) else 2 ^ (w - 1) - 1) := by
  cases neg <;> rfl

theorem toInt_saturated (pos : 0 < w) (narrow : w ≤ 64) :
    ((saturated w neg).setWidth w).toInt = if neg then -(2 : Int) ^ (w - 1) else 2 ^ (w - 1) - 1 := by
  have unit : (0 : Int) < 2 ^ (w - 1) := Int.pow_pos (by decide)
  rw [saturated_eq]
  refine toInt_setWidth_ofInt pos narrow (outside_eq_false_iff.mpr ?_)
  cases neg <;> simp only [Bool.false_eq_true, if_false, if_true] <;> omega

/-- What is no number has no integer. -/
theorem toIntegerOut_of_not_number (h : isNumber b = false) : toIntegerOut w mode f fprf b =
    convertInvalid f fprf (saturated w (isNan b || b.msb)) (if isSnan b then bitAt 7 else 0) := by
  obtain ⟨nan, is⟩ | ⟨nan, -, is⟩ | ⟨number, -⟩ | ⟨number, -⟩ := classify_cases b
  · rw [toIntegerOut, is, nan]
    rfl
  · have quiet : isSnan b = false := by rw [isSnan, nan, Bool.false_and]
    rw [toIntegerOut, is, nan, quiet]
    rfl
  · exact absurd (number.symm.trans h) (by decide)
  · exact absurd (number.symm.trans h) (by decide)

/-- A number is rounded to an integer, which may be out of range. -/
theorem toIntegerOut_of_number (w : Nat) (mode : RoundMode) (f : Word) (fprf : BitVec 5) (h : isNumber b = true) :
    ∃ (n : ℕ) (fr fi : Bool), roundsTo mode b.msb |((numberOf b : ℚ) : ℝ)| n ∧
      (fr = true ↔ |((numberOf b : ℚ) : ℝ)| < n) ∧ (fi = true ↔ |((numberOf b : ℚ) : ℝ)| ≠ n) ∧
      toIntegerOut w mode f fprf b =
        if outside w (signedInt b.msb n) then convertInvalid f fprf (saturated w b.msb) 0
        else ⟨some (BitVec.ofInt 64 (signedInt b.msb n)), some fprf, fr, fi, bitIf fi bitXx⟩ := by
  by_cases zero : numberOf b = 0
  · obtain ⟨n, is⟩ := classify_of_number_zero h zero
    have inside : outside w (signedInt b.msb 0) = false := by
      have unit : (0 : Int) < 2 ^ (w - 1) := Int.pow_pos (by decide)
      rw [outside_eq_false_iff, signedInt]
      split <;> omega
    have none : BitVec.ofInt 64 (signedInt b.msb 0) = 0 := by cases b.msb <;> rfl
    rw [zero, Rat.cast_zero, abs_zero]
    refine ⟨0, false, false, ?_, by simp, by simp, ?_⟩
    · exact_mod_cast roundsTo_natCast mode b.msb 0
    · rw [toIntegerOut, is, inside, none]
      rfl
  · obtain ⟨-, is⟩ := classify_of_number h zero
    have magnitude := finiteOf_magnitude h zero
    obtain ⟨rounds, inexact, up⟩ :=
      Exact.StandsFor.quantize (v := finiteOf b) (.inl magnitude.symm) mode (q := 0) (.inl magnitude.symm)
    rw [zpow_zero, div_one] at rounds
    rw [zpow_zero, mul_one] at inexact up
    rw [← finiteOf_neg]
    refine ⟨_, _, _, rounds, up, inexact.trans ne_comm, ?_⟩
    rw [toIntegerOut, is]
    by_cases out : outside w (signedInt (finiteOf b).neg (quantize mode (finiteOf b) 0).n) = true
    · rw [if_pos out]
      exact if_pos (of_decide_eq_true out)
    · rw [if_neg out]
      exact if_neg fun h => out (decide_eq_true h)

end

section
variable {s t : State} {d : BitVec 5} {rc : Bool} {mode : RoundMode} {w : Nat} {extra : Word} {fprf : BitVec 5}
  {b : BitVec 5} {n : ℕ} {fr fi neg : Bool} {k : Int} {out ref : FpOut} {r : Result}

/-- The output `out` reports what `ref` does, and has its result in the low `w` bits: `fctiw` puts undefined bits above them. -/
structure FpOut.AgreesLow (w : Nat) (out ref : FpOut) : Prop where
  raised : out.raised = ref.raised
  fr : out.fr = ref.fr
  fi : out.fi = ref.fi
  value : out.value.map (BitVec.setWidth w) = ref.value.map (BitVec.setWidth w)

/-- What `t` shows of a conversion that raises `bits`, with FR and FI, and gives the integer `i`, or no result. -/
structure Converts (s t : State) (d : BitVec 5) (w : Nat) (fr fi : Bool) (bits : Word) (i : Option Int) : Prop where
  fr : t.fpscr.getMsbD 13 = fr
  fi : t.fpscr.getMsbD 14 = fi
  raises : raisesBits s t bits
  kept : i = none → t.getFpr d = s.getFpr d
  result : ∀ k, i = some k → ((t.getFpr d).setWidth w).toInt = k

theorem OutputStands.converts {i : Option Int} (stands : OutputStands s t d rc out) (agrees : out.AgreesLow w ref)
    (listed : ref.raised &&& fpscrExceptions = ref.raised) (value : ref.value.map (fun v => (v.setWidth w).toInt) = i) :
    Converts s t d w ref.fr ref.fi ref.raised i := by
  obtain ⟨raised, fr, fi, same⟩ := agrees
  have low : out.value.map (fun v => (v.setWidth w).toInt) = i := by
    have ints := congrArg (Option.map BitVec.toInt) same
    rw [Option.map_map, Option.map_map] at ints
    exact ints.trans value
  rw [← raised, ← fr, ← fi]
  refine ⟨stands.fr, stands.fi, stands.raises (raised ▸ listed), ?_, ?_⟩
  · rintro rfl
    rw [stands.value, Option.map_eq_none_iff.mp low]
    rfl
  · rintro k rfl
    obtain ⟨v, some, is⟩ := Option.map_eq_some_iff.mp low
    rw [stands.value, some]
    exact is

/-- An invalid conversion saturates, or has no result. -/
theorem OutputStands.convertsInvalid (pos : 0 < w) (narrow : w ≤ 64) (stands : OutputStands s t d rc out)
    (agrees : out.AgreesLow w (convertInvalid s.fpscr fprf (saturated w neg) extra))
    (listed : (bitAt 23 ||| extra) &&& fpscrExceptions = bitAt 23 ||| extra) :
    Converts s t d w false false (bitAt 23 ||| extra)
      (if s.fpscr.getMsbD 24 then none else some (if neg then -(2 : Int) ^ (w - 1) else 2 ^ (w - 1) - 1)) := by
  have saturates := toInt_saturated (neg := neg) pos narrow
  rw [convertInvalid, fpscrVe] at agrees
  cases ve : s.fpscr.getMsbD 24 with
  | true =>
    rw [ve] at agrees
    exact stands.converts (ref := FpOut.none (bitVxcvi ||| extra)) agrees listed rfl
  | false =>
    rw [ve] at agrees
    exact stands.converts (ref := ⟨some (saturated w neg), some fprf, false, false, bitVxcvi ||| extra⟩) agrees listed
      (congrArg some saturates)

/-- An integer in range is its own saturation. -/
theorem saturation_inside (h : outside w k = false) : k = max (-(2 : Int) ^ (w - 1)) (min (2 ^ (w - 1) - 1) k) := by
  obtain ⟨low, high⟩ := outside_eq_false_iff.mp h
  omega

/-- One out of range saturates on the side of its sign. -/
theorem saturation_outside (h : outside w (signedInt neg n) = true) :
    (if neg then -(2 : Int) ^ (w - 1) else 2 ^ (w - 1) - 1) =
      max (-(2 : Int) ^ (w - 1)) (min (2 ^ (w - 1) - 1) (signedInt neg n)) := by
  have unit : (0 : Int) < 2 ^ (w - 1) := Int.pow_pos (by decide)
  have far := of_decide_eq_true h
  cases neg <;> simp only [signedInt, Bool.false_eq_true, if_false, if_true] at far ⊢ <;> omega

/-- The integer of a number, its rounding being known. -/
theorem roundedInteger_of_number {v : Dword} (number : isNumber v = true)
    (rounds : roundsTo mode v.msb |((numberOf v : ℚ) : ℝ)| n)
    (value : k = max (-(2 : Int) ^ (w - 1)) (min (2 ^ (w - 1) - 1) (signedInt v.msb n))) : roundedInteger mode w v k := by
  refine ⟨fun nan => ?_, fun _ none => ?_, fun _ m rounds' => ?_⟩
  · exact absurd (nan.symm.trans (isNan_of_isNumber number)) (by decide)
  · exact absurd (number.symm.trans none) (by decide)
  · rw [roundsTo_unique rounds' rounds]
    exact value

/-- What is no number: the conversion is invalid. -/
theorem convertEffect_of_not_number (next : r = .next t) (number : isNumber (s.getFpr b) = false)
    (conv : Converts s t d w false false (bitAt 23 ||| if isSnan (s.getFpr b) then bitAt 7 else 0)
      (if s.fpscr.getMsbD 24 then none else
        some (if isNan (s.getFpr b) || (s.getFpr b).msb then -(2 : Int) ^ (w - 1) else 2 ^ (w - 1) - 1))) :
    convertEffect s d b w mode r := by
  refine ⟨t, next, ⟨fun _ => ⟨conv.fr, conv.fi, conv.raises⟩, fun is => ?_⟩, fun valid => ?_,
    fun ⟨_, ve⟩ => conv.kept (if_pos ve)⟩
  · exact absurd (is.symm.trans number) (by decide)
  · have value := conv.result _ (if_neg fun ve => valid ⟨.inl number, ve⟩)
    refine ⟨fun nan => ?_, fun nan _ => ?_, fun is => ?_⟩
    · rw [value, nan]
      rfl
    · rw [value, nan, Bool.false_or]
    · exact absurd (is.symm.trans number) (by decide)

/-- A number out of range: the conversion is invalid. -/
theorem convertEffect_of_outside (next : r = .next t) (number : isNumber (s.getFpr b) = true)
    (rounds : roundsTo mode (s.getFpr b).msb |((numberOf (s.getFpr b) : ℚ) : ℝ)| n)
    (far : outside w (signedInt (s.getFpr b).msb n) = true)
    (conv : Converts s t d w false false (bitAt 23)
      (if s.fpscr.getMsbD 24 then none else some (if (s.getFpr b).msb then -(2 : Int) ^ (w - 1) else 2 ^ (w - 1) - 1))) :
    convertEffect s d b w mode r := by
  refine ⟨t, next, ⟨fun none => ?_, fun _ m rounds' => ⟨fun _ => ⟨conv.fr, conv.fi, conv.raises⟩, fun inside => ?_⟩⟩,
    fun valid => ?_, fun ⟨_, ve⟩ => conv.kept (if_pos ve)⟩
  · exact absurd (number.symm.trans none) (by decide)
  · rw [roundsTo_unique rounds' rounds] at inside
    exact absurd (far.symm.trans inside) (by decide)
  · have value := conv.result _ (if_neg fun ve => valid ⟨.inr ⟨n, rounds, far⟩, ve⟩)
    exact roundedInteger_of_number number rounds (value.trans (saturation_outside far))

/-- A number in range: the integer is the rounded one, and FR, FI and XX report the rounding. -/
theorem convertEffect_of_inside (next : r = .next t) (number : isNumber (s.getFpr b) = true)
    (rounds : roundsTo mode (s.getFpr b).msb |((numberOf (s.getFpr b) : ℚ) : ℝ)| n)
    (near : outside w (signedInt (s.getFpr b).msb n) = false) (up : fr = true ↔ |((numberOf (s.getFpr b) : ℚ) : ℝ)| < n)
    (inexact : fi = true ↔ |((numberOf (s.getFpr b) : ℚ) : ℝ)| ≠ n)
    (conv : Converts s t d w fr fi (bitIf fi bitXx) (some (signedInt (s.getFpr b).msb n))) : convertEffect s d b w mode r := by
  have bits : bitIf fi bitXx = if |((numberOf (s.getFpr b) : ℚ) : ℝ)| = n then 0 else bitAt 6 := by
    by_cases exact : |((numberOf (s.getFpr b) : ℚ) : ℝ)| = n
    · rw [if_pos exact, Bool.eq_false_iff.mpr fun on => inexact.mp on exact]
      rfl
    · rw [if_neg exact, inexact.mpr exact]
      rfl
  have valid (invalid : isNumber (s.getFpr b) = false ∨ ∃ m : ℕ,
      roundsTo mode (s.getFpr b).msb |((numberOf (s.getFpr b) : ℚ) : ℝ)| m ∧
        outside w (signedInt (s.getFpr b).msb m) = true) : False := by
    obtain none | ⟨m, rounds', far⟩ := invalid
    · exact absurd (number.symm.trans none) (by decide)
    · rw [roundsTo_unique rounds' rounds] at far
      exact absurd (far.symm.trans near) (by decide)
  refine ⟨t, next, ⟨fun none => (valid (.inl none)).elim, fun _ m rounds' => ?_⟩, fun _ => ?_,
    fun ⟨invalid, _⟩ => (valid invalid).elim⟩
  · obtain rfl := roundsTo_unique rounds' rounds
    refine ⟨fun far => (valid (.inr ⟨m, rounds, far⟩)).elim, fun _ => ⟨?_, ?_, ?_⟩⟩
    · rw [conv.fr, up]
    · rw [conv.fi, inexact]
    · rw [← bits]
      exact conv.raises
  · exact roundedInteger_of_number number rounds ((conv.result _ rfl).trans (saturation_inside near))

/-- A conversion to an integer of `w` bits whose output agrees with the reference one. -/
theorem convertEffect_of_ends (pos : 0 < w) (narrow : w ≤ 64) (ends : EndsWith s d rc out r)
    (agrees : out.AgreesLow w (toIntegerOut w mode s.fpscr fprf (s.getFpr b))) : convertEffect s d b w mode r := by
  obtain ⟨t, next, stands⟩ := ends.stands
  cases number : isNumber (s.getFpr b) with
  | false =>
    rw [toIntegerOut_of_not_number number] at agrees
    refine convertEffect_of_not_number next number (stands.convertsInvalid pos narrow agrees ?_)
    exact within_or (by decide) (within_bitIf _ (by decide))
  | true =>
    obtain ⟨n, fr, fi, rounds, up, inexact, is⟩ := toIntegerOut_of_number w mode s.fpscr fprf number
    rw [is] at agrees
    cases far : outside w (signedInt (s.getFpr b).msb n) with
    | true =>
      rw [far, if_pos rfl] at agrees
      exact convertEffect_of_outside next number rounds far (stands.convertsInvalid pos narrow agrees (by decide))
    | false =>
      rw [far, if_neg Bool.false_ne_true] at agrees
      exact convertEffect_of_inside next number rounds far up inexact (stands.converts agrees (within_bitIf _ (by decide))
        (congrArg some (toInt_setWidth_ofInt pos narrow far)))

/-- The page of the conversions to an integer lists what they raise. -/
theorem toIntegerOut_listed {f : Word} {v : Dword} :
    (toIntegerOut w mode f fprf v).raised &&& affectedConvert = (toIntegerOut w mode f fprf v).raised := by
  have invalid (u : Dword) (snan : Bool) : (convertInvalid f fprf u (bitIf snan bitVxsnan)).raised &&& affectedConvert =
      (convertInvalid f fprf u (bitIf snan bitVxsnan)).raised := by
    rw [convertInvalid]
    split <;> exact within_or (by decide) (within_bitIf _ (by decide))
  unfold toIntegerOut
  split
  · exact invalid _ _
  · exact invalid _ false
  · exact BitVec.zero_and
  · dsimp only
    split
    · exact invalid _ false
    · exact within_bitIf _ (by decide)

/-- A doubleword conversion has the reference output. -/
theorem agreesLow_dword {f : Word} {v : Dword} :
    ((toIntegerOut w mode f fprf v).within affectedConvert).AgreesLow w (toIntegerOut w mode f fprf v) :=
  ⟨toIntegerOut_listed, rfl, rfl, rfl⟩

/-- A word conversion has it in the low word. -/
theorem agreesLow_word {f u : Word} {v : Dword} :
    (((toIntegerOut 32 mode f fprf v).within affectedConvert).lowWord u).AgreesLow 32 (toIntegerOut 32 mode f fprf v) := by
  refine ⟨toIntegerOut_listed, rfl, rfl, ?_⟩
  rw [FpOut.lowWord, Option.map_map]
  exact congrArg (Option.map · _) (funext fun x => low_joinWords u (low x))

end

section
variable {s : State} {d b : BitVec 5} {rc : Bool} {kind : FpKind} {mode : Word → RoundMode} {r : Result}

theorem convertEffect_word (fe : s.fe = false) (ref : s.cfg.fpResult = .reference) (e : r = convertWord d b rc kind mode s) :
    convertEffect s d b 32 (mode s.fpscr) r := by
  have ends := endsWith_of_convertFinish (n := s.draws + 2) fe e
  rw [convertResult_reference ref] at ends
  exact convertEffect_of_ends (by decide) (by decide) ends agreesLow_word

theorem convertEffect_dword (fe : s.fe = false) (ref : s.cfg.fpResult = .reference) (e : r = convertDword d b rc kind mode s) :
    convertEffect s d b 64 (mode s.fpscr) r := by
  have ends := endsWith_of_convertFinish (n := s.draws + 1) fe e
  rw [convertResult_reference ref] at ends
  exact convertEffect_of_ends (by decide) (by decide) ends agreesLow_dword

theorem frsp_ends (on : s.fpOn = true) (fe : s.fe = false) (ref : s.cfg.fpResult = .reference) :
    EndsWith s d rc ((rspOut s.fpscr (s.draw 64) (s.getFpr b)).within affectedRsp) (exec (.frspx d b rc) s) := by
  have ends := endsWith_of_convertFinish (n := s.draws + 1) fe (exec_float (i := .frspx d b rc) on rfl rfl rfl)
  rwa [convertResult_reference ref] at ends

theorem fcfid_ends (on : s.fpOn = true) (wide : s.cfg.impl64 = true) (fe : s.fe = false) (ref : s.cfg.fpResult = .reference) :
    EndsWith s d rc ((cfidOut s.fpscr (s.getFpr b)).within affectedCfid) (exec (.fcfidx d b rc) s) := by
  have ends := endsWith_of_convertFinish (n := s.draws) fe (exec_optional (i := .fcfidx d b rc) on wide rfl rfl rfl)
  rwa [convertResult_reference ref] at ends

end

/-- Settles O58: the six instructions end alike; `frsp` and `fcfid` round a number, the others give integers. -/
theorem floatConvert : Obligations.FloatConvert := by
  unfold Obligations.FloatConvert
  intro s d b rc on
  refine ⟨converting_effects s d b rc on, fun fe ref =>
    ⟨?frsp, ?special, ?fctiw, ?fctiwz, fun wide => ⟨?fctid, ?fctidz, ?fcfid, ?zero⟩⟩⟩
  case frsp => exact roundedEffect_rsp (frsp_ends on fe ref) fe
  case special => exact specialEffect_rsp (frsp_ends on fe ref)
  case fctiw => exact convertEffect_word fe ref (exec_float on rfl rfl rfl)
  case fctiwz => exact convertEffect_word (mode := fun _ => .zero) fe ref (exec_float on rfl rfl rfl)
  case fctid => exact convertEffect_dword fe ref (exec_optional on wide rfl rfl rfl)
  case fctidz => exact convertEffect_dword (mode := fun _ => .zero) fe ref (exec_optional on wide rfl rfl rfl)
  case fcfid => exact roundedEffect_cfid (fcfid_ends on wide fe ref) fe
  case zero => exact unroundedEffect_cfid (fcfid_ends on wide fe ref)

end Sys2Proof.Machine
end

section
/-!
PROOFS. Scalar integer loads and stores at aligned addresses (45_load_store_integer R380 to R423). Every form meets a statement about
its access as soon as the shared operation does (`LoadsMeet`, `StoresMeet`); here the aligned access is shown to be one that it does
meet.
-/

namespace Sys2Proof.Machine

theorem loadsAligned_meets : LoadsMeet loadsAligned := by
  intro s sum n put put' agree advances aligned
  obtain ⟨effect, -⟩ := loadBytes_effect s sum n put' advances
  obtain ⟨stops, completes⟩ := effect aligned
  refine ⟨stops, fun pa u reached => ?_⟩
  exact loadsFrom_congr (fun bytes u h => agree bytes u (h.trans (bytesFrom_length pa n))) (completes pa u reached)

theorem storesAligned_meets : StoresMeet storesAligned := by
  intro s sum bytes upd advances
  obtain ⟨effect, -⟩ := storeBytes_effect s sum bytes upd advances
  exact effect

/-- Settles O38: every form of integer load meets the statement that the shared aligned load meets. -/
theorem loads : Obligations.Loads := by
  unfold Obligations.Loads
  exact ⟨plainLoads_of_meets loadsAligned_meets, updateLoads_of_meets loadsAligned_meets⟩

/-- Settles O39: every form of integer store meets the statement that the shared aligned store meets. -/
theorem stores : Obligations.Stores := by
  unfold Obligations.Stores
  exact ⟨plainStores_of_meets storesAligned_meets, updateStores_of_meets storesAligned_meets⟩

end Sys2Proof.Machine
end

section
/-!
PROOFS. Stores one after the other: `stmw`, `stswi` and `stswx` (45_load_store_integer R425, R428, R429; 60 R626). Each stores chunks of
one size that stand in its registers before the first access; what the accesses leave is one store of all bytes (`State.storeAll`).
-/

namespace Sys2Proof.Machine

/-! ## What stores one after the other leave -/

/-- Storing some bytes and then others is storing all of them. -/
theorem State.storeAll_append (s : State) {pas qas : List Dword} {bytes rest : List Byte} (length : pas.length = bytes.length) :
    s.storeAll (pas ++ qas) (bytes ++ rest) = (s.storeAll pas bytes).storeAll qas rest := by
  induction pas generalizing s bytes with
  | nil =>
    rw [List.eq_nil_of_length_eq_zero length.symm]
    rfl
  | cons pa pas ih =>
    cases bytes with
    | nil => cases length
    | cons b bytes => exact ih _ (Nat.succ.inj length)

/-- The state `s` with the lookaside buffers of `u`: what an access that goes through leaves of the state it started in. -/
def State.withEntries (s u : State) : State := { s with tlb := u.tlb, slb := u.slb }

theorem eq_withEntries_of_reachesAt {s u : State} {kind : AccessKind} {ea pa : Dword} (h : reachesAt s kind ea pa u) :
    u = s.withEntries u :=
  reachesAt_frame h

@[simp] theorem State.withEntries_withEntries (s u v : State) : (s.withEntries v).withEntries u = s.withEntries u := rfl

/-- Bytes are stored alike whatever entries translations have loaded. -/
theorem State.withEntries_storeAll (s u : State) (pas : List Dword) (bytes : List Byte) :
    (s.withEntries u).storeAll pas bytes = (s.storeAll pas bytes).withEntries u := by
  induction pas generalizing s bytes with
  | nil => rfl
  | cons pa pas ih =>
    cases bytes with
    | nil => rfl
    | cons b bytes => exact ih (s.storeByte pa.toNat b) bytes

section
variable {s u : State} {n : Nat} {sum stride : Dword} {chunks : List (List Byte)} {pas : List Dword}

theorem length_of_storesEach (h : storesEach s sum stride chunks pas u) : pas.length = chunks.length := by
  induction pas generalizing s sum chunks with
  | nil =>
    cases chunks with
    | nil => rfl
    | cons c cs => exact h.elim
  | cons pa pas ih =>
    cases chunks with
    | nil => exact h.elim
    | cons c cs =>
      obtain ⟨v, -, h⟩ := h
      exact congrArg Nat.succ (ih h)

/-- Stores one after the other leave what one store of all their bytes does, but for the entries that translations load. -/
theorem storesEach_eq_storeAll (size : ∀ c ∈ chunks, c.length = n) (h : storesEach s sum stride chunks pas u) :
    u = (s.storeAll (pas.flatMap fun pa => bytesFrom pa n) chunks.flatten).withEntries u := by
  induction pas generalizing s sum chunks with
  | nil =>
    cases chunks with
    | nil => cases h; rfl
    | cons c cs => exact h.elim
  | cons pa pas ih =>
    cases chunks with
    | nil => exact h.elim
    | cons c cs =>
      obtain ⟨v, reached, h⟩ := h
      obtain ⟨head, tail⟩ := List.forall_mem_cons.mp size
      have rest := ih tail h
      rw [eq_withEntries_of_reachesAt reached, head, State.withEntries_storeAll, State.withEntries_storeAll,
        State.withEntries_withEntries] at rest
      rw [List.flatMap_cons, List.flatten_cons, State.storeAll_append s (by rw [bytesFrom_length, head])]
      exact rest

/-- Chunks read at once are read one by one. -/
theorem readsAs_of_flatten (length : pas.length = chunks.length) (size : ∀ c ∈ chunks, c.length = n)
    (h : u.readsAs (pas.flatMap fun pa => bytesFrom pa n) chunks.flatten) (k : Nat) (hk : k < pas.length) :
    u.readsAs (bytesFrom pas[k] n) (chunks[k]'(length ▸ hk)) := by
  induction pas generalizing chunks k with
  | nil => cases hk
  | cons pa pas ih =>
    cases chunks with
    | nil => cases length
    | cons c cs =>
      obtain ⟨head, tail⟩ := List.forall_mem_cons.mp size
      rw [State.readsAs, List.flatMap_cons, List.flatten_cons, List.map_append, List.map_append] at h
      obtain ⟨first, rest⟩ := List.append_inj h (by rw [List.length_map, List.length_map, bytesFrom_length, head])
      cases k with
      | zero => exact first
      | succ k => exact ih (Nat.succ.inj length) tail rest k (Nat.lt_of_succ_lt_succ hk)

end

/-- The address of a byte of one of the chunks. -/
theorem mem_chunkAddresses {pas : List Dword} {n : Nat} {q : Dword} :
    (q ∈ pas.flatMap fun pa => bytesFrom pa n) ↔ ∃ pa ∈ pas, ∃ j, j < n ∧ q = pa + BitVec.ofNat 64 j := by
  simp only [List.mem_flatMap, bytesFrom, List.mem_map, List.mem_range, eq_comm]

theorem length_chunkAddresses {pas : List Dword} {n : Nat} {chunks : List (List Byte)} (length : pas.length = chunks.length)
    (size : ∀ c ∈ chunks, c.length = n) : (pas.flatMap fun pa => bytesFrom pa n).length = chunks.flatten.length := by
  simp only [List.length_flatMap, List.length_flatten, bytesFrom_length, List.map_const', length, List.map_congr_left size]

/-- Stores of chunks of `n` bytes leave them where the statements say. -/
theorem chunksStored_of_storesEach {s u : State} {n : Nat} {sum stride : Dword} {pas : List Dword} {chunk : Nat → List Byte}
    (size : ∀ k, (chunk k).length = n) (h : storesEach s sum stride ((List.range pas.length).map chunk) pas u) :
    chunksStored s u n pas chunk := by
  have sizes : ∀ c ∈ (List.range pas.length).map chunk, c.length = n := List.forall_mem_map.mpr fun k _ => size k
  have length := length_of_storesEach h
  have total := length_chunkAddresses length sizes
  have all := storesEach_eq_storeAll sizes h
  rw [all]
  refine ⟨fun nodup k hk => ?_, fun a other => ?_, ?_, ?_⟩
  · have reads := readsAs_of_flatten length sizes (storeAll_readsAs s _ _ total nodup) k hk
    rw [List.getElem_map, List.getElem_range] at reads
    refine State.holds_of_readsAs ?_
    rw [size k]
    exact reads
  · refine State.storeAll_read_other s _ _ a fun q hq => ?_
    obtain ⟨pa, hpa, j, hj, rfl⟩ := mem_chunkAddresses.mp hq
    exact (other pa hpa j hj).symm
  · have addresses : (fun a => ∃ pa ∈ pas, ∃ j, j < n ∧ a = (pa + BitVec.ofNat 64 j).toNat) =
        fun a => ∃ q ∈ pas.flatMap fun pa => bytesFrom pa n, a = q.toNat := by
      funext a
      refine propext ⟨?_, ?_⟩
      · rintro ⟨pa, hpa, j, hj, rfl⟩
        exact ⟨_, mem_chunkAddresses.mpr ⟨pa, hpa, j, hj, rfl⟩, rfl⟩
      · rintro ⟨q, hq, rfl⟩
        obtain ⟨pa, hpa, j, hj, rfl⟩ := mem_chunkAddresses.mp hq
        exact ⟨pa, hpa, j, hj, rfl⟩
    rw [addresses]
    exact storeAll_marks s _ _ total
  · rw [State.storeAll_frame s]
    rfl

/-! ## The model's stores -/

@[simp] theorem State.storeAll_gpr (s : State) (pas : List Dword) (bytes : List Byte) : (s.storeAll pas bytes).gpr = s.gpr := by
  rw [State.storeAll_frame]

@[simp] theorem State.storeAll_ea32 (s : State) (pas : List Dword) (bytes : List Byte) : (s.storeAll pas bytes).ea32 = s.ea32 := by
  rw [State.storeAll_frame]
  rfl

/-- `n` stores of `size` bytes from `ea` on, one after the other: number `k` stores the bytes `chunk t k`, where `t` is the state that its
access leaves. -/
def storeEach (size : Nat) (chunk : State → Nat → List Byte) (s : State) (ea : Dword) (k n : Nat) : Access Unit :=
  match n with
  | 0 => .ok () s
  | n + 1 =>
    (reachUnit s .store ea size).bind fun pas t =>
      storeEach size chunk (t.storeAll pas (chunk t k)) (t.ea32 (ea + BitVec.ofNat 64 size)) (k + 1) n

/-- Word `k` of `stmw`. -/
def wordChunk (r : BitVec 5) (t : State) (k : Nat) : List Byte := gprBytes t (r + BitVec.ofNat 5 k) 4

/-- Byte `k` of a string, as the model takes it from its register. -/
def stringChunk (rs : BitVec 5) (t : State) (k : Nat) : List Byte := toBytes 1 (t.getGpr (stringReg rs k) >>> stringShift k)

theorem add_ofNat_succ (r : BitVec 5) (k : Nat) : r + BitVec.ofNat 5 k + 1 = r + BitVec.ofNat 5 (k + 1) := by
  rw [BitVec.ofNat_add, BitVec.add_assoc]
  rfl

theorem storeWords_eq_storeEach (s : State) (r : BitVec 5) (ea : Dword) (k n : Nat) :
    storeWords s (r + BitVec.ofNat 5 k) ea n = storeEach 4 (wordChunk r) s ea k n := by
  induction n generalizing s ea k with
  | zero => rfl
  | succ n ih =>
    simp only [storeWords, storeEach, add_ofNat_succ, ih]
    rfl

theorem storeString_eq_storeEach (s : State) (rs : BitVec 5) (ea : Dword) (k n : Nat) :
    storeString s rs ea k n = storeEach 1 (stringChunk rs) s ea k n := by
  induction n generalizing s ea k with
  | zero => rfl
  | succ n ih =>
    simp only [storeString, storeEach, ih]
    rfl

theorem addressOf_congr {s t : State} (h : t.ea32 = s.ea32) : addressOf t = addressOf s := by
  funext sum stride k
  rw [addressOf, addressOf, h]

section
variable {s u : State} {size : Nat} {sum : Dword} {pas : List Dword} {chunk : State → Nat → List Byte} {c : Nat → List Byte}

/-- Where the accesses of the statements go through, the model's do, and the rest of the stores follows. -/
theorem storeEach_of_storesEach (taken : ∀ t k, t.gpr = s.gpr → chunk t k = c k) (sizes : ∀ k, (c k).length = size) (k m : Nat)
    (h : storesEach s sum (BitVec.ofNat 64 size) ((List.range pas.length).map fun j => c (k + j)) pas u) :
    storeEach size chunk s (s.ea32 sum) k (pas.length + m) =
      storeEach size chunk u (addressOf s sum (BitVec.ofNat 64 size) pas.length) (k + pas.length) m := by
  induction pas generalizing s sum k with
  | nil =>
    cases h
    simp [addressOf]
  | cons pa pas ih =>
    have index : (fun j => c (k + j)) ∘ Nat.succ = fun j => c (k + 1 + j) := funext fun j => congrArg c (Nat.add_right_comm k j 1)
    rw [List.length_cons, List.range_succ_eq_map, List.map_cons, List.map_map, index] at h
    obtain ⟨v, reached, h⟩ := h
    obtain ⟨a, access⟩ := reach_of_reachesAt reached
    have gpr : v.gpr = s.gpr := by rw [eq_withEntries_of_reachesAt reached]; rfl
    have ea32 : v.ea32 = s.ea32 := by rw [eq_withEntries_of_reachesAt reached]; rfl
    have next := ih (fun t j e => taken t j (by rw [e, State.storeAll_gpr, gpr])) (k + 1) h
    have count : (pa :: pas).length + m = (pas.length + m) + 1 := Nat.add_right_comm pas.length 1 m
    rw [State.storeAll_ea32, sizes, addressOf_congr ((State.storeAll_ea32 ..).trans ea32), ea32, ← addressOf_succ, Nat.add_zero] at next
    rw [count, storeEach, reachUnit, access, Access.ok_bind, Access.ok_bind, taken v k gpr, ea32, State.ea32_add, next,
      List.length_cons, Nat.add_right_comm, Nat.add_assoc]

theorem storeEach_effect (taken : ∀ t k, t.gpr = s.gpr → chunk t k = c k) (sizes : ∀ k, (c k).length = size) (count : Nat) :
    chunksEffect s sum size count c (finishMoves (storeEach size chunk s (s.ea32 sum) 0 count)) := by
  intro pas u le h
  have stored := chunksStored_of_storesEach sizes h
  obtain ⟨m, rfl⟩ := Nat.exists_eq_add_of_le le
  rw [storeEach_of_storesEach taken sizes 0 m (by simpa only [Nat.zero_add] using h)]
  refine ⟨stored, fun all => ?_, fun more => ?_⟩
  · obtain rfl : m = 0 := by omega
    obtain ⟨-, -, -, frame⟩ := stored
    have next : u.nextPc = s.nextPc := by rw [frame]; rfl
    rw [← next]
    rfl
  · obtain ⟨m, rfl⟩ : ∃ j, m = j + 1 := ⟨m - 1, by omega⟩
    rw [finishMoves, storeEach, Access.bind_finish, reachUnit, Access.bind_finish]
    exact reach_stops u .store _ _

end

end Sys2Proof.Machine
end

section
/-!
PROOFS. Loads one after the other: `lmw`, `lswi` and `lswx` (45_load_store_integer R424, R426, R427; 60 R626). The statements name the
accesses from a state whose registers stay; the model's accesses find the registers already loaded, which no translation reads.
-/

namespace Sys2Proof.Machine

/-! ## Accesses and general registers -/

/-- The state `u` with the general registers of `x`. -/
def State.withGprs (u x : State) : State := { u with gpr := x.gpr }

@[simp] theorem State.withGprs_getGpr (u x : State) (r : BitVec 5) : (u.withGprs x).getGpr r = x.getGpr r := rfl
@[simp] theorem State.withGprs_ea32 (u x : State) : (u.withGprs x).ea32 = u.ea32 := rfl
@[simp] theorem State.withGprs_mem (u x : State) : (u.withGprs x).mem = u.mem := rfl

/-- An access goes through alike whatever the general registers hold. -/
theorem reachesAt_withGprs {s v : State} {kind : AccessKind} {ea pa : Dword} (x : State) (h : reachesAt s kind ea pa v) :
    reachesAt (s.withGprs x) kind ea pa (v.withGprs x) := by
  obtain ⟨⟨a, fresh, translated⟩, current, unbroken⟩ := h
  refine ⟨⟨a, fresh, ?_⟩, current, unbroken⟩
  obtain ⟨real, rfl, rfl, rfl⟩ | ⟨on, f, result, rfl, rfl⟩ := translated
  · exact .inl ⟨real, rfl, rfl, rfl⟩
  · exact .inr ⟨on, f, result, rfl, rfl⟩

/-- Bytes that are all there are what a read answers. -/
theorem readAt_of_readsAs {s : State} {pas : List Dword} {bytes : List Byte} (h : s.readsAs pas bytes) :
    readAt pas s = .ok bytes s := by
  rw [readAt, Memory.readAll_of_readsAs h]

theorem bytesFrom_one (pa : Dword) : bytesFrom pa 1 = [pa] :=
  congrArg (fun q => [q]) (BitVec.add_zero pa)

/-- Of one byte, the first that nothing has written. -/
theorem firstUnwritten_one {s : State} {pa : Dword} (h : s.mem.read pa.toNat = none) :
    s.firstUnwritten (bytesFrom pa 1) = some pa.toNat := by
  rw [bytesFrom_one, State.firstUnwritten, List.find?_cons, h]
  rfl

/-! ## The model's loads -/

/-- `n` loads of `size` bytes from `ea` on, one after the other: before number `k` the registers are made ready, and after it its bytes
are put into them. -/
def loadEach (size : Nat) (ready : State → Nat → State) (put : State → Nat → List Byte → State) (s : State) (ea : Dword)
    (k n : Nat) : Access Unit :=
  match n with
  | 0 => .ok () s
  | n + 1 =>
    ((reachUnit (ready s k) .load ea size).bind readAt).bind fun bytes t =>
      loadEach size ready put (put t k bytes) (t.ea32 (ea + BitVec.ofNat 64 size)) (k + 1) n

/-- `lmw` has no register to make ready. -/
def readyWord (s : State) (_ : Nat) : State := s

/-- Word `k` of `lmw` comes into its register. -/
def putWord (r : BitVec 5) (s : State) (k : Nat) (bytes : List Byte) : State :=
  s.setGpr (r + BitVec.ofNat 5 k) (zeroLoaded bytes)

/-- The register of byte `k` of a string is cleared before its first byte. -/
def readyByte (rd : BitVec 5) (s : State) (k : Nat) : State := if k % 4 = 0 then s.setGpr (stringReg rd k) 0 else s

/-- Byte `k` of a string comes into its register. -/
def putByte (rd : BitVec 5) (s : State) (k : Nat) (bytes : List Byte) : State :=
  s.setGpr (stringReg rd k) (s.getGpr (stringReg rd k) ||| zeroLoaded bytes <<< stringShift k)

theorem loadWords_eq_loadEach (s : State) (r : BitVec 5) (ea : Dword) (k n : Nat) :
    loadWords s (r + BitVec.ofNat 5 k) ea n = loadEach 4 readyWord (putWord r) s ea k n := by
  induction n generalizing s ea k with
  | zero => rfl
  | succ n ih =>
    simp only [loadWords, loadEach, add_ofNat_succ, ih]
    rfl

theorem loadString_eq_loadEach (s : State) (rd : BitVec 5) (ea : Dword) (k n : Nat) :
    loadString s rd ea k n = loadEach 1 (readyByte rd) (putByte rd) s ea k n := by
  induction n generalizing s ea k with
  | zero => rfl
  | succ n ih =>
    simp only [loadString, loadEach, ih]
    rfl

/-- What the loads make of the registers, as an invariant: `after u x k` says that `x` is `u` with the first `k` of `bytes` loaded, and
`before u x k` that its registers are ready for the next of them besides. -/
structure LoadsMake (ready : State → Nat → State) (put : State → Nat → List Byte → State) (bytes : Nat → List Byte) (limit : Nat)
    (before after : State → State → Nat → Prop) : Prop where
  ready : ∀ {u x : State} {k : Nat}, k < limit → after u x k → before u (ready x k) k
  put : ∀ {u x : State} {k : Nat} (v : State), k < limit → before u x k → after v (put (v.withGprs x) k (bytes k)) (k + 1)
  ready_frame : ∀ {u x : State} {k : Nat}, before u x k → x = u.withGprs x
  frame : ∀ {u x : State} {k : Nat}, after u x k → x = u.withGprs x

section
variable {ready : State → Nat → State} {put : State → Nat → List Byte → State} {bytes : Nat → List Byte} {limit : Nat}
  {before after : State → State → Nat → Prop} {s u x y : State} {size : Nat} {sum : Dword} {pas : List Dword}

/-- Where the accesses of the statements go through, the model's do, and the rest of the loads follows. -/
theorem loadEach_of_reachesEach (make : LoadsMake ready put bytes limit before after) {k : Nat} (start : after s x k)
    (h : reachesEach s .load sum (BitVec.ofNat 64 size) pas u)
    (reads : ∀ j (hj : j < pas.length), u.readsAs (bytesFrom pas[j] size) (bytes (k + j))) (le : k + pas.length ≤ limit) :
    ∃ y, after u y (k + pas.length) ∧ ∀ m,
      loadEach size ready put x (s.ea32 sum) k (pas.length + m) =
        loadEach size ready put y (addressOf s sum (BitVec.ofNat 64 size) pas.length) (k + pas.length) m := by
  induction pas generalizing s x sum k with
  | nil =>
    cases h
    exact ⟨x, start, fun m => by simp [addressOf]⟩
  | cons pa pas ih =>
    obtain ⟨v, reached, h⟩ := h
    rw [List.length_cons] at le
    have prepared := make.ready (by omega) start
    have loaded := make.put v (by omega) prepared
    have index (j : Nat) : k + 1 + j = k + (j + 1) := by omega
    have later (j : Nat) (hj : j < pas.length) : u.readsAs (bytesFrom pas[j] size) (bytes (k + 1 + j)) := by
      rw [index]
      exact reads (j + 1) (Nat.succ_lt_succ hj)
    obtain ⟨y, final, rest⟩ := ih loaded h later (by omega)
    rw [index] at final
    refine ⟨y, final, fun m => ?_⟩
    have access := reachesAt_withGprs (ready x k) reached
    rw [← make.ready_frame prepared] at access
    obtain ⟨a, access⟩ := reach_of_reachesAt access
    have read : readAt (bytesFrom pa size) (v.withGprs (ready x k)) = .ok (bytes k) (v.withGprs (ready x k)) := by
      have mem : v.mem = u.mem := by rw [reachesEach_frame h]
      refine readAt_of_readsAs ?_
      rw [State.readsAs, State.withGprs_mem, mem]
      exact reads 0 (Nat.succ_pos _)
    have count : (pa :: pas).length + m = (pas.length + m) + 1 := Nat.add_right_comm pas.length 1 m
    have ea32 : v.ea32 = s.ea32 := by rw [eq_withEntries_of_reachesAt reached]; rfl
    have next := rest m
    rw [addressOf_congr ea32, ea32, ← addressOf_succ, index] at next
    rw [count, loadEach, reachUnit, access, Access.ok_bind, Access.ok_bind, read, Access.ok_bind, State.withGprs_ea32, ea32,
      State.ea32_add, next, List.length_cons]

/-- The next load stops the instruction where its access does not go through, and where its bytes are not there. -/
theorem loadEach_stops (x : State) (ea : Dword) (k m : Nat) :
    accessStops (ready x k) .load ea (finishMoves (loadEach size ready put x ea k (m + 1))) ∧
      ∀ pa v a, reachesAt (ready x k) .load ea pa v → v.firstUnwritten (bytesFrom pa size) = some a →
        finishMoves (loadEach size ready put x ea k (m + 1)) = .fault (.unwrittenRead a) := by
  rw [finishMoves, loadEach, Access.bind_finish, reachUnit, Access.bind_finish, Access.bind_finish]
  refine ⟨reach_stops (ready x k) .load ea _, fun pa v a reached unwritten => ?_⟩
  obtain ⟨b, access⟩ := reach_of_reachesAt reached
  rw [access, Access.ok_finish, Access.ok_finish, readAt, Memory.readAll_of_firstUnwritten unwritten]
  rfl

/-- After the first loads: the registers they have made, and how the instruction completes or stops at the next. -/
theorem loadEach_effect (make : LoadsMake ready put bytes limit before after) {n : Nat} (start : after s s 0)
    (h : reachesEach s .load sum (BitVec.ofNat 64 size) pas u)
    (reads : ∀ j (hj : j < pas.length), u.readsAs (bytesFrom pas[j] size) (bytes j)) (le : pas.length ≤ n) (fits : n ≤ limit) :
    let res := finishMoves (loadEach size ready put s (s.ea32 sum) 0 n)
    let ea := addressOf s sum (BitVec.ofNat 64 size) pas.length
    ∃ y, after u y pas.length ∧ (pas.length = n → res = .next { y with nia := s.nextPc }) ∧
      (pas.length < n → before u (ready y pas.length) pas.length ∧ accessStops (ready y pas.length) .load ea res ∧
        ∀ pa v a, reachesAt (ready y pas.length) .load ea pa v → v.firstUnwritten (bytesFrom pa size) = some a →
          res = .fault (.unwrittenRead a)) := by
  intro res ea
  obtain ⟨y, loaded, rest⟩ := loadEach_of_reachesEach make start h (by simpa only [Nat.zero_add] using reads) (by omega)
  rw [Nat.zero_add] at loaded
  obtain ⟨m, rfl⟩ := Nat.exists_eq_add_of_le le
  have moved : res = finishMoves (loadEach size ready put y ea pas.length m) := by
    rw [← Nat.zero_add (List.length pas)]
    exact congrArg finishMoves (rest m)
  rw [moved]
  refine ⟨y, loaded, fun all => ?_, fun more => ?_⟩
  · obtain rfl : m = 0 := by omega
    have next : y.nextPc = s.nextPc := by rw [make.frame loaded, reachesEach_frame h]; rfl
    rw [← next]
    rfl
  · obtain ⟨m, rfl⟩ : ∃ j, m = j + 1 := ⟨m - 1, by omega⟩
    exact ⟨make.ready (by omega) loaded, loadEach_stops y ea _ m⟩

end

end Sys2Proof.Machine
end

section
/-!
PROOFS. `lmw` and `stmw` (45_load_store_integer R424, R425; 60 R626).
-/

namespace Sys2Proof.Machine

/-! ## Words in registers -/

/-- A word loaded from its bytes. -/
theorem zeroLoaded_toBytes (w : Word) : zeroLoaded (toBytes 4 w) = zext w := by
  have value : (zext w).toNat = w.toNat := by rw [zext, BitVec.toNat_setWidth]; omega
  rw [← unsignedValue_eq, unsignedValue, ← lowBytes_zext, bigEndian_lowBytes, value]
  apply BitVec.eq_of_toNat_eq
  rw [BitVec.toNat_ofNat, value]
  omega

/-- Memory that holds bytes gives them to a read. -/
theorem readsAs_of_holds {s : State} {pa : Dword} {bytes : List Byte} (h : s.holds pa bytes) :
    s.readsAs (bytesFrom pa bytes.length) bytes := by
  refine List.ext_getElem (by simp) fun k _ hk => ?_
  simpa using h k (by simpa using hk)

/-- Registers at different distances below 32 are different. -/
theorem add_ofNat_ne {j k : Nat} (r : BitVec 5) (hj : j < 32) (hk : k < 32) (ne : j ≠ k) :
    r + BitVec.ofNat 5 j ≠ r + BitVec.ofNat 5 k := by
  bv_omega

/-- The first `n` words of `lmw` have come into their registers. -/
def wordsIn (s : State) (r : BitVec 5) (w : Nat → Word) (u x : State) (n : Nat) : Prop :=
  x = u.withGprs x ∧ (∀ k, k < n → x.getGpr (r + BitVec.ofNat 5 k) = zext (w k)) ∧
    ∀ q, (∀ k, k < n → q ≠ r + BitVec.ofNat 5 k) → x.getGpr q = s.getGpr q

theorem putWord_wordsIn {s u x : State} {r : BitVec 5} {w : Nat → Word} {n : Nat} (v : State) (hn : n < 32)
    (h : wordsIn s r w u x n) : wordsIn s r w v (putWord r (v.withGprs x) n (toBytes 4 (w n))) (n + 1) := by
  obtain ⟨-, loaded, kept⟩ := h
  rw [putWord, zeroLoaded_toBytes]
  refine ⟨rfl, fun k hk => ?_, fun q other => ?_⟩
  · rw [State.setGpr_getGpr, State.norm_zext]
    by_cases last : k = n
    · rw [last, if_pos rfl]
    · rw [if_neg (add_ofNat_ne r (by omega) hn last)]
      exact loaded k (by omega)
  · rw [State.setGpr_getGpr, if_neg (other n n.lt_succ_self)]
    exact kept q fun k hk => other k (by omega)

theorem wordsIn_loadsMake (s : State) (r : BitVec 5) (w : Nat → Word) :
    LoadsMake readyWord (putWord r) (fun k => toBytes 4 (w k)) 32 (wordsIn s r w) (wordsIn s r w) where
  ready _ h := h
  put v hk h := putWord_wordsIn v hk h
  ready_frame h := h.1
  frame h := h.1

/-! ## Both instructions (O41) -/

theorem wordsLoaded_loadWords (s : State) (r : BitVec 5) (sum : Dword) :
    wordsLoaded s r sum (finishMoves (loadWords s r (s.ea32 sum) (32 - r.toNat))) := by
  intro pas u w le reached holds
  have reads (j : Nat) (hj : j < pas.length) : u.readsAs (bytesFrom pas[j] 4) (toBytes 4 (w j)) := by
    rw [← lowBytes_zext]
    exact readsAs_of_holds (holds j hj)
  have start : wordsIn s r w s s 0 := ⟨rfl, fun k hk => absurd hk (Nat.not_lt_zero k), fun _ _ => rfl⟩
  obtain ⟨x, ⟨frame, loaded, kept⟩, completes, stops⟩ :=
    loadEach_effect (wordsIn_loadsMake s r w) start reached reads le (by omega)
  have model := loadWords_eq_loadEach s r (s.ea32 sum) 0 (32 - r.toNat)
  rw [BitVec.add_zero] at model
  rw [model]
  exact ⟨x, frame, loaded, kept, completes, fun more => (stops more).2⟩

theorem storeWords_effect (s : State) (r : BitVec 5) (sum : Dword) (n : Nat) :
    chunksEffect s sum 4 n (fun k => lowBytes 4 (s.getGpr (r + BitVec.ofNat 5 k)))
      (finishMoves (storeWords s r (s.ea32 sum) n)) := by
  have model := storeWords_eq_storeEach s r (s.ea32 sum) 0 n
  rw [BitVec.add_zero] at model
  rw [model]
  refine storeEach_effect (fun t k gpr => ?_) (fun k => ?_) n
  · rw [lowBytes_eq, wordChunk, gprBytes, State.getGpr, gpr]
    rfl
  · rw [lowBytes_eq, toBytes_length]

/-- Settles O41: at an aligned address the words go through one after the other, and a misaligned one raises the exception at once. -/
theorem multiples : Obligations.Multiples := by
  unfold Obligations.Multiples
  intro s r ra d
  have lmw (form : (Instr.lmw r ra d).wellFormed s.cfg.impl64 = true) : exec (.lmw r ra d) s = _ := exec_user rfl rfl form
  have stmw : exec (.stmw r ra d) s = execStmw r ra d s := rfl
  refine ⟨fun misaligned => ⟨?_, fun form => ?_⟩, fun aligned => ⟨fun form => ?_, ?_⟩⟩
  · rw [stmw, execStmw, misaligned]
    rfl
  · rw [lmw form, misaligned]
    rfl
  · rw [lmw form, if_pos aligned]
    exact wordsLoaded_loadWords s r (sumD s ra d)
  · rw [stmw, execStmw, if_pos aligned]
    exact storeWords_effect s r (sumD s ra d) (32 - r.toNat)

end Sys2Proof.Machine
end

section
/-!
PROOFS. `lswi`, `lswx`, `stswi` and `stswx` (45_load_store_integer R426 to R430; 60 R626; log 27, 31, 33).
-/

namespace Sys2Proof.Machine

/-! ## Bytes of a register's low word -/

/-- Byte `j` of a register's low word, the most significant first. -/
def wordByte (v : Dword) (j : Nat) : Byte := (v >>> (8 * (3 - j))).setWidth 8

theorem stringByte_eq (t : State) (r : BitVec 5) (k : Nat) : stringByte t r k = wordByte (t.getGpr (stringReg r k)) (k % 4) := rfl

theorem wordByte_or (v w : Dword) (j : Nat) : wordByte (v ||| w) j = wordByte v j ||| wordByte w j := by
  rw [wordByte, BitVec.ushiftRight_or_distrib, BitVec.setWidth_or]
  rfl

theorem wordByte_zero (j : Nat) : wordByte 0 j = 0 := by
  exact congrArg (BitVec.setWidth 8) BitVec.zero_ushiftRight

/-- A byte shifted to its place stands there, and every other byte is 0. -/
theorem wordByte_shifted (b : Byte) {i j : Nat} (hi : i < 4) (hj : j < 4) :
    wordByte (b.setWidth 64 <<< (8 * (3 - i))) j = if j = i then b else 0 := by
  apply BitVec.eq_of_getLsbD_eq
  intro k hk
  have bit : (wordByte (b.setWidth 64 <<< (8 * (3 - i))) j).getLsbD k =
      (!decide (8 * (3 - j) + k < 8 * (3 - i)) && b.getLsbD (8 * (3 - j) + k - 8 * (3 - i))) := by
    have inside : 8 * (3 - j) + k < 64 ∧ 8 * (3 - j) + k - 8 * (3 - i) < 64 := by omega
    simp only [wordByte, BitVec.getLsbD_setWidth, BitVec.getLsbD_ushiftRight, BitVec.getLsbD_shiftLeft, hk, inside,
      decide_true, Bool.true_and]
  rw [bit]
  obtain less | rfl | more := Nat.lt_trichotomy j i
  · rw [if_neg less.ne, BitVec.getLsbD_of_ge b _ (by omega), Bool.and_false]
    exact BitVec.getLsbD_zero.symm
  · simp
  · simp [more.ne', show 8 * (3 - j) + k < 8 * (3 - i) by omega]

/-- A byte shifted to a place in the low word leaves the high word 0. -/
theorem high_shifted (b : Byte) {i : Nat} (hi : i < 4) : high (b.setWidth 64 <<< (8 * (3 - i))) = 0 := by
  apply BitVec.eq_of_getLsbD_eq
  intro k hk
  simp only [high, BitVec.getLsbD_extractLsb', BitVec.getLsbD_shiftLeft, BitVec.getLsbD_setWidth]
  rw [BitVec.getLsbD_of_ge b _ (by omega)]
  simp

theorem high_or (v w : Dword) : high (v ||| w) = high v ||| high w := BitVec.extractLsb'_or

/-- A value whose high word is 0 is what every register holds of it. -/
theorem State.norm_of_high (s : State) {v : Dword} (h : high v = 0) : s.norm v = v := by
  have narrow : zext (low v) = v := by
    have top := congrArg BitVec.toNat h
    have size := v.isLt
    apply BitVec.eq_of_toNat_eq
    simp only [high, BitVec.extractLsb'_toNat, Nat.shiftRight_eq_div_pow] at top
    simp only [zext, low, BitVec.toNat_setWidth]
    change v.toNat / 2 ^ 32 % 2 ^ 32 = 0 at top
    omega
  rw [State.norm, narrow, ite_self]

theorem zeroLoaded_singleton (b : Byte) : zeroLoaded [b] = b.setWidth 64 := by
  apply BitVec.eq_of_toNat_eq
  simp [zeroLoaded, ofBytes, bytesValue]

/-! ## Strings in registers -/

theorem inWrappedRange_eq_false {q r : BitVec 5} {n : Nat} : inWrappedRange q r n = false ↔ n ≤ (q - r).toNat := by
  rw [inWrappedRange, decide_eq_false_iff_not, Nat.not_lt]

section
variable {s u x : State} {rd : BitVec 5} {b : Nat → Byte}

/-- The write of register `i` of a string, the last one so far, with the bytes that stand in it when `m` of the string are loaded. -/
theorem stringIn_setGpr {n m regs i : Nat} {w : Dword} (v : State) (h : stringIn s u x rd b n regs) (hi : i < 32)
    (least : i ≤ regs) (most : regs ≤ i + 1) (hn : 4 * i ≤ n) (hm : 4 * i ≤ m) (narrow : high w = 0)
    (bytes : ∀ j, j < 4 → wordByte w j = if 4 * i + j < m then b (4 * i + j) else 0) :
    stringIn s v ((v.withGprs x).setGpr (rd + BitVec.ofNat 5 i) w) rd b m (i + 1) := by
  obtain ⟨-, loaded, highs, kept⟩ := h
  have written (j : Nat) (hj : j < i + 1) : ((v.withGprs x).setGpr (rd + BitVec.ofNat 5 i) w).getGpr (rd + BitVec.ofNat 5 j) =
      if j = i then w else x.getGpr (rd + BitVec.ofNat 5 j) := by
    rw [State.setGpr_getGpr, State.norm_of_high _ narrow]
    by_cases same : j = i
    · rw [if_pos same, if_pos (by rw [same])]
    · rw [if_neg same, if_neg (add_ofNat_ne rd (by omega) hi same)]
      rfl
  refine ⟨rfl, fun k hk => ?_, fun j hj => ?_, fun q outside => ?_⟩
  · rw [stringByte_eq, stringReg, written (k / 4) (by omega)]
    by_cases last : k / 4 = i
    · have place : 4 * i + k % 4 = k := by omega
      rw [if_pos last, bytes (k % 4) (by omega), place]
    · rw [if_neg last, if_pos (by omega)]
      exact (loaded k (by omega)).trans (if_pos (by omega))
  · rw [written j hj]
    by_cases last : j = i
    · rw [if_pos last, narrow]
    · rw [if_neg last]
      exact highs j (by omega)
  · rw [inWrappedRange_eq_false] at outside
    have other : q ≠ rd + BitVec.ofNat 5 i := by
      rintro rfl
      rw [BitVec.add_comm, BitVec.add_sub_cancel, BitVec.toNat_ofNat] at outside
      omega
    rw [State.setGpr_getGpr, if_neg other]
    exact kept q (inWrappedRange_eq_false.mpr (by omega))

theorem stringIn_readyByte {k : Nat} (hk : k < 128) (h : stringIn s u x rd b k ((k + 3) / 4)) :
    stringIn s u (readyByte rd x k) rd b k (k / 4 + 1) := by
  rw [readyByte]
  split
  · have frame : x = u.withGprs x := h.1
    rw [frame]
    refine stringIn_setGpr u h (by omega) (by omega) (by omega) (by omega) (by omega) rfl fun j _ => ?_
    rw [wordByte_zero, if_neg (by omega)]
  · have started : (k + 3) / 4 = k / 4 + 1 := by omega
    rwa [started] at h

theorem stringIn_putByte {k : Nat} (v : State) (hk : k < 128) (h : stringIn s u x rd b k (k / 4 + 1)) :
    stringIn s v (putByte rd (v.withGprs x) k [b k]) rd b (k + 1) ((k + 1 + 3) / 4) := by
  obtain ⟨-, loaded, highs, -⟩ := id h
  have place : k % 4 < 4 := Nat.mod_lt k (by omega)
  rw [putByte, zeroLoaded_singleton, show (k + 1 + 3) / 4 = k / 4 + 1 by omega]
  refine stringIn_setGpr v h (by omega) (by omega) (by omega) (by omega) (by omega) ?_ fun j hj => ?_
  · rw [high_or, stringShift, high_shifted _ place, State.withGprs_getGpr, stringReg, highs _ (k / 4).lt_succ_self]
    rfl
  · have old := loaded (4 * (k / 4) + j) (by omega)
    rw [stringByte_eq, stringReg, show (4 * (k / 4) + j) / 4 = k / 4 by omega, show (4 * (k / 4) + j) % 4 = j by omega] at old
    rw [wordByte_or, stringShift, wordByte_shifted _ place hj, State.withGprs_getGpr, stringReg, old]
    by_cases here : j = k % 4
    · have index : 4 * (k / 4) + j = k := by omega
      rw [index, if_neg (Nat.lt_irrefl k), if_pos here, if_pos k.lt_succ_self]
      exact BitVec.zero_or
    · rw [if_neg here]
      exact BitVec.or_zero.trans (if_congr (by omega) rfl rfl)

end

theorem stringIn_loadsMake (s : State) (rd : BitVec 5) (b : Nat → Byte) :
    LoadsMake (readyByte rd) (putByte rd) (fun k => [b k]) 128 (fun u x k => stringIn s u x rd b k (k / 4 + 1))
      (fun u x k => stringIn s u x rd b k ((k + 3) / 4)) where
  ready hk h := stringIn_readyByte hk h
  put v hk h := stringIn_putByte v hk h
  ready_frame h := h.1
  frame h := h.1

/-! ## The instructions (O42) -/

theorem readsAs_singleton {u : State} {pas : List Dword} {b : Nat → Byte} (h : u.readsAs pas ((List.range pas.length).map b))
    (j : Nat) (hj : j < pas.length) : u.readsAs (bytesFrom pas[j] 1) [b j] := by
  have byte := List.getElem_of_eq h (i := j) (by simpa using hj)
  rw [bytesFrom_one]
  simpa [State.readsAs] using byte

theorem stringLoads_loadString (s : State) (rd : BitVec 5) (base : Dword) {n : Nat} (fits : n ≤ 128) :
    stringLoads s rd base n (finishMoves (loadString s rd (s.ea32 base) 0 n)) := by
  intro pas u b le reached reads
  have start : stringIn s s s rd b 0 ((0 + 3) / 4) :=
    ⟨rfl, fun k hk => absurd hk (by omega), fun j hj => absurd hj (by omega), fun _ _ => rfl⟩
  obtain ⟨x, loaded, completes, stops⟩ :=
    loadEach_effect (stringIn_loadsMake s rd b) start reached (readsAs_singleton reads) le fits
  rw [loadString_eq_loadEach]
  refine ⟨fun all => ⟨x, all ▸ loaded, completes all⟩, fun more => ?_⟩
  obtain ⟨cleared, stopped, unwritten⟩ := stops more
  exact ⟨readyByte rd x pas.length, cleared, stopped, fun pa v goes missing => unwritten pa v _ goes (firstUnwritten_one missing)⟩

theorem storeString_effect (s : State) (rs : BitVec 5) (base : Dword) (n : Nat) :
    chunksEffect s base 1 n (fun k => [stringByte s rs k]) (finishMoves (storeString s rs (s.ea32 base) 0 n)) := by
  rw [storeString_eq_storeEach]
  refine storeEach_effect (size := 1) (fun t k gpr => ?_) (fun _ => rfl) n
  rw [stringChunk, ← lowBytes_eq, State.getGpr, gpr]
  rfl

theorem State.xerCount_lt (s : State) : s.xerCount < 128 := (s.xer.setWidth 7).isLt

theorem stringCount_le (nb : BitVec 5) : stringCount nb ≤ 32 := by
  rw [stringCount]
  split
  · exact le_rfl
  · exact nb.isLt.le

/-- With a count of 0, `lswx` draws what comes into rD and changes nothing else. -/
theorem drawn_gpr (s : State) (r : BitVec 5) :
    ∃ t, done (s.setGpr r (s.draw 64)).drew = .next t ∧ t = { s with gpr := t.gpr, nia := s.nextPc, draws := t.draws } ∧
      gprsKept s t [r] ∧ sameMemory s t := by
  refine ⟨_, rfl, rfl, fun q other => ?_, fun _ => rfl⟩
  exact (s.setGpr_getGpr r q _).trans (if_neg (by simpa using other))

/-- Settles O42: the loads fill the registers byte by byte, and the stores take the bytes that stood in them. -/
theorem strings : Obligations.Strings := by
  unfold Obligations.Strings
  intro s r ra rb nb
  have lswx (form : (Instr.lswx r ra rb).wellFormed s.cfg.impl64 = true) : exec (.lswx r ra rb) s = _ := exec_user rfl rfl form
  refine ⟨fun form => ?lswi, fun form nonzero freeA freeB => ?lswx, fun form nonzero taken => ?overlap, fun form zero => ?drawn,
    storeString_effect s r (s.gprOrZero ra) (stringCount nb), storeString_effect s r (sumX s ra rb) s.xerCount⟩
  case lswi =>
    rw [exec_user rfl rfl form]
    exact stringLoads_loadString s r (s.gprOrZero ra) ((stringCount_le nb).trans (by omega))
  case lswx =>
    rw [lswx form, if_neg nonzero, freeA, freeB]
    exact stringLoads_loadString s r (sumX s ra rb) s.xerCount_lt.le
  case overlap =>
    rw [lswx form, if_neg nonzero, if_pos (Bool.or_eq_true _ _ ▸ taken)]
  case drawn =>
    rw [lswx form, if_pos zero]
    exact drawn_gpr s r

end Sys2Proof.Machine
end

section
/-!
PROOFS. Floating-point loads and stores at aligned addresses (46_load_store_float R450, R453 to R469). Every form meets a statement
about its access as soon as the shared operation does (`floatLoads_of_meets`, `floatStores_of_meets`), and the aligned access meets
its own.
-/

namespace Sys2Proof.Machine

/-- Settles O49: every form of floating-point load and store meets the statement that the shared aligned access meets. -/
theorem floatStorage : Obligations.FloatStorage := by
  unfold Obligations.FloatStorage
  exact ⟨floatLoads_of_meets loadsAligned_meets, floatStores_of_meets storesAligned_meets⟩

end Sys2Proof.Machine
end

section
/-!
PROOFS. The conversions between single and double format (46_load_store_float R451, R452). A double carries a single when their
fields agree (`Carries`): it then stands for the same number, DOUBLE makes it of the single and SINGLE makes the single of it.
-/

namespace Sys2Proof.Machine

/-! ## The fields of a single -/

theorem toNat_append_eq {m n : Nat} (x : BitVec m) (y : BitVec n) : (x ++ y).toNat = x.toNat * 2 ^ n + y.toNat := by
  rw [BitVec.toNat_append, ← Nat.shiftLeft_add_eq_or_of_lt y.isLt, Nat.shiftLeft_eq]

/-- The biased exponent field of a single. -/
def singleExp (w : Word) : Nat := (slice 8 w 1).toNat

/-- The fraction field of a single. -/
def singleFrac (w : Word) : Nat := (slice 23 w 9).toNat

section
variable {neg : Bool} {k f : Nat}

theorem singleExp_eq (w : Word) : singleExp w = w.toNat / 2 ^ 23 % 2 ^ 8 := by
  rw [singleExp, slice, BitVec.extractLsb'_toNat, Nat.shiftRight_eq_div_pow]

theorem singleFrac_eq (w : Word) : singleFrac w = w.toNat % 2 ^ 23 := by
  rw [singleFrac, slice, BitVec.extractLsb'_toNat, Nat.shiftRight_eq_div_pow, Nat.pow_zero, Nat.div_one]

theorem singleExp_lt (w : Word) : singleExp w < 256 := (slice 8 w 1).isLt

theorem singleFrac_lt (w : Word) : singleFrac w < 2 ^ 23 := (slice 23 w 9).isLt

theorem toNat_singleFields (w : Word) : w.toNat = w.msb.toNat * 2 ^ 31 + singleExp w * 2 ^ 23 + singleFrac w := by
  have lt := w.isLt
  rw [singleExp_eq, singleFrac_eq, BitVec.msb_eq_decide]
  by_cases h : 2 ^ 31 ≤ w.toNat
  · rw [decide_eq_true h, Bool.toNat_true]; omega
  · rw [decide_eq_false h, Bool.toNat_false]; omega

theorem makeSingle_toNat (hk : k < 256) (hf : f < 2 ^ 23) :
    (makeSingle neg k f).toNat = neg.toNat * 2 ^ 31 + k * 2 ^ 23 + f := by
  rw [makeSingle, toNat_append_eq, toNat_append_eq, BitVec.toNat_ofNat, BitVec.toNat_ofNat, Nat.mod_eq_of_lt hk,
    Nat.mod_eq_of_lt hf, BitVec.toNat_ofBool]
  ring

theorem makeSingle_fields (hk : k < 256) (hf : f < 2 ^ 23) : (makeSingle neg k f).msb = neg ∧
    singleExp (makeSingle neg k f) = k ∧ singleFrac (makeSingle neg k f) = f := by
  have value := makeSingle_toNat (neg := neg) hk hf
  rw [BitVec.msb_eq_decide, singleExp_eq, singleFrac_eq, value]
  cases neg <;> simp only [Bool.toNat_true, Bool.toNat_false, decide_eq_true_eq, decide_eq_false_iff_not] <;> omega

/-- A single is made of its fields. -/
theorem makeSingle_of_fields (w : Word) : makeSingle w.msb (singleExp w) (singleFrac w) = w := by
  apply BitVec.eq_of_toNat_eq
  rw [makeSingle_toNat (singleExp_lt w) (singleFrac_lt w), ← toNat_singleFields]

theorem singleNumber_fields (w : Word) : singleNumber w = signFactor w.msb *
    (if singleExp w = 0 then (singleFrac w : ℚ) * 2 ^ (-149 : ℤ)
     else ((2 ^ 23 + singleFrac w : ℕ) : ℚ) * 2 ^ ((singleExp w : ℤ) - 150)) := by
  have exponent : slice 8 w 1 = 0 ↔ singleExp w = 0 := by rw [← BitVec.toNat_inj]; exact Iff.rfl
  rw [singleNumber]
  by_cases h : singleExp w = 0
  · rw [if_pos (exponent.mpr h), if_pos h]; rfl
  · rw [if_neg (fun e => h (exponent.mp e)), if_neg h]; rfl

end

/-! ## Singles in double format -/

/-- The fields of exponent and fraction of the double that a single becomes (R451): a number with the bias of the double format; a
denormalized number with its significand shifted left to a leading 1; a zero; an infinity or a NaN. -/
inductive CarriesFields (w : Word) (d : Dword) : Prop where
  | normal (low : 0 < singleExp w) (high : singleExp w < 255) (exp : expField d = singleExp w + 896)
      (frac : fracField d = singleFrac w * 2 ^ 29)
  | denormal (k : Nat) (tiny : singleExp w = 0) (low : 30 ≤ k) (high : k ≤ 52) (exp : expField d + k = 926)
      (frac : 2 ^ 52 + fracField d = singleFrac w * 2 ^ k)
  | zero (tiny : singleExp w = 0) (none : singleFrac w = 0) (exp : expField d = 0) (frac : fracField d = 0)
  | special (all : singleExp w = 255) (exp : expField d = 2047) (frac : fracField d = singleFrac w * 2 ^ 29)

/-- The double carries the single: its sign and its fields. -/
structure Carries (w : Word) (d : Dword) : Prop where
  sign : d.msb = w.msb
  fields : CarriesFields w d

section
variable {w : Word} {d e : Dword}

theorem Carries.isNumber_iff (h : Carries w d) : isNumber d = true ↔ singleExp w ≠ 255 := by
  rw [Machine.isNumber_iff]
  cases h.fields <;> omega

theorem Carries.numberOf_eq (h : Carries w d) (number : singleExp w ≠ 255) : numberOf d = singleNumber w := by
  rw [numberOf_fields, singleNumber_fields, h.sign]
  congr 1
  cases h.fields with
  | normal low high exp frac =>
    rw [if_neg (by omega), if_neg (by omega), exp, frac,
      show ((singleExp w + 896 : ℕ) : ℤ) - 1075 = (singleExp w - 150) + (-29) by push_cast; ring, zpow_add₀ two_ne_zero]
    push_cast
    ring
  | denormal k tiny low high exp frac =>
    rw [if_neg (by omega), if_pos tiny, frac, show (expField d : ℤ) - 1075 = -149 - k by omega, zpow_sub₀ two_ne_zero,
      zpow_natCast]
    push_cast
    field_simp
  | zero tiny none exp frac => rw [if_pos exp, if_pos tiny, none, frac, Nat.cast_zero, zero_mul, zero_mul]
  | special all exp frac => exact absurd all number

/-- Only one double carries a single: a number is determined by its sign and magnitude, every other double by its fields. -/
theorem Carries.unique (hd : Carries w d) (he : Carries w e) : d = e := by
  have sign : d.msb = e.msb := hd.sign.trans he.sign.symm
  by_cases number : singleExp w = 255
  · have fields {x : Dword} (h : Carries w x) : expField x = 2047 ∧ fracField x = singleFrac w * 2 ^ 29 := by
      cases h.fields with
      | special all exp frac => exact ⟨exp, frac⟩
      | normal | denormal | zero => omega
    obtain ⟨expD, fracD⟩ := fields hd
    obtain ⟨expE, fracE⟩ := fields he
    exact eq_of_fields sign (expD.trans expE.symm) (fracD.trans fracE.symm)
  · have value := valueIs_numberOf (hd.isNumber_iff.mpr number)
    have value' := valueIs_numberOf (he.isNumber_iff.mpr number)
    rw [he.numberOf_eq number, ← hd.numberOf_eq number, ← sign] at value'
    exact eq_of_valueIs value value'

/-! ## DOUBLE (R451) -/

theorem widen_toNat (w : Word) (rep : Bool) :
    (widen w rep).toNat = w.toNat / 2 ^ 30 * 2 ^ 62 + rep.toNat * (7 * 2 ^ 59) + w.toNat % 2 ^ 30 * 2 ^ 29 := by
  have lt := w.isLt
  rw [widen]
  simp only [toNat_append_eq, slice, BitVec.extractLsb'_toNat, Nat.shiftRight_eq_div_pow, BitVec.toNat_ofBool,
    BitVec.ofNat_eq_ofNat, BitVec.toNat_zero, Nat.reduceSub]
  omega

theorem widen_fields (w : Word) (rep : Bool) : (widen w rep).msb = w.msb ∧
    expField (widen w rep) = singleExp w / 128 * 1024 + rep.toNat * 896 + singleExp w % 128 ∧
    fracField (widen w rep) = singleFrac w * 2 ^ 29 := by
  have lt := w.isLt
  have bit := Bool.toNat_lt rep
  refine ⟨?_, ?_, ?_⟩
  · rw [BitVec.msb_eq_decide, BitVec.msb_eq_decide, widen_toNat, decide_eq_decide]
    omega
  · rw [expField_eq, singleExp_eq, widen_toNat]
    omega
  · rw [fracField_eq, singleFrac_eq, widen_toNat]
    omega

/-- The second bit of a single, the first of its exponent, is what the widened exponent repeats or inverts. -/
theorem getMsbD_one_eq (w : Word) : w.getMsbD 1 = decide (128 ≤ singleExp w) := by
  have lt := w.isLt
  rw [BitVec.getMsbD, decide_eq_true (by omega), Bool.true_and, BitVec.getLsbD, Nat.testBit_eq_decide_div_mod_eq, singleExp_eq,
    decide_eq_decide]
  omega

/-- The fraction of a denormalized single, shifted until its leading 1 is that of a double. -/
theorem denormal_shift {f : Nat} (nonzero : f ≠ 0) (small : f.log2 ≤ 52) : (f - 2 ^ f.log2) * 2 ^ (52 - f.log2) < 2 ^ 52 ∧
    2 ^ 52 + (f - 2 ^ f.log2) * 2 ^ (52 - f.log2) = f * 2 ^ (52 - f.log2) := by
  have split : 2 ^ f.log2 * 2 ^ (52 - f.log2) = 2 ^ 52 := by rw [← Nat.pow_add, Nat.add_sub_cancel' small]
  have least : 2 ^ 52 ≤ f * 2 ^ (52 - f.log2) := split ▸ Nat.mul_le_mul_right _ (Nat.log2_self_le nonzero)
  have most : f * 2 ^ (52 - f.log2) < 2 * 2 ^ 52 := by
    rw [← split, ← Nat.mul_assoc, ← Nat.pow_succ']
    exact Nat.mul_lt_mul_of_pos_right Nat.lt_log2_self (Nat.two_pow_pos _)
  rw [Nat.sub_mul, split]
  omega

theorem toDouble_fields (w : Word) : toDouble w =
    if 0 < singleExp w ∧ singleExp w < 255 then widen w (!w.getMsbD 1)
    else if singleExp w = 0 ∧ singleFrac w ≠ 0 then
      makeDouble w.msb ((singleFrac w).log2 + 874) ((singleFrac w - 2 ^ (singleFrac w).log2) * 2 ^ (52 - (singleFrac w).log2))
    else widen w (w.getMsbD 1) := rfl

theorem toDouble_carries (w : Word) : Carries w (toDouble w) := by
  have expLt := singleExp_lt w
  have fracLt := singleFrac_lt w
  rw [toDouble_fields, getMsbD_one_eq]
  split_ifs with normal denormal
  · obtain ⟨sign, exp, frac⟩ := widen_fields w (!decide (128 ≤ singleExp w))
    refine ⟨sign, .normal normal.1 normal.2 (exp.trans ?_) frac⟩
    by_cases big : 128 ≤ singleExp w
    · simp only [decide_eq_true big, Bool.not_true, Bool.toNat_false]; omega
    · simp only [decide_eq_false big, Bool.not_false, Bool.toNat_true]; omega
  · obtain ⟨tiny, nonzero⟩ := denormal
    have log : (singleFrac w).log2 < 23 := (Nat.log2_lt nonzero).mpr fracLt
    obtain ⟨small, shifted⟩ := denormal_shift nonzero (by omega)
    obtain ⟨sign, exp, frac⟩ := makeDouble_fields (neg := w.msb) (k := (singleFrac w).log2 + 874) (by omega) small
    exact ⟨sign, .denormal (52 - (singleFrac w).log2) tiny (by omega) (by omega) (by omega) (by rw [frac, shifted])⟩
  · obtain ⟨sign, exp, frac⟩ := widen_fields w (decide (128 ≤ singleExp w))
    obtain ⟨tiny, none⟩ | all : (singleExp w = 0 ∧ singleFrac w = 0) ∨ singleExp w = 255 := by omega
    · exact ⟨sign, .zero tiny none (exp.trans (by rw [tiny]; decide)) (by rw [frac, none, Nat.zero_mul])⟩
    · exact ⟨sign, .special all (exp.trans (by rw [all]; decide)) frac⟩

theorem toDouble_eq_iff : toDouble w = d ↔ Carries w d :=
  ⟨fun h => h ▸ toDouble_carries w, fun h => (toDouble_carries w).unique h⟩

/-! ## SINGLE (R452) -/

/-- A double that carries a single is not too small to be converted. -/
theorem Carries.defined (h : Carries w d) : singleUndefined d = false := by
  rw [singleUndefined, Bool.and_eq_false_iff, decide_eq_false_iff_not, bne_eq_false_iff_eq, magnitude_zero_iff]
  cases h.fields with
  | zero tiny none exp frac => exact .inr ⟨exp, frac⟩
  | normal | denormal | special => left; omega

theorem narrow_toNat (d : Dword) : (slice 2 d 0 ++ slice 30 d 5).toNat = d.toNat / 2 ^ 62 * 2 ^ 30 + d.toNat / 2 ^ 29 % 2 ^ 30 := by
  have lt := d.isLt
  rw [toNat_append_eq]
  simp only [slice, BitVec.extractLsb'_toNat, Nat.shiftRight_eq_div_pow, Nat.reduceSub]
  omega

/-- The first branch of SINGLE drops the three repeated bits of the exponent and the low-order bits of the fraction. -/
theorem narrow_eq (sign : d.msb = w.msb)
    (exp : singleExp w = expField d / 1024 * 128 + expField d % 128) (frac : fracField d = singleFrac w * 2 ^ 29) :
    slice 2 d 0 ++ slice 30 d 5 = w := by
  apply BitVec.eq_of_toNat_eq
  have fields := toNat_fields d
  have expLt := expField_lt d
  have fracLt := singleFrac_lt w
  rw [signOf, sign] at fields
  have signLt := Bool.toNat_lt w.msb
  rw [narrow_toNat, toNat_singleFields w]
  omega

theorem Carries.toSingle_eq (h : Carries w d) (u : Word) : toSingle u d = w := by
  have expLt := singleExp_lt w
  simp only [toSingle, h.defined, Bool.false_eq_true, if_false, magnitude_zero_iff]
  cases h.fields with
  | normal low high exp frac =>
    rw [if_pos (.inl (by omega))]
    exact narrow_eq h.sign (by omega) frac
  | zero tiny none exp frac =>
    rw [if_pos (.inr ⟨exp, frac⟩)]
    exact narrow_eq h.sign (by omega) (by omega)
  | special all exp frac =>
    rw [if_pos (.inl (by omega))]
    exact narrow_eq h.sign (by omega) frac
  | denormal k tiny low high exp frac =>
    have shift : 2 ^ 11 * 2 ^ k = 2 ^ (897 - expField d) * 2 ^ 40 := by rw [← Nat.pow_add, ← Nat.pow_add]; congr 1; omega
    have fraction : (2 ^ 52 + fracField d) * 2 ^ 11 / 2 ^ (897 - expField d) / 2 ^ 40 = singleFrac w := by
      rw [Nat.div_div_eq_div_mul, frac, Nat.mul_assoc, Nat.mul_comm (2 ^ k), shift]
      exact Nat.mul_div_cancel _ (by positivity)
    rw [if_neg (by omega), fraction, Nat.mod_eq_of_lt (singleFrac_lt w), h.sign, ← tiny]
    exact makeSingle_of_fields w

/-- A double that has a single format and is no NaN carries a single. -/
theorem exists_carries (single : singleRepresentable d = true) (quiet : isNan d = false) : ∃ w, Carries w d := by
  have fracLt := fracField_lt d
  simp only [singleRepresentable, magnitude_zero_iff] at single
  split_ifs at single with plain normal
  · obtain all | ⟨exp, frac⟩ := plain
    · have none : fracField d = 0 := by
        by_contra nonzero
        exact Bool.eq_false_iff.mp quiet (isNan_iff.mpr ⟨all, nonzero⟩)
      obtain ⟨sign, exp', frac'⟩ := makeSingle_fields (neg := d.msb) (k := 255) (f := 0) (by decide) (by decide)
      exact ⟨_, sign.symm, .special exp' all (by rw [none, frac', Nat.zero_mul])⟩
    · obtain ⟨sign, exp', frac'⟩ := makeSingle_fields (neg := d.msb) (k := 0) (f := 0) (by decide) (by decide)
      exact ⟨_, sign.symm, .zero exp' frac' exp frac⟩
  · rw [Bool.and_eq_true, decide_eq_true_eq, beq_iff_eq] at single
    obtain ⟨high, trailing⟩ := single
    obtain ⟨sign, exp, frac⟩ := makeSingle_fields (neg := d.msb) (k := expField d - 896) (f := fracField d / 2 ^ 29) (by omega)
      (by omega)
    exact ⟨_, sign.symm, .normal (by omega) (by omega) (by omega) (by omega)⟩
  · rw [Bool.and_eq_true, decide_eq_true_eq, beq_iff_eq] at single
    obtain ⟨low, trailing⟩ := single
    have small : (2 ^ 52 + fracField d) / 2 ^ (926 - expField d) < 2 ^ 23 := by
      rw [Nat.div_lt_iff_lt_mul (Nat.two_pow_pos _)]
      calc 2 ^ 52 + fracField d < 2 ^ 23 * 2 ^ 30 := by omega
        _ ≤ 2 ^ 23 * 2 ^ (926 - expField d) := Nat.mul_le_mul_left _ (Nat.pow_le_pow_right two_pos (by omega))
    obtain ⟨sign, exp, frac⟩ := makeSingle_fields (neg := d.msb) (k := 0) (by decide) small
    refine ⟨_, sign.symm, .denormal (926 - expField d) exp (by omega) (by omega) (by omega) ?_⟩
    rw [frac, Nat.div_mul_cancel (Nat.dvd_of_mod_eq_zero trailing)]

end

/-- A single with the exponent of infinities and NaNs keeps it and its fraction. -/
theorem toDouble_special {w : Word} (h : singleExp w = 255) :
    slice 11 (toDouble w) 1 = 0x7FF ∧ slice 52 (toDouble w) 12 = slice 23 w 9 ++ (0 : BitVec 29) := by
  cases (toDouble_carries w).fields with
  | normal | denormal | zero => omega
  | special all exp frac =>
    refine ⟨BitVec.eq_of_toNat_eq exp, BitVec.eq_of_toNat_eq ?_⟩
    rw [toNat_append_eq]
    exact frac.trans (Nat.add_zero _).symm

/-- Settles O50: the double that a single becomes carries it, and so does a double that has a single format. -/
theorem singleRoundTrip : Obligations.SingleRoundTrip := by
  unfold Obligations.SingleRoundTrip
  refine ⟨fun w u => ?again, fun w => ?loaded, fun d u single quiet => ?stored⟩
  case again =>
    have carries := toDouble_carries w
    exact ⟨carries.defined, carries.toSingle_eq u⟩
  case loaded =>
    have carries := toDouble_carries w
    have exponent : slice 8 w 1 = 0xFF ↔ singleExp w = 255 := by rw [← BitVec.toNat_inj]; exact Iff.rfl
    rw [ne_eq, exponent]
    exact ⟨carries.sign, fun number => ⟨carries.isNumber_iff.mpr number, carries.numberOf_eq number⟩, toDouble_special⟩
  case stored =>
    obtain ⟨w, carries⟩ := exists_carries single quiet
    rw [carries.toSingle_eq u]
    exact toDouble_eq_iff.mpr carries

end Sys2Proof.Machine
end

section
/-!
PROOFS. What a user-mode program can do to the registers of the supervisor (60_exceptions R602, R607, R620): every instruction
leaves them alone, or enters one exception with them as they were (`State.Confined`).
-/

namespace Sys2Proof.Machine

/-! ## The registers of the supervisor -/

/-- The registers that neither a user-mode instruction nor an exception entry writes, with the parameters. -/
structure ProtectedRegisters where
  cfg : Config
  sdr1 : Dword
  sprg : Vector Dword 4
  asr : Dword
  ear : Word
  ibat : Vector Dword 8
  dbat : Vector Dword 8
  dabr : Dword
  dec : Word
  tb : Dword
  pvr : Word
  sr : Vector Word 16

/-- The registers that an exception entry writes beside the pc, and the trace of entries. -/
structure EntryRegisters where
  msr : Dword
  srr0 : Dword
  srr1 : Dword
  dsisr : Word
  dar : Dword
  entered : List Exc

def State.protectedRegisters (s : State) : ProtectedRegisters :=
  { cfg := s.cfg, sdr1 := s.sdr1, sprg := s.sprg, asr := s.asr, ear := s.ear, ibat := s.ibat, dbat := s.dbat, dabr := s.dabr,
    dec := s.dec, tb := s.tb, pvr := s.pvr, sr := s.sr }

def State.entryRegisters (s : State) : EntryRegisters :=
  { msr := s.msr, srr0 := s.srr0, srr1 := s.srr1, dsisr := s.dsisr, dar := s.dar, entered := s.entered }

/-- `t` has the supervisor's registers of `s`. -/
structure State.SameSupervisor (s t : State) : Prop where
  kept : t.protectedRegisters = s.protectedRegisters
  entry : t.entryRegisters = s.entryRegisters

theorem enter_protectedRegisters (e : Exc) (ret : Dword) (s : State) :
    (enter e ret s).protectedRegisters = s.protectedRegisters := by
  rw [enter_frame]
  rfl

section
variable {s t u : State}

theorem State.SameSupervisor.refl (s : State) : s.SameSupervisor s := ⟨rfl, rfl⟩

theorem State.SameSupervisor.trans (h : s.SameSupervisor t) (k : t.SameSupervisor u) : s.SameSupervisor u :=
  ⟨k.kept.trans h.kept, k.entry.trans h.entry⟩

theorem State.SameSupervisor.ite {c : Prop} [Decidable c] (h : s.SameSupervisor t) (k : s.SameSupervisor u) :
    s.SameSupervisor (if c then t else u) := by
  split
  · exact h
  · exact k

theorem State.SameSupervisor.storeAll (h : s.SameSupervisor t) (pas : List Dword) (bytes : List Byte) :
    s.SameSupervisor (t.storeAll pas bytes) := by
  rw [t.storeAll_frame]
  exact ⟨h.kept, h.entry⟩

end

/-! ## Results and accesses -/

/-- The next state of `r`, if it has one, has the supervisor's registers of `s`, or is what one exception entry makes of a state
that has them. -/
def State.Confined (s : State) (r : Result) : Prop :=
  match r with
  | .next t => s.SameSupervisor t ∨ ∃ e ret u, s.SameSupervisor u ∧ t = enter e ret u
  | .fault _ => True
  | .refused _ => True

/-- The state that the access leaves, to go on or for the entry of its exception, has the supervisor's registers of `s`. -/
def State.ConfinedAccess {α : Type} (s : State) (a : Access α) : Prop :=
  match a with
  | .ok _ t => s.SameSupervisor t
  | .raises _ t => s.SameSupervisor t
  | .faults _ => True

section
variable {s t : State}

theorem State.Confined.after {r : Result} (h : s.SameSupervisor t) (k : t.Confined r) : s.Confined r :=
  match r, k with
  | .next _, .inl k => .inl (h.trans k)
  | .next _, .inr ⟨e, ret, u, k, he⟩ => .inr ⟨e, ret, u, h.trans k, he⟩
  | .fault _, _ => trivial
  | .refused _, _ => trivial

theorem State.ConfinedAccess.after {α : Type} {a : Access α} (h : s.SameSupervisor t) (k : t.ConfinedAccess a) :
    s.ConfinedAccess a :=
  match a, k with
  | .ok _ _, k => h.trans k
  | .raises _ _, k => h.trans k
  | .faults _, _ => trivial

theorem State.Confined.ite {c : Prop} [Decidable c] {r q : Result} (h : s.Confined r) (k : s.Confined q) :
    s.Confined (if c then r else q) := by
  split
  · exact h
  · exact k

theorem State.SameSupervisor.done (h : s.SameSupervisor t) : s.Confined (done t) := .inl (h.trans ⟨rfl, rfl⟩)

theorem State.SameSupervisor.raise (h : s.SameSupervisor t) (e : Exc) : s.Confined (raise e t) := .inr ⟨e, _, t, h, rfl⟩

/-- The checks before an instruction end in an exception, in its effect, or in a fault. -/
theorem State.Confined.guarded {i : Instr} {k : Result} (h : preCheck i s = none → s.Confined k) :
    s.Confined (guarded i s k) := by
  obtain ⟨e, -, hg⟩ | ⟨hp, -, hg⟩ | ⟨-, -, hg⟩ := guarded_cases i s k <;> rw [hg]
  · exact (State.SameSupervisor.refl s).raise e
  · exact h hp
  · trivial

theorem State.ConfinedAccess.bind {α β : Type} {a : Access α} {k : α → State → Access β} (h : s.ConfinedAccess a)
    (hk : ∀ v (t : State), t.ConfinedAccess (k v t)) : s.ConfinedAccess (a.bind k) :=
  match a, h with
  | .ok v t, h => .after h (hk v t)
  | .raises _ _, h => h
  | .faults _, _ => trivial

theorem State.ConfinedAccess.finish {α : Type} {a : Access α} {k : α → State → Result} (h : s.ConfinedAccess a)
    (hk : ∀ v (t : State), t.Confined (k v t)) : s.Confined (a.finish k) :=
  match a, h with
  | .ok v t, h => .after h (hk v t)
  | .raises e _, h => h.raise e
  | .faults _, _ => trivial

end

/-! ## Accesses -/

theorem translateData_confined (s : State) (kind : AccessKind) (ea : Dword) : s.ConfinedAccess (translateData s kind ea) := by
  simp only [translateData]
  split
  · trivial
  · split
    · exact .refl s
    · split
      · exact ⟨rfl, rfl⟩
      · exact .refl s

theorem checkBreak_confined (s : State) (kind : AccessKind) (ea : Dword) : s.ConfinedAccess (checkBreak s kind ea) := by
  simp only [checkBreak]
  split
  · trivial
  · split <;> exact .refl s

theorem reach_confined (s : State) (kind : AccessKind) (ea : Dword) : s.ConfinedAccess (reach s kind ea) :=
  (translateData_confined s kind ea).bind fun _ t => (checkBreak_confined t kind ea).bind fun _ u => .refl u

theorem reachEach_confined (s : State) (kind : AccessKind) (ea : Dword) (n : Nat) :
    s.ConfinedAccess (reachEach s kind ea n) := by
  induction n generalizing s ea with
  | zero => exact .refl s
  | succ n ih => exact (reach_confined s kind ea).bind fun _ t => (ih t _).bind fun _ u => .refl u

theorem reachUnit_confined (s : State) (kind : AccessKind) (ea : Dword) (n : Nat) : s.ConfinedAccess (reachUnit s kind ea n) :=
  (reach_confined s kind ea).bind fun _ t => .refl t

theorem reachScalar_confined (s : State) (kind : AccessKind) (ea : Dword) (n : Nat) :
    s.ConfinedAccess (reachScalar s kind ea n) := by
  unfold reachScalar
  split
  · exact reachUnit_confined s kind ea n
  · split
    · exact .refl s
    · exact reachEach_confined s kind ea n

theorem readAt_confined (pas : List Dword) (s : State) : s.ConfinedAccess (readAt pas s) := by
  unfold readAt
  split
  · exact .refl s
  · trivial

theorem loadBytes_confined (s : State) (ea : Dword) (n : Nat) : s.ConfinedAccess (loadBytes s ea n) :=
  (reachScalar_confined s .load ea n).bind readAt_confined

theorem storeBytes_confined (s : State) (ea : Dword) (bytes : List Byte) : s.ConfinedAccess (storeBytes s ea bytes) :=
  (reachScalar_confined s .store ea _).bind fun pas t => (State.SameSupervisor.refl t).storeAll pas bytes

theorem loadUnit_confined (s : State) (ea : Dword) (n : Nat) : s.ConfinedAccess ((reachUnit s .load ea n).bind readAt) :=
  (reachUnit_confined s .load ea n).bind readAt_confined

theorem loadWords_confined (s : State) (r : BitVec 5) (ea : Dword) (n : Nat) : s.ConfinedAccess (loadWords s r ea n) := by
  induction n generalizing s r ea with
  | zero => exact .refl s
  | succ n ih => exact (loadUnit_confined s ea 4).bind fun _ t => .after (t := t.setGpr r _) ⟨rfl, rfl⟩ (ih _ _ _)

theorem storeWords_confined (s : State) (r : BitVec 5) (ea : Dword) (n : Nat) : s.ConfinedAccess (storeWords s r ea n) := by
  induction n generalizing s r ea with
  | zero => exact .refl s
  | succ n ih =>
    exact (reachUnit_confined s .store ea 4).bind fun _ t => .after ((State.SameSupervisor.refl t).storeAll _ _) (ih _ _ _)

theorem loadString_confined (s : State) (rd : BitVec 5) (ea : Dword) (k n : Nat) :
    s.ConfinedAccess (loadString s rd ea k n) := by
  induction n generalizing s ea k with
  | zero => exact .refl s
  | succ n ih =>
    have cleared : s.SameSupervisor (if k % 4 = 0 then s.setGpr (stringReg rd k) 0 else s) := .ite ⟨rfl, rfl⟩ (.refl s)
    exact .after cleared ((loadUnit_confined _ ea 1).bind fun _ t =>
      .after (t := t.setGpr (stringReg rd k) _) ⟨rfl, rfl⟩ (ih _ _ _))

theorem storeString_confined (s : State) (rs : BitVec 5) (ea : Dword) (k n : Nat) :
    s.ConfinedAccess (storeString s rs ea k n) := by
  induction n generalizing s ea k with
  | zero => exact .refl s
  | succ n ih =>
    exact (reachUnit_confined s .store ea 1).bind fun _ t => .after ((State.SameSupervisor.refl t).storeAll _ _) (ih _ _ _)

theorem reachExternal_confined (s : State) (kind : AccessKind) (ea : Dword) : s.ConfinedAccess (reachExternal s kind ea) := by
  unfold reachExternal
  split_ifs
  · trivial
  · trivial
  · trivial
  · exact .refl s
  · exact .refl s
  · exact (translateData_confined s kind ea).bind fun _ t => .refl t
  · exact (translateData_confined s kind ea).bind fun _ t => (checkBreak_confined t kind ea).bind fun _ u => .refl u

/-! ## Ends of instructions -/

section
variable (s : State)

theorem raise_confined (e : Exc) : s.Confined (raise e s) := (State.SameSupervisor.refl s).raise e

/-- An instruction that completes with none of the supervisor's registers written. -/
theorem done_confined {t : State} (kept : t.protectedRegisters = s.protectedRegisters)
    (entry : t.entryRegisters = s.entryRegisters) : s.Confined (done t) :=
  State.SameSupervisor.done ⟨kept, entry⟩

theorem finishAdd_confined (rd : BitVec 5) (carries oe rc : Bool) (r : AddResult) :
    s.Confined (finishAdd rd carries oe rc r s) := by
  cases carries <;> cases oe <;> cases rc <;> exact done_confined s rfl rfl

theorem finishResult_confined (rd : BitVec 5) (oe rc ov : Bool) (v : Dword) : s.Confined (finishResult rd oe rc ov v s) := by
  cases oe <;> cases rc <;> exact done_confined s rfl rfl

theorem setGprWord_sameSupervisor (rd : BitVec 5) (w : Word) : s.SameSupervisor (s.setGprWord rd w) :=
  .ite ⟨rfl, rfl⟩ ⟨rfl, rfl⟩

theorem recordWordIf_sameSupervisor (rc : Bool) (w : Word) : s.SameSupervisor (s.recordWordIf rc w) :=
  .ite (.ite ⟨rfl, rfl⟩ ⟨rfl, rfl⟩) (.refl s)

theorem finishWord_confined (rd : BitVec 5) (oe rc ov : Bool) (w : Word) : s.Confined (finishWord rd oe rc ov w s) := by
  have written : s.SameSupervisor (if oe then (s.setGprWord rd w).setOv ov else s.setGprWord rd w) :=
    (setGprWord_sameSupervisor s rd w).trans (.ite ⟨rfl, rfl⟩ (.refl _))
  exact (written.trans (recordWordIf_sameSupervisor _ rc w)).done

theorem finishBadDivide_confined (rd : BitVec 5) (oe rc : Bool) : s.Confined (finishBadDivide rd oe rc s) := by
  cases oe <;> cases rc <;> exact done_confined s rfl rfl

theorem finishLogical_confined (ra : BitVec 5) (rc : Bool) (v : Dword) : s.Confined (finishLogical ra rc v s) := by
  cases rc <;> exact done_confined s rfl rfl

theorem finishRotateWord_confined (ra : BitVec 5) (rc : Bool) (mb me : BitVec 5) (h l : Word) :
    s.Confined (finishRotateWord ra rc mb me h l s) :=
  .ite (.after (t := s.drew) ⟨rfl, rfl⟩ (finishLogical_confined s.drew ra rc _)) (finishLogical_confined s ra rc _)

theorem finishAlgebraic_confined (ra : BitVec 5) (rc sign lost : Bool) (r m : Dword) :
    s.Confined (finishAlgebraic ra rc sign lost r m s) := by
  cases rc <;> exact done_confined s rfl rfl

/-- The link register, then the marks and the pc. -/
theorem finishBranch_confined (taken : Bool) (target : Dword) (lk : Bool) : s.Confined (finishBranch taken target lk s) := by
  have linked : s.SameSupervisor (s.link lk) := .ite ⟨rfl, rfl⟩ (.refl s)
  refine .inl (linked.trans ?_)
  rw [State.branchTo_frame]
  exact ⟨rfl, rfl⟩

theorem branchConditional_confined (bo bi : BitVec 5) (target : Dword) (lk : Bool) :
    s.Confined (branchConditional bo bi target lk s) := by
  have decremented : s.SameSupervisor (s.decrementCtr bo) := .ite (.refl s) ⟨rfl, rfl⟩
  have noted : (s.decrementCtr bo).SameSupervisor ((s.decrementCtr bo).noteCounter bo bi) := by
    rw [State.noteCounter_frame]
    exact ⟨rfl, rfl⟩
  exact .after (decremented.trans noted) (finishBranch_confined _ _ _ _)

theorem trapIf_confined (c : Bool) : s.Confined (trapIf c s) := .ite (raise_confined s _) (done_confined s rfl rfl)

/-! ### Floating point -/

theorem endEnabled_confined (enabled : Bool) : s.Confined (endEnabled enabled s) :=
  .ite (raise_confined s _) (done_confined s rfl rfl)

theorem fpUpdate_sameSupervisor (frd : BitVec 5) (single rc : Bool) (out : FpOut) :
    s.SameSupervisor (fpUpdate frd single rc out s) := by
  rw [fpUpdate_eq]
  exact ⟨rfl, rfl⟩

theorem fpFinish_confined (frd : BitVec 5) (single rc : Bool) (out : FpOut) : s.Confined (fpFinish frd single rc out s) :=
  .after (fpUpdate_sameSupervisor s frd single rc out) (endEnabled_confined _ _)

theorem convertFinish_confined (frd : BitVec 5) (single rc : Bool) (out : FpOut) :
    s.Confined (convertFinish frd single rc out s) :=
  .after (fpUpdate_sameSupervisor s frd single rc out) (endEnabled_confined _ _)

theorem runDouble_confined (frd : BitVec 5) (rc : Bool) (affected : Word) (op : FpOp) (x : FpOperands)
    (out : Word → Dword → FpOut) : s.Confined (runDouble frd rc affected op x out s) :=
  .after (t := s.drew) ⟨rfl, rfl⟩ (fpFinish_confined s.drew _ _ _ _)

theorem runSingle_confined (frd : BitVec 5) (rc : Bool) (used : List Dword) (affected : Word) (op : FpOp) (x : FpOperands)
    (out : Word → Dword → FpOut) : s.Confined (runSingle frd rc used affected op x out s) := by
  rw [runSingle_eq]
  exact .after (t := { s with draws := s.draws + 2 }) ⟨rfl, rfl⟩ (fpFinish_confined _ _ _ _ _)

theorem convertWord_confined (frd frb : BitVec 5) (rc : Bool) (kind : FpKind) (mode : Word → RoundMode) :
    s.Confined (convertWord frd frb rc kind mode s) :=
  .after (t := s.drew.drew) ⟨rfl, rfl⟩ (convertFinish_confined _ _ _ _ _)

theorem convertDword_confined (frd frb : BitVec 5) (rc : Bool) (kind : FpKind) (mode : Word → RoundMode) :
    s.Confined (convertDword frd frb rc kind mode s) :=
  .after (t := s.drew) ⟨rfl, rfl⟩ (convertFinish_confined _ _ _ _ _)

theorem moveFpr_confined (frd frb : BitVec 5) (rc : Bool) (v : Dword) : s.Confined (moveFpr frd frb rc v s) := by
  cases rc <;> exact done_confined s rfl rfl

theorem endCompare_confined (crfd : BitVec 3) (c : BitVec 4) (raised : Word) : s.Confined (endCompare crfd c raised s) :=
  .after (t := (s.setCrField crfd c).setFpscr (compareFpscr s.fpscr c raised)) ⟨rfl, rfl⟩ (endEnabled_confined _ _)

theorem endFpscr_confined (rc : Bool) (f : Word) : s.Confined (endFpscr rc f s) := by
  have written : s.SameSupervisor ((s.setFpscr f).recordCr1If rc) := .ite ⟨rfl, rfl⟩ ⟨rfl, rfl⟩
  exact .after written (endEnabled_confined _ _)

/-! ### Storage -/

theorem loadGpr_confined (rd : BitVec 5) (ea : Dword) (n : Nat) (extend : List Byte → Dword) :
    s.Confined (loadGpr rd ea n extend s) :=
  (loadBytes_confined s ea n).finish fun _ t => done_confined t rfl rfl

theorem loadGprUpdate_confined (rd ra : BitVec 5) (sum : Dword) (n : Nat) (extend : List Byte → Dword) :
    s.Confined (loadGprUpdate rd ra sum n extend s) :=
  (loadBytes_confined s _ n).finish fun _ t => done_confined t rfl rfl

theorem storeValue_confined (ea : Dword) (bytes : List Byte) : s.Confined (storeValue ea bytes s) :=
  (storeBytes_confined s ea bytes).finish fun _ t => done_confined t rfl rfl

theorem storeValueUpdate_confined (ra : BitVec 5) (sum : Dword) (bytes : List Byte) :
    s.Confined (storeValueUpdate ra sum bytes s) :=
  (storeBytes_confined s _ bytes).finish fun _ t => done_confined t rfl rfl

theorem loadFpr_confined (frd : BitVec 5) (ea : Dword) (n : Nat) (single : Bool) (convert : List Byte → Dword) :
    s.Confined (loadFpr frd ea n single convert s) :=
  (loadBytes_confined s ea n).finish fun _ t => done_confined t rfl rfl

theorem loadFprUpdate_confined (frd ra : BitVec 5) (sum : Dword) (n : Nat) (single : Bool) (convert : List Byte → Dword) :
    s.Confined (loadFprUpdate frd ra sum n single convert s) :=
  (loadBytes_confined s _ n).finish fun _ t => done_confined t rfl rfl

theorem formSingle_sameSupervisor (frs : BitVec 5) : s.SameSupervisor (s.formSingle frs) := .ite ⟨rfl, rfl⟩ (.refl s)

theorem formInteger_sameSupervisor (frs : BitVec 5) : s.SameSupervisor (s.formInteger frs) := .ite ⟨rfl, rfl⟩ (.refl s)

theorem finishMoves_confined {a : Access Unit} (h : s.ConfinedAccess a) : s.Confined (finishMoves a) :=
  h.finish fun _ t => done_confined t rfl rfl

theorem loadReserve_confined (rd : BitVec 5) (ea : Dword) (n : Nat) : s.Confined (loadReserve rd ea n s) :=
  .ite
    ((reach_confined s .load ea).finish fun _ t => (readAt_confined _ t).finish fun _ u => done_confined u rfl rfl)
    (raise_confined s _)

theorem finishConditional_confined (stored : Bool) (pa : Dword) (bytes : List Byte) :
    s.Confined (finishConditional stored pa bytes s) := by
  have written : s.SameSupervisor (if stored then s.storeAll (bytesFrom pa bytes.length) bytes else s) :=
    .ite (.storeAll (.refl s) _ _) (.refl s)
  have unreserved : s.SameSupervisor (State.clearReserve (State.recordStored _ stored)) := written.trans ⟨rfl, rfl⟩
  exact unreserved.done

/-- It stores, stores or not by a draw, or does not store. -/
theorem storeConditional_confined (ea : Dword) (bytes : List Byte) : s.Confined (storeConditional ea bytes s) :=
  .ite
    ((reach_confined s .store ea).finish fun pa t =>
      .ite (.ite (finishConditional_confined t true pa.1 bytes)
          (.after (t := t.drew) ⟨rfl, rfl⟩ (finishConditional_confined t.drew _ pa.1 bytes)))
        (finishConditional_confined t false pa.1 bytes))
    (raise_confined s _)

theorem touchBlock_confined (ea : Dword) : s.Confined (touchBlock ea s) :=
  (reach_confined s .load ea).finish fun _ t => done_confined t rfl rfl

theorem undefineBlock_sameSupervisor (pa : Dword) : s.SameSupervisor (s.undefineBlock pa) :=
  (State.SameSupervisor.storeAll (.refl s) (s.blockAddresses pa) (s.drawnBytes s.blockBytes)).trans ⟨rfl, rfl⟩

/-! ### Instructions that share no operation with another -/

theorem execLswx_confined (rd ra rb : BitVec 5) : s.Confined (execLswx rd ra rb s) :=
  .guarded fun _ => .ite (done_confined s rfl rfl)
    (.ite trivial (finishMoves_confined s (loadString_confined s rd _ 0 _)))

theorem execFselx_confined (frd fra frb frc : BitVec 5) (rc : Bool) : s.Confined (execFselx frd fra frb frc rc s) :=
  .guarded fun _ => by cases rc <;> exact done_confined s rfl rfl

theorem execFrspx_confined (frd frb : BitVec 5) (rc : Bool) : s.Confined (execFrspx frd frb rc s) :=
  .guarded fun _ => .after (t := s.drew) ⟨rfl, rfl⟩ (convertFinish_confined s.drew _ _ _ _)

theorem execMffsx_confined (frd : BitVec 5) (rc : Bool) : s.Confined (execMffsx frd rc s) :=
  .guarded fun _ => by cases rc <;> exact done_confined s rfl rfl

theorem execMcrfs_confined (crfd crfs : BitVec 3) : s.Confined (execMcrfs crfd crfs s) :=
  .guarded fun _ => .after (t := s.setCrField crfd _) ⟨rfl, rfl⟩ (endFpscr_confined _ false _)

/-- A failed translation ends `dcba` like one that goes through, with no exception. -/
theorem execDcba_confined (ra rb : BitVec 5) : s.Confined (execDcba ra rb s) := by
  refine .guarded fun _ => ?_
  have access := translateData_confined s .store (eaX s ra rb)
  cases h : translateData s .store (eaX s ra rb) with
  | ok pa t =>
    rw [h] at access
    exact .ite (State.SameSupervisor.done access) (.after access (undefineBlock_sameSupervisor t pa.1).done)
  | raises e t =>
    rw [h] at access
    exact State.SameSupervisor.done access
  | faults f => trivial

theorem execDcbz_confined (ra rb : BitVec 5) : s.Confined (execDcbz ra rb s) :=
  (translateData_confined s .store _).finish fun _ t => .ite (raise_confined t _)
    ((checkBreak_confined t .store _).finish fun _ u => State.SameSupervisor.done (.storeAll (.refl u) _ _))

theorem execIcbi_confined (ra rb : BitVec 5) : s.Confined (execIcbi ra rb s) :=
  (reach_confined s .load _).finish fun _ t => done_confined t rfl rfl

theorem execEciwx_confined (rd ra rb : BitVec 5) : s.Confined (execEciwx rd ra rb s) :=
  .guarded fun _ => (reachExternal_confined s .load _).finish fun _ t => done_confined t rfl rfl

theorem execEcowx_confined (rs ra rb : BitVec 5) : s.Confined (execEcowx rs ra rb s) :=
  .guarded fun _ => (reachExternal_confined s .store _).finish fun _ t => done_confined t rfl rfl

end

/-! ## Supervisor-level instructions in user mode -/

section
variable {s : State} {i : Instr}

/-- In user mode the checks before a supervisor-level instruction do not pass (60 R607). -/
theorem preCheck_supervisor (user : s.pr = true) (level : (requirement i).privilege = .supervisor) : preCheck i s ≠ none := by
  simp [preCheck, checkRequirement, level, checkPrivilege, user]
  split_ifs <;> simp

theorem supervisor_confined {k : Result} (user : s.pr = true) (level : (requirement i).privilege = .supervisor) :
    s.Confined (guarded i s k) :=
  .guarded fun passed => absurd passed (preCheck_supervisor user level)

/-- The registers that user mode may write by `mtspr` are XER, LR and CTR (48 R527). -/
theorem sprNumber_of_user {c : Config} {n : BitVec 10} (level : sprSupervisor n = false)
    (defined : sprDefined c n.toNat true = true) : n.toNat = 1 ∨ n.toNat = 8 ∨ n.toNat = 9 := by
  have bit : n.toNat / 16 % 2 ≠ 1 := by
    simpa [sprSupervisor, BitVec.getLsbD, Nat.testBit_eq_decide_div_mod_eq] using level
  simp only [sprDefined, sprBoth, if_true, Bool.or_eq_true, Bool.and_eq_true, beq_iff_eq, decide_eq_true_eq] at defined
  omega

theorem execMtspr_confined (user : s.pr = true) (rs : BitVec 5) (n : BitVec 10) : s.Confined (execMtspr rs n s) := by
  refine .guarded fun passed => ?_
  have checked : checkPrivilege s (.bySpr n true) = none := passed
  have level : sprSupervisor n = false := by
    cases h : sprSupervisor n with
    | false => rfl
    | true => simp [checkPrivilege, user, h] at checked
  have defined : sprDefined s.cfg n.toNat true = true := by
    by_contra h
    simp [checkPrivilege, level, h] at checked
  obtain h | h | h := sprNumber_of_user level defined <;> rw [h] <;> exact done_confined s rfl rfl

end

/-! ## Instructions (O14) -/

/-- In user mode every instruction leaves the supervisor's registers or enters an exception. -/
theorem exec_confined (i : Instr) {s : State} (user : s.pr = true) : s.Confined (exec i s) := by
  cases i with unfold exec
  | addx | addcx | addex | addic | addicDot | addmex | addzex | subfx | subfcx | subfex | subfic | subfmex | subfzex |
  negx => exact finishAdd_confined ..
  | mullwx => exact finishResult_confined ..
  | mulhwx | mulhwux => exact finishWord_confined ..
  | mulldx | mulhdx | mulhdux => exact .guarded fun _ => finishResult_confined ..
  | divwx | divwux => exact .ite (finishBadDivide_confined ..) (finishWord_confined ..)
  | divdx | divdux => exact .guarded fun _ => .ite (finishBadDivide_confined ..) (finishResult_confined ..)
  | addi | addis | mulli | mfcr | crand | cror | crxor | crnand | crnor | creqv | crandc | crorc | mcrf | mtcrf | mcrxr |
  sync | isync | eieio | dcbt | dcbtst => exact done_confined s rfl rfl
  | cmpi | cmp | cmpli | cmpl | mfspr | mftb => exact .guarded fun _ => done_confined s rfl rfl
  | andiDot | andisDot | ori | oris | xori | xoris | andx | orx | xorx | nandx | norx | eqvx | andcx | orcx | extsbx |
  extshx | cntlzwx | slwx | srwx => exact finishLogical_confined ..
  | extswx | cntlzdx | rldiclx | rldicrx | rldicx | rldimix | rldclx | rldcrx | sldx | srdx =>
    exact .guarded fun _ => finishLogical_confined ..
  | rlwinmx | rlwnmx | rlwimix => exact finishRotateWord_confined ..
  | srawx | srawix => exact finishAlgebraic_confined ..
  | sradx | sradix => exact .guarded fun _ => finishAlgebraic_confined ..
  | faddx | fsubx | fmulx | fdivx | fsqrtx | frsqrtex | fmaddx | fmsubx | fnmaddx | fnmsubx =>
    exact .guarded fun _ => runDouble_confined ..
  | faddsx | fsubsx | fmulsx | fdivsx | fsqrtsx | fresx | fmaddsx | fmsubsx | fnmaddsx | fnmsubsx =>
    exact .guarded fun _ => runSingle_confined ..
  | fselx => exact execFselx_confined ..
  | fmrx | fnegx | fabsx | fnabsx => exact .guarded fun _ => moveFpr_confined ..
  | frspx => exact execFrspx_confined ..
  | fctiwx | fctiwzx => exact .guarded fun _ => convertWord_confined ..
  | fctidx | fctidzx => exact .guarded fun _ => convertDword_confined ..
  | fcfidx => exact .guarded fun _ => convertFinish_confined ..
  | fcmpu | fcmpo => exact .guarded fun _ => endCompare_confined ..
  | mffsx => exact execMffsx_confined ..
  | mcrfs => exact execMcrfs_confined ..
  | mtfsfx | mtfsfix | mtfsb0x | mtfsb1x => exact .guarded fun _ => endFpscr_confined ..
  | lbz | lbzx | lhz | lhzx | lha | lhax | lwz | lwzx | lhbrx | lwbrx => exact loadGpr_confined ..
  | lbzu | lbzux | lhzu | lhzux | lhau | lhaux | lwzu | lwzux | lwaux | ldu | ldux =>
    exact .guarded fun _ => loadGprUpdate_confined ..
  | lwa | lwax | ld | ldx => exact .guarded fun _ => loadGpr_confined ..
  | stb | stbx | sth | sthx | stw | stwx | sthbrx | stwbrx => exact storeValue_confined ..
  | stbu | stbux | sthu | sthux | stwu | stwux | stdu | stdux | stfdu | stfdux =>
    exact .guarded fun _ => storeValueUpdate_confined ..
  | std | stdx | stfd | stfdx => exact .guarded fun _ => storeValue_confined ..
  | lmw => exact .guarded fun _ => .ite (finishMoves_confined s (loadWords_confined ..)) (raise_confined ..)
  | stmw => exact .ite (finishMoves_confined s (storeWords_confined ..)) (raise_confined ..)
  | lswi => exact .guarded fun _ => finishMoves_confined s (loadString_confined ..)
  | lswx => exact execLswx_confined ..
  | stswi | stswx => exact finishMoves_confined s (storeString_confined ..)
  | lfs | lfsx | lfd | lfdx => exact .guarded fun _ => loadFpr_confined ..
  | lfsu | lfsux | lfdu | lfdux => exact .guarded fun _ => loadFprUpdate_confined ..
  | stfs | stfsx => exact .guarded fun _ => .after (formSingle_sameSupervisor ..) (storeValue_confined ..)
  | stfsu | stfsux => exact .guarded fun _ => .after (formSingle_sameSupervisor ..) (storeValueUpdate_confined ..)
  | stfiwx => exact .guarded fun _ => .after (formInteger_sameSupervisor ..) (storeValue_confined ..)
  | bx => exact finishBranch_confined ..
  | bcx | bclrx => exact branchConditional_confined ..
  | bcctrx => exact .guarded fun _ => finishBranch_confined ..
  | sc => exact .inr ⟨_, _, s, .refl s, rfl⟩
  | tw | twi => exact trapIf_confined ..
  | td | tdi => exact .guarded fun _ => trapIf_confined ..
  | rfi | rfid | mfmsr | mtmsr | mtmsrd | dcbi | mfsr | mfsrin | mtsr | mtsrin | mtsrd | mtsrdin | slbia | slbie | tlbia |
  tlbie | tlbsync => exact supervisor_confined user rfl
  | mtspr => exact execMtspr_confined user ..
  | lwarx => exact loadReserve_confined ..
  | ldarx => exact .guarded fun _ => loadReserve_confined ..
  | stwcxDot => exact storeConditional_confined ..
  | stdcxDot => exact .guarded fun _ => storeConditional_confined ..
  | dcbst | dcbf => exact touchBlock_confined ..
  | dcba => exact execDcba_confined ..
  | dcbz => exact execDcbz_confined ..
  | icbi => exact execIcbi_confined ..
  | eciwx => exact execEciwx_confined ..
  | ecowx => exact execEcowx_confined ..

/-- Settles O14: where the registers stay, all of them do; where an exception is entered, it writes its own and no other. -/
theorem userKeepsSupervisorState : Obligations.UserKeepsSupervisorState := by
  unfold Obligations.UserKeepsSupervisorState
  intro i s t user h
  have confined := exec_confined i user
  rw [h] at confined
  obtain ⟨kept, entry⟩ | ⟨e, ret, u, ⟨kept, entry⟩, rfl⟩ := confined
  · injection kept with _ sdr1 sprg asr ear ibat dbat dabr dec tb pvr sr
    injection entry with msr srr0 srr1 dsisr dar
    exact ⟨.inl msr, sdr1, sprg, asr, ear, ibat, dbat, dabr, dec, tb, pvr, sr, fun _ => ⟨srr0, srr1, dsisr, dar⟩⟩
  · injection (enter_protectedRegisters e ret u).trans kept with cfg sdr1 sprg asr ear ibat dbat dabr dec tb pvr sr
    injection entry with msr _ _ _ _ entered
    have new : (enter e ret u).msr = s.norm (entryMsr s.cfg.impl64 e s.msr) := by
      rw [enter_msr, State.norm, State.norm, ← enter_cfg e ret u, cfg, msr]
    refine ⟨.inr ⟨⟨e, new⟩, enter_pr e ret u⟩, sdr1, sprg, asr, ear, ibat, dbat, dabr, dec, tb, pvr, sr, fun same => ?_⟩
    rw [enter_entered, entered] at same
    simp at same

end Sys2Proof.Machine
end

section
/-!
PROOFS. Exceptions (60_exceptions R601 to R614): which checks raise one before an instruction (O15, O16, O17), what an entry saves
and which mode it leaves (O18, O19, O20), and the return (O21). SRR1 and the MSR are settled bit by bit.
-/

namespace Sys2Proof.Machine

/-! ## The checks before an instruction (60 R619 items 2 to 4) -/

/-- Where an instruction exists: the 64-bit ones on 64-bit implementations, every other under its option. -/
theorem existsOn_requirement (c : Config) (i : Instr) :
    existsOn c (requirement i).existence = bif only64 i then c.impl64 else optionHolds c i := by
  cases i <;> rfl

/-- No 64-bit instruction has an option besides. -/
theorem optionHolds_of_only64 {i : Instr} (c : Config) (h : only64 i = true) : optionHolds c i = true := by
  cases i with
  | fsqrtx | fsqrtsx | fresx | frsqrtex | fselx | stfiwx | rfi | mtmsr | dcba | eciwx | ecowx | mfsr | mfsrin | mtsr | mtsrin |
    mtsrd | mtsrdin | slbia | slbie | tlbia | tlbie | tlbsync => cases h
  | _ => rfl

/-- The floating-point instructions are those that need MSR[FP] (60 R609). -/
theorem fp_requirement (i : Instr) : (requirement i).fp = isFloat i := by
  cases i <;> rfl

/-- Every instruction that needs anything is checked for it. -/
theorem exec_guarded {i : Instr} (h : requirement i ≠ ⟨.always, false, .user⟩) (s : State) : ∃ k, exec i s = guarded i s k := by
  cases i with
  | mulldx | mulhdx | mulhdux | divdx | divdux | extswx | cntlzdx | rldiclx | rldicrx | rldicx | rldimix | rldclx | rldcrx | sldx |
    srdx | sradx | sradix => exact ⟨_, rfl⟩
  | faddx | faddsx | fsubx | fsubsx | fmulx | fmulsx | fdivx | fdivsx | fsqrtx | fsqrtsx | fresx | frsqrtex | fselx | fmaddx |
    fmaddsx | fmsubx | fmsubsx | fnmaddx | fnmaddsx | fnmsubx | fnmsubsx => exact ⟨_, rfl⟩
  | fmrx | fnegx | fabsx | fnabsx | frspx | fctiwx | fctiwzx | fctidx | fctidzx | fcfidx | fcmpu | fcmpo | mffsx | mcrfs | mtfsfx |
    mtfsfix | mtfsb0x | mtfsb1x => exact ⟨_, rfl⟩
  | lwa | lwax | lwaux | ld | ldu | ldx | ldux | std | stdu | stdx | stdux => exact ⟨_, rfl⟩
  | lfs | lfsu | lfsx | lfsux | lfd | lfdu | lfdx | lfdux | stfs | stfsu | stfsx | stfsux | stfd | stfdu | stfdx | stfdux | stfiwx =>
    exact ⟨_, rfl⟩
  | rfi | rfid | td | tdi | mfmsr | mtmsr | mtmsrd | mfspr | mtspr | mftb => exact ⟨_, rfl⟩
  | ldarx | stdcxDot | dcbi | dcba | eciwx | ecowx | mfsr | mfsrin | mtsr | mtsrin | mtsrd | mtsrdin | slbia | slbie | tlbia | tlbie |
    tlbsync => exact ⟨_, rfl⟩
  | _ => exact absurd rfl h

section
variable {i : Instr} {s : State} {e : Exc}

/-- An exception that the checks find is taken. -/
theorem exec_raises (p : preCheck i s = some e) : raisesIn e s (exec i s) := by
  have needs : requirement i ≠ ⟨.always, false, .user⟩ := fun plain => by
    rw [preCheck_user plain] at p
    cases p
  obtain ⟨k, guards⟩ := exec_guarded needs s
  rw [guards]
  exact guarded_raise p

theorem preCheck_absent (x : existsOn s.cfg (requirement i).existence = false) : preCheck i s = some (.program .illegal) := by
  simp [preCheck, checkRequirement, x]

theorem preCheck_fpUnavailable (x : existsOn s.cfg (requirement i).existence = true) (float : isFloat i = true)
    (off : s.fpOn = false) : preCheck i s = some .fpUnavailable := by
  simp [preCheck, checkRequirement, x, fp_requirement, float, off]

theorem preCheck_privilege (x : existsOn s.cfg (requirement i).existence = true) (plain : isFloat i = false)
    (p : checkPrivilege s (requirement i).privilege = some e) : preCheck i s = some e := by
  simp [preCheck, checkRequirement, x, fp_requirement, plain, p]

end

/-! ### Supervisor-level instructions (O15) -/

section
variable {s : State} {i : Instr}

theorem traps_supervisor (user : s.pr = true) (level : (requirement i).privilege = .supervisor) (plain : isFloat i = false)
    (x : existsOn s.cfg (requirement i).existence = true) : trapsTo .privileged s (exec i s) :=
  exec_raises (preCheck_privilege x plain (by simp [checkPrivilege, level, user]))

/-- A move of a supervisor-level register (48 R527 (c)). -/
theorem traps_bySpr {n : BitVec 10} {write : Bool} (user : s.pr = true) (level : n.getLsbD 4 = true) (plain : isFloat i = false)
    (moves : requirement i = ⟨.always, false, .bySpr n write⟩) : trapsTo .privileged s (exec i s) :=
  exec_raises (preCheck_privilege (by rw [moves]; rfl) plain (by simp [moves, checkPrivilege, sprSupervisor, level, user]))

theorem not_or_of_or {a b : Bool} (h : a = false ∨ b = true) : (!a || b) = true := by
  obtain h | h := h
  · rw [h]; rfl
  · rw [h, Bool.or_true]

end

/-- Settles O15: each of the instructions exists on the implementation and is checked for the mode. -/
theorem supervisorInstructionsTrap : Obligations.SupervisorInstructionsTrap := by
  unfold Obligations.SupervisorInstructionsTrap
  intro s ra rb rs n spr user
  refine ⟨?mfmsr, ?dcbi, ?wide, ?rfi, ?segments, ?slbia, ?slbie, ?tlbia, ?tlbie, ?tlbsync, ?mtsrd, ?spr⟩
  case mfmsr => exact traps_supervisor user rfl rfl rfl
  case dcbi => exact traps_supervisor user rfl rfl rfl
  case wide => exact fun wide => ⟨traps_supervisor user rfl rfl wide, traps_supervisor user rfl rfl wide⟩
  case rfi =>
    intro h
    have option := not_or_of_or h
    exact ⟨traps_supervisor user rfl rfl option, traps_supervisor user rfl rfl option⟩
  case segments =>
    intro h
    have option := not_or_of_or h
    exact ⟨traps_supervisor user rfl rfl option, traps_supervisor user rfl rfl option,
      traps_supervisor user rfl rfl option, traps_supervisor user rfl rfl option⟩
  case slbia => exact fun wide option => traps_supervisor user rfl rfl (Bool.and_eq_true_iff.mpr ⟨wide, option⟩)
  case slbie => exact fun wide option => traps_supervisor user rfl rfl (Bool.and_eq_true_iff.mpr ⟨wide, option⟩)
  case tlbia => exact fun option => traps_supervisor user rfl rfl option
  case tlbie => exact fun option => traps_supervisor user rfl rfl option
  case tlbsync => exact fun option => traps_supervisor user rfl rfl option
  case mtsrd =>
    intro wide bridge option
    have all : (s.cfg.impl64 && s.cfg.bridge && s.cfg.bridgeMtsrd) = true := by rw [wide, bridge, option]; rfl
    exact ⟨traps_supervisor user rfl rfl all, traps_supervisor user rfl rfl all⟩
  case spr => exact fun level => ⟨traps_bySpr user level rfl rfl, traps_bySpr user level rfl rfl⟩

/-! ### Absent instructions and register numbers (O17) -/

/-- A number that no register has is defined in neither direction, but for PVR, read only, and TBL and TBU, written only. -/
theorem sprDefined_of_sprWidth {c : Config} {n : Nat} (h : sprWidth c n = none) (write : Bool)
    (one_way : if write = true then n ≠ 284 ∧ n ≠ 285 else n ≠ 287) : sprDefined c n write = false := by
  have undefined : sprBoth c n = false := by
    unfold sprWidth at h
    split_ifs at h
    rw [Bool.eq_false_iff]
    intro defined
    simp only [sprBoth, Bool.or_eq_true, Bool.and_eq_true, beq_iff_eq, decide_eq_true_eq] at defined
    tauto
  cases write <;> simp_all [sprDefined]

theorem undefinedRegister_of_checks {s : State} {i : Instr} {n : BitVec 10} (exists_always : existsOn s.cfg (requirement i).existence = true)
    (plain : isFloat i = false) (check : checkPrivilege s (requirement i).privilege =
      if n.getLsbD 4 && s.pr then some (.program .privileged) else some (.program .illegal)) :
    undefinedRegister s n (exec i s) := by
  refine ⟨fun level => ?_, fun level => ?_⟩
  · rw [← Bool.and_eq_true] at level
    exact exec_raises (preCheck_privilege exists_always plain (by rw [check, if_pos level]))
  · rw [← Bool.and_eq_true] at level
    exact exec_raises (preCheck_privilege exists_always plain (by rw [check, if_neg level]))

/-- Settles O17: an instruction that does not exist is illegal, and so is a number that is not defined, unless the mode comes
first. -/
theorem absentInstructionsTrap : Obligations.AbsentInstructionsTrap := by
  unfold Obligations.AbsentInstructionsTrap
  refine ⟨fun s i absent => ?_, fun s r n => ⟨fun h pvr => ?_, fun h tbl tbu => ?_, fun tb tbu => ?_⟩⟩
  · refine exec_raises (preCheck_absent ?_)
    rw [existsOn_requirement]
    obtain ⟨wide, narrow⟩ | absent := absent
    · rw [wide, narrow, cond_true]
    · have narrow : only64 i = false := by
        rw [Bool.eq_false_iff]
        intro wide
        rw [optionHolds_of_only64 _ wide] at absent
        cases absent
      rw [narrow, absent, cond_false]
  · have undefined : sprDefined s.cfg n.toNat false = false :=
      sprDefined_of_sprWidth h false (by simpa [← BitVec.toNat_inj] using pvr)
    exact undefinedRegister_of_checks rfl rfl (by simp [requirement, checkPrivilege, undefined, sprSupervisor])
  · have undefined : sprDefined s.cfg n.toNat true = false :=
      sprDefined_of_sprWidth h true (by simpa [← BitVec.toNat_inj] using And.intro tbl tbu)
    exact undefinedRegister_of_checks rfl rfl (by simp [requirement, checkPrivilege, undefined, sprSupervisor])
  · have other : (n.toNat == 268 || n.toNat == 269) = false := by
      simpa [← BitVec.toNat_inj] using And.intro tb tbu
    exact undefinedRegister_of_checks rfl rfl (by simp [requirement, checkPrivilege, other, sprSupervisor])

/-! ## What an entry saves (O18) -/

section
variable {k : Nat}

theorem savedBits_getMsbD (hk : k < 64) : savedBits.getMsbD k = savedBit k := by
  have all : ∀ k : Fin 64, savedBits.getMsbD k.val = savedBit k.val := by decide
  exact all ⟨k, hk⟩

theorem statusBits_getMsbD (hk : k < 64) : statusBits.getMsbD k = clearedBit k := by
  have all : ∀ k : Fin 64, statusBits.getMsbD k.val = clearedBit k.val := by decide
  exact all ⟨k, hk⟩

/-- The status of a program exception is its one bit. -/
theorem programStatus_getMsbD (c : ProgramCause) (hk : k < 64) : c.status.getMsbD k = statusBit (.program c) k := by
  have all : ∀ k : Fin 64, c.status.getMsbD k.val = statusBit (.program c) k.val := by cases c <;> decide
  exact all ⟨k, hk⟩

/-- So is that of an ISI. -/
theorem isiStatus_getMsbD (c : XlateCause) (hk : k < 64) : (isiStatus c).getMsbD k = statusBit (.isi c) k := by
  have all : ∀ k : Fin 64, (isiStatus c).getMsbD k.val = statusBit (.isi c) k.val := by cases c <;> decide
  exact all ⟨k, hk⟩

theorem status_getMsbD (e : Exc) (hk : k < 64) : e.status.getMsbD k = statusBit e k := by
  cases e with
  | program c => exact programStatus_getMsbD c hk
  | isi c => exact isiStatus_getMsbD c hk
  | systemReset | machineCheck | dsi | external | alignment | fpUnavailable | decrementer | systemCall | trace =>
    exact BitVec.getMsbD_zero

/-- The status bits are among those that an entry clears, and none is saved from the MSR. -/
theorem statusBit_cleared {e : Exc} (h : statusBit e k = true) : clearedBit k = true ∧ savedBit k = false := by
  have place : k = 33 ∨ k = 35 ∨ k = 36 ∨ k = 42 ∨ k = 43 ∨ k = 44 ∨ k = 45 ∨ k = 46 := by
    unfold statusBit at h
    split at h <;> simp_all
  obtain rfl | rfl | rfl | rfl | rfl | rfl | rfl | rfl := place <;> exact ⟨rfl, rfl⟩

theorem entrySrr1_getMsbD (srr1 msr : Dword) (e : Exc) (hk : k < 64) : (entrySrr1 srr1 msr e.status).getMsbD k =
    if savedBit k then msr.getMsbD k else if clearedBit k then statusBit e k else srr1.getMsbD k := by
  rw [entrySrr1, BitVec.getMsbD_or, merge_getMsbD, BitVec.getMsbD_and, not_getMsbD _ hk, savedBits_getMsbD hk,
    statusBits_getMsbD hk, status_getMsbD e hk]
  cases status : statusBit e k with
  | true => simp [statusBit_cleared status]
  | false => cases savedBit k <;> cases clearedBit k <;> simp

/-- The bits of a value that a register of the implementation holds. -/
theorem State.norm_getMsbD_of_held (s : State) (v : Dword) (held : s.cfg.impl64 = true ∨ 32 ≤ k) :
    (s.norm v).getMsbD k = v.getMsbD k := by
  obtain wide | low_word := held
  · rw [State.norm, if_pos wide]
  · exact s.norm_getMsbD v low_word

end

theorem enter_entryFrame (e : Exc) (ret : Dword) (s : State) : entryFrame s (enter e ret s) := by
  refine ⟨?frame, ?synced⟩
  case frame => cases e <;> rfl
  case synced =>
    intro b
    have blocks : (enter e ret s).staleInsn = s.contextSync.staleInsn := by cases e <;> rfl
    simp [blocks, State.contextSync]

theorem enter_sameMemory (e : Exc) (ret : Dword) (s : State) : sameMemory s (enter e ret s) := fun a => by rw [enter_mem]

theorem enter_draws (e : Exc) (ret : Dword) (s : State) : (enter e ret s).draws = (s.recordFault e).draws := by
  simp only [enter, State.contextSync_draws]

theorem enter_dsisr (e : Exc) (ret : Dword) (s : State) : (enter e ret s).dsisr = (s.recordFault e).dsisr := by
  simp only [enter, State.contextSync_dsisr]

/-- DSISR and DAR, exception by exception. -/
theorem enter_faultRegisters (e : Exc) (ret : Dword) (s : State) : faultRegisters e s (enter e ret s) := by
  unfold faultRegisters
  rw [enter_dsisr, enter_dar, enter_draws]
  cases e with
  | dsi ea status => exact ⟨rfl, rfl, rfl⟩
  | alignment ea => exact rfl
  | systemReset | machineCheck | isi | external | program | fpUnavailable | decrementer | systemCall | trace =>
    exact ⟨rfl, rfl, rfl⟩

/-- Settles O18: SRR1 bit by bit, and what the entry writes besides. -/
theorem entrySaves : Obligations.EntrySaves := by
  unfold Obligations.EntrySaves
  intro e ret s t
  refine ⟨rfl, fun k hk held => ?srr1, enter_faultRegisters e ret s, rfl, enter_entryFrame e ret s, enter_sameMemory e ret s⟩
  case srr1 => rw [enter_srr1, s.norm_getMsbD_of_held _ held, entrySrr1_getMsbD _ _ _ hk]

/-! ## The mode after an entry (O19) -/

section
variable (e : Exc) (ret : Dword) (s : State) {k : Nat}

/-- A machine check clears ME, bit 51; no other exception clears a bit of its own. -/
theorem clearsMe_getMsbD (hk : k < 64) : e.clearsMe.getMsbD k = (decide (e = .machineCheck) && k == 51) := by
  cases e with
  | machineCheck =>
    have all : ∀ k : Fin 64, Exc.machineCheck.clearsMe.getMsbD k.val = (k.val == 51) := by decide
    simpa using all ⟨k, hk⟩
  | systemReset | dsi | isi | external | alignment | program | fpUnavailable | decrementer | systemCall | trace =>
    exact BitVec.getMsbD_zero

theorem entrySf_getMsbD (impl64 : Bool) (hk : k < 64) : (entrySf impl64).getMsbD k = (impl64 && k == 0) := by
  have all : ∀ (b : Bool) (k : Fin 64), (entrySf b).getMsbD k.val = (b && k.val == 0) := by decide
  exact all impl64 ⟨k, hk⟩

theorem entryLe_getMsbD (msr : Dword) (hk : k < 64) : (entryLe msr).getMsbD k = (msr.getMsbD 47 && k == 63) := by
  have all : ∀ (b : Bool) (k : Fin 64), (if b then 1 else 0 : Dword).getMsbD k.val = (b && k.val == 63) := by decide
  exact all (msr.getMsbD 47) ⟨k, hk⟩

theorem entryMsr_getMsbD (impl64 : Bool) (msr : Dword) (hk : k < 64) : (entryMsr impl64 e msr).getMsbD k =
    ((msr.getMsbD k && !(entryClears.getMsbD k || (decide (e = .machineCheck) && k == 51))) || (impl64 && k == 0) ||
      (msr.getMsbD 47 && k == 63)) := by
  rw [entryMsr, BitVec.getMsbD_or, BitVec.getMsbD_or, BitVec.getMsbD_and, not_getMsbD _ hk, BitVec.getMsbD_or,
    clearsMe_getMsbD e hk, entrySf_getMsbD impl64 hk, entryLe_getMsbD msr hk]

/-- A bit of the low word that an entry clears. -/
theorem enter_msr_cleared (hk : 32 ≤ k ∧ k < 63) (clears : entryClears.getMsbD k = true) :
    (enter e ret s).msr.getMsbD k = false := by
  rw [enter_msr, s.norm_getMsbD _ hk.1, entryMsr_getMsbD e _ _ (by omega), clears]
  have first : k ≠ 0 := by omega
  have last : k ≠ 63 := by omega
  simp [first, last]

/-- A bit of the low word that an entry keeps. -/
theorem enter_msr_kept (hk : 32 ≤ k ∧ k < 63) (keeps : entryClears.getMsbD k = false) (me : e = .machineCheck → k ≠ 51) :
    (enter e ret s).msr.getMsbD k = s.msr.getMsbD k := by
  have other : (decide (e = .machineCheck) && k == 51) = false := by
    rw [Bool.and_eq_false_imp, decide_eq_true_eq, beq_eq_false_iff_ne]
    exact me
  rw [enter_msr, s.norm_getMsbD _ hk.1, entryMsr_getMsbD e _ _ (by omega), keeps, other]
  have first : (k == 0) = false := beq_false_of_ne (by omega)
  have last : (k == 63) = false := beq_false_of_ne (by omega)
  simp [first, last]

/-- SF is set where the implementation has it (60 R602). -/
theorem enter_sf : (enter e ret s).sf = s.cfg.impl64 := by
  rw [State.sf, enter_msr]
  cases wide : s.cfg.impl64 with
  | true =>
    rw [s.norm_getMsbD_of_held _ (.inl wide), entryMsr_getMsbD e _ _ (by decide)]
    simp
  | false =>
    have cut := s.fits_norm (entryMsr false e s.msr)
    have high_zero : high (s.norm (entryMsr false e s.msr)) = 0 := cut.resolve_left (by rw [wide]; exact Bool.false_ne_true)
    have bit := congrArg (·.getMsbD 0) high_zero
    simpa [high, BitVec.getMsbD_eq_getLsbD] using bit

/-- LE is the old ILE (60 R602). -/
theorem enter_le : (enter e ret s).le = s.msr.getMsbD 47 := by
  have clears : entryClears.getMsbD 63 = true := by decide
  rw [State.le, enter_msr, s.norm_getMsbD _ (by decide), entryMsr_getMsbD e _ _ (by decide), clears]
  simp

/-- The pc after an entry, in the table that the old IP selects. -/
theorem enter_nia_of_ip : (enter e ret s).nia = (if s.msr.getMsbD 57 then 0xFFF00000 else 0) + e.offset := by
  rw [enter_nia_vector, vectorBase, enter_msr_kept e ret s (by decide) (by decide) (fun _ => by decide)]

end

/-- Settles O19: the bits that an entry clears, sets and keeps. -/
theorem entryMode : Obligations.EntryMode := by
  unfold Obligations.EntryMode
  intro e ret s t
  have cleared {k : Nat} (hk : 32 ≤ k ∧ k < 63) (clears : entryClears.getMsbD k = true) : t.msr.getMsbD k = false :=
    enter_msr_cleared e ret s hk clears
  refine ⟨?pow, ?ee, ?pr, ?fp, ?fe, ?se, ?be, ?ir, ?dr, ?ri, enter_le e ret s, enter_sf e ret s, fun other => ?me, fun check => ?me0,
    ?ile, ?ip, ?pc⟩
  case pow => exact cleared (by decide) (by decide)
  case ee => exact cleared (by decide) (by decide)
  case pr => exact enter_pr e ret s
  case fp => exact cleared (by decide) (by decide)
  case fe => rw [State.fe, cleared (by decide) (by decide), cleared (by decide) (by decide), Bool.or_false]
  case se => exact cleared (by decide) (by decide)
  case be => exact cleared (by decide) (by decide)
  case ir => exact cleared (by decide) (by decide)
  case dr => exact cleared (by decide) (by decide)
  case ri => exact cleared (by decide) (by decide)
  case me => exact enter_msr_kept e ret s (by decide) (by decide) (fun check => absurd check other)
  case me0 =>
    rw [State.me, enter_msr, s.norm_getMsbD _ (by decide), entryMsr_getMsbD e _ _ (by decide), check]
    simp
  case ile => exact enter_msr_kept e ret s (by decide) (by decide) (fun _ => by decide)
  case ip => exact enter_msr_kept e ret s (by decide) (by decide) (fun _ => by decide)
  case pc => cases e <;> exact enter_nia_of_ip _ ret s

/-- Settles O20: `sc` is an entry, with the next instruction's address to return to. -/
theorem systemCall : Obligations.SystemCall := by
  unfold Obligations.SystemCall
  intro s
  have ee : (enter .systemCall (s.nia + 4) s).ee = false := enter_msr_cleared _ _ s (by decide) (by decide)
  obtain ⟨dsisr, dar, draws⟩ := enter_faultRegisters .systemCall (s.nia + 4) s
  exact ⟨_, rfl, rfl, enter_nia_of_ip .systemCall _ s, enter_pr _ _ s, ee, rfl, dsisr, dar, draws, enter_entryFrame _ _ s,
    enter_sameMemory _ _ s⟩

/-! ### Floating-point unavailable (O16) -/

/-- No bit of SRR1 that an entry clears is set without a status bit. -/
theorem entrySrr1_and_statusBits (srr1 msr : Dword) : entrySrr1 srr1 msr Exc.fpUnavailable.status &&& statusBits = 0 := by
  have disjoint : ∀ k : Fin 64, (savedBit k.val && clearedBit k.val) = false := by decide
  apply eq_of_getMsbD
  intro k hk
  have apart : (savedBit k && clearedBit k) = false := disjoint ⟨k, hk⟩
  rw [BitVec.getMsbD_and, entrySrr1_getMsbD _ _ _ hk, statusBits_getMsbD hk, BitVec.ofNat_eq_ofNat, BitVec.getMsbD_zero]
  cases cleared : clearedBit k with
  | false => exact Bool.and_false _
  | true =>
    rw [cleared, Bool.and_true] at apart
    rw [apart]
    rfl

theorem State.norm_and (s : State) (v m : Dword) (h : v &&& m = 0) : s.norm v &&& m = 0 := by
  unfold State.norm
  split
  · exact h
  · have cut : zext (low v) = v &&& 0xFFFFFFFF := by
      apply eq_of_getMsbD
      intro k hk
      have mask : ∀ k : Fin 64, (0xFFFFFFFF : Dword).getMsbD k.val = decide (32 ≤ k.val) := by decide
      have bit := mask ⟨k, hk⟩
      simp only [BitVec.getMsbD_and, bit, zext, low, BitVec.getMsbD_setWidth]
      by_cases low_word : 32 ≤ k <;> simp [low_word]
    rw [cut, BitVec.and_assoc, BitVec.and_comm _ m, ← BitVec.and_assoc, h]
    exact BitVec.zero_and

/-- Settles O16: floating-point unavailable is an entry with no status bit. -/
theorem floatUnavailable : Obligations.FloatUnavailable := by
  unfold Obligations.FloatUnavailable
  intro s i float wide option off
  have has : existsOn s.cfg (requirement i).existence = true := by
    rw [existsOn_requirement]
    cases h : only64 i with
    | true => exact wide h
    | false => exact option
  refine ⟨_, exec_raises (preCheck_fpUnavailable has float off), enter_nia_vector _ _ s, rfl, ?status, enter_fpr _ _ s,
    enter_fprSingle _ _ s, enter_fpscr _ _ s, enter_gpr _ _ s, enter_cr _ _ s, enter_sameMemory _ _ s⟩
  case status => exact s.norm_and _ _ (entrySrr1_and_statusBits s.srr1 s.msr)

/-! ## Returns (O21) -/

theorem notePendingFp_eq (before after : State) : before.notePendingFp after = { after with
    fpPending := after.fpPending || (!before.fe && after.fe && after.fpscr.getMsbD 1) } := by
  unfold State.notePendingFp
  split
  · next due => rw [due, Bool.or_true]
  · next not_due => rw [Bool.eq_false_iff.mpr not_due, Bool.or_false]

theorem contextSync_blocksSynced (s : State) : blocksSynced s s.contextSync := fun b => by simp [State.contextSync]

theorem returnFrom_effect (bits : Dword) (s : State) :
    ∃ t, returnFrom bits s = .next t ∧ returnEffect s t ∧ t.msr = s.norm (returnMsr bits s.srr1 s.msr) := by
  refine ⟨_, rfl, ?_, ?_⟩ <;> rw [notePendingFp_eq]
  · exact ⟨rfl, rfl, contextSync_blocksSynced s, rfl, fun _ => rfl⟩
  · rfl

/-- The bits that `rfi` restores are those of its constant. -/
theorem rfiBits_getMsbD {k : Nat} (hk : k < 64) : (0xFF73 : Dword).getMsbD k = rfiBit k := by
  have all : ∀ k : Fin 64, (0xFF73 : Dword).getMsbD k.val = rfiBit k.val := by decide
  exact all ⟨k, hk⟩

theorem high_getMsbD (x : Dword) {k : Nat} (hk : k < 32) : (high x).getMsbD k = x.getMsbD k := by
  rw [← Nat.zero_add k]
  exact slice_getMsbD 32 x 0 _ (by decide) (by omega) |>.trans (by simp)

section
variable {s : State} {i : Instr}

/-- The checks of an instruction that supervisor mode may run. -/
theorem preCheck_of_supervisor (supervisor : s.pr = false) (x : existsOn s.cfg (requirement i).existence = true)
    (plain : (requirement i).fp = false) (level : (requirement i).privilege = .supervisor) : preCheck i s = none :=
  preCheck_none x (fun h => by rw [plain] at h; cases h) (by simp [level, checkPrivilege, supervisor])

/-- Such an instruction has its effect. -/
theorem exec_supervisor {k : Result} (supervisor : s.pr = false) (e : exec i s = guarded i s k)
    (x : existsOn s.cfg (requirement i).existence = true) (plain : (requirement i).fp = false)
    (level : (requirement i).privilege = .supervisor) (f : i.wellFormed s.cfg.impl64 = true) : exec i s = k :=
  exec_of_guarded e (preCheck_of_supervisor supervisor x plain level) f

end

/-- Settles O21: the two returns differ in the MSR bits that they restore. -/
theorem returnFromInterrupt : Obligations.ReturnFromInterrupt := by
  unfold Obligations.ReturnFromInterrupt
  intro s supervisor
  refine ⟨fun wide => ?_, fun option => ?_⟩
  · obtain ⟨t, next, effect, msr⟩ := returnFrom_effect savedBits s
    refine ⟨t, (exec_supervisor (i := .rfid) supervisor rfl wide rfl rfl rfl).trans next, effect, fun k hk => ?_⟩
    rw [msr, s.norm_getMsbD_of_held _ (.inl wide), returnMsr, merge_getMsbD, savedBits_getMsbD hk]
  · obtain ⟨t, next, effect, msr⟩ := returnFrom_effect 0xFF73 s
    refine ⟨t, (exec_supervisor (i := .rfi) supervisor rfl (not_or_of_or option) rfl rfl rfl).trans next, effect, fun k low_word hk => ?_,
      fun wide => ?_⟩
    · rw [msr, s.norm_getMsbD _ low_word, returnMsr, merge_getMsbD, rfiBits_getMsbD hk]
    · have none : ∀ k : Fin 32, rfiBit k.val = false := by decide
      apply eq_of_getMsbD
      intro k hk
      rw [high_getMsbD _ hk, high_getMsbD _ hk, msr, s.norm_getMsbD_of_held _ (.inl wide), returnMsr, merge_getMsbD,
        rfiBits_getMsbD (by omega), none ⟨k, hk⟩, if_neg Bool.false_ne_true]

end Sys2Proof.Machine
end

section
/-!
PROOFS. Traps, branches and the condition register (47_branch_cr_trap R480 to R501). The shared ends are reasoned about once:
`trapIf`, `finishBranch` and `finishCrBit`; what an instruction has of its own is its comparison, its target or its bit.
-/

namespace Sys2Proof.Machine

/-! ## Traps (O22) -/

/-- The comparisons that TO selects, as numbers (R501). -/
theorem trapCond_iff (tof : BitVec 5) (a b : Dword) :
    trapCond tof a b = true ↔ trapHolds tof a.toInt b.toInt a.toNat b.toNat := by
  simp only [trapCond, trapHolds, Bool.or_eq_true, Bool.and_eq_true, beq_iff_eq, BitVec.slt_iff_toInt_lt,
    BitVec.ult_iff_toNat_lt, BitVec.toInt_inj, or_assoc]

theorem toInt_sext (x : Word) : (sext x).toInt = x.toInt := BitVec.toInt_signExtend_of_le (by decide)

/-- Sign extension keeps the unsigned order: it adds the same to every negative word. -/
theorem toNat_sext_lt (x y : Word) : (sext x).toNat < (sext y).toNat ↔ x.toNat < y.toNat := by
  have hx := x.isLt
  have hy := y.isLt
  have value (z : Word) : (sext z).toNat = if 2 ^ 31 ≤ z.toNat then z.toNat + (2 ^ 64 - 2 ^ 32) else z.toNat := by
    have hz := z.isLt
    have whole : (z.setWidth 64).toNat = z.toNat := BitVec.toNat_setWidth_of_le (by decide)
    simp only [sext, BitVec.toNat_signExtend, whole, BitVec.msb_eq_decide, decide_eq_true_eq]
    split_ifs <;> omega
  rw [value, value]
  split_ifs <;> omega

/-- So a trap on words compares them as words. -/
theorem trapCond_sext_iff (tof : BitVec 5) (x y : Word) :
    trapCond tof (sext x) (sext y) = true ↔ trapHolds tof x.toInt y.toInt x.toNat y.toNat := by
  rw [trapCond_iff, trapHolds, toInt_sext, toInt_sext, toNat_sext_lt, toNat_sext_lt, trapHolds]

/-- An immediate extended to a register is its extension to a word, extended again. -/
theorem extSimm_eq_sext (simm : BitVec 16) : extSimm simm = sext (simm.signExtend 32) := by
  apply BitVec.eq_of_toInt_eq
  rw [toInt_sext, toInt_extSimm, BitVec.toInt_signExtend_of_le (by decide)]

theorem trapEffect_of_exec {s : State} {i : Instr} {c : Bool} {p : Prop} (e : exec i s = trapIf c s) (h : c = true ↔ p) :
    trapEffect s p (exec i s) := by
  rw [e, trapIf]
  refine ⟨fun holds => ?_, fun fails => ?_⟩
  · rw [if_pos (h.mpr holds)]
    rfl
  · rw [if_neg (fun set => fails (h.mp set))]
    rfl

/-- Settles O22: the comparisons are those of the numbers that the statement names. -/
theorem traps : Obligations.Traps := by
  unfold Obligations.Traps
  intro s tof ra rb simm
  refine ⟨?tw, ?twi, fun wide => ⟨?td, ?tdi⟩⟩
  case tw => exact trapEffect_of_exec rfl (trapCond_sext_iff tof _ _)
  case twi =>
    have order := trapCond_sext_iff tof (low (s.getGpr ra)) (simm.signExtend 32)
    rw [← extSimm_eq_sext, BitVec.toInt_signExtend_of_le (by decide)] at order
    exact trapEffect_of_exec rfl order
  case td => exact trapEffect_of_exec (exec_only64 wide rfl rfl rfl) (trapCond_iff tof _ _)
  case tdi =>
    have order := trapCond_iff tof (s.getGpr ra) (extSimm simm)
    rw [toInt_extSimm] at order
    exact trapEffect_of_exec (exec_only64 wide rfl rfl rfl) order

/-! ## Branches (O32) -/

/-- A displacement field counts words (R481, R482). -/
theorem displacement_eq {n : Nat} (x : BitVec n) : (x ++ (0 : BitVec 2)).signExtend 64 = BitVec.ofInt 64 (x.toInt * 4) := by
  rw [BitVec.signExtend, BitVec.ofNat_eq_ofNat, BitVec.toInt_append_zero, Int.mul_comm]
  rfl

theorem branchTarget_eq {n : Nat} (s : State) (aa : Bool) (x : BitVec n) :
    branchTarget s aa ((x ++ (0 : BitVec 2)).signExtend 64) = (if aa then 0 else s.nia) + BitVec.ofInt 64 (x.toInt * 4) := by
  rw [displacement_eq]
  cases aa with
  | true => exact (BitVec.zero_add _).symm
  | false => rfl

/-- `s` with the mark of a fetch that depends on the computation mode set where `b` holds. -/
def State.cutIf (s : State) (b : Bool) : State := { s with stale := { s.stale with sfCut := s.stale.sfCut || b } }

theorem noteTarget_eq (s : State) (target : Dword) :
    s.noteTarget target = s.cutIf (s.stale.sf && !s.mode64 && high target != 0) := by
  unfold State.noteTarget State.cutIf
  split
  · next cut => rw [cut, Bool.or_true]
  · next same => rw [Bool.eq_false_iff.mpr same, Bool.or_false]

theorem noteCounter_eq (s : State) (bo bi : BitVec 5) : s.noteCounter bo bi =
    s.cutIf (s.stale.sf && !boBit bo 2 && condOk bo bi s && low s.ctr == 0 && high s.ctr != 0) := by
  unfold State.noteCounter State.cutIf
  split
  · next depends => rw [depends, Bool.or_true]
  · next same => rw [Bool.eq_false_iff.mpr same, Bool.or_false]

/-- The end of a branch, after CTR has come to be `ctr` and a test of it has been marked where `byMode` holds. -/
theorem finishBranch_effect (s : State) (ctr : Dword) (taken byMode lk : Bool) (target : Dword) :
    branchEffect s ctr taken byMode lk target
      (finishBranch taken target lk (State.cutIf { s with ctr := ctr } (s.stale.sf && byMode))) := by
  have marks : (s.stale.sfCut || (s.stale.sf && byMode) ||
      (s.stale.sf && !s.mode64 && high (if taken then target else s.nia + 4) != 0)) =
      (s.stale.sfCut || (s.stale.sf && (byMode || (!s.mode64 && high (if taken then target else s.nia + 4) != 0)))) := by
    rw [Bool.or_assoc, Bool.and_assoc, Bool.and_or_distrib_left]
  have pc : (if taken then s.ea32 target &&& ~~~ 3 else s.nextPc) =
      s.ea32 (if taken then target else s.nia + 4) &&& ~~~ 3 := by cases taken <;> rfl
  unfold branchEffect
  rw [← marks, pc, finishBranch, State.branchTo, noteTarget_eq]
  cases lk <;> rfl

/-- The counter after BO[2] = 0 has decremented it. -/
theorem decrementCtr_eq (s : State) (bo : BitVec 5) : s.decrementCtr bo = { s with ctr := countedDown s bo } := by
  unfold State.decrementCtr countedDown boBit
  split <;> rfl

/-- The counter test looks at the width of the mode (R480 (b)). -/
theorem ctrNonzero_eq (s : State) : s.ctrNonzero = (s.unsignedPart s.ctr != 0) := by
  unfold State.ctrNonzero State.unsignedPart State.width
  rw [Bool.eq_iff_iff]
  split
  · rw [Nat.mod_eq_of_lt s.ctr.isLt]
    simp [← BitVec.toNat_inj]
  · simp [← BitVec.toNat_inj, low]

theorem branchConditional_effect (s : State) (bo bi : BitVec 5) (target : Dword) (lk : Bool) :
    branchEffect s (countedDown s bo) (branchTaken s bo bi) (countedByMode s bo bi) lk target
      (branchConditional bo bi target lk s) := by
  have counted : (s.decrementCtr bo).noteCounter bo bi =
      State.cutIf { s with ctr := countedDown s bo } (s.stale.sf && countedByMode s bo bi) := by
    rw [decrementCtr_eq, noteCounter_eq]
    simp only [countedByMode, Bool.and_assoc]
    rfl
  have taken : (ctrOk bo ((s.decrementCtr bo).noteCounter bo bi) && condOk bo bi ((s.decrementCtr bo).noteCounter bo bi)) =
      branchTaken s bo bi := by
    rw [counted, ctrOk, ctrNonzero_eq]
    rfl
  simp only [branchConditional]
  rw [taken, counted]
  exact finishBranch_effect s _ _ _ lk target

/-- A branch that neither changes CTR nor tests it. -/
theorem finishBranch_effect_uncounted (s : State) (taken lk : Bool) (target : Dword) :
    branchEffect s s.ctr taken false lk target (finishBranch taken target lk s) := by
  have unmarked : State.cutIf { s with ctr := s.ctr } (s.stale.sf && false) = s := by
    rw [Bool.and_false, State.cutIf, Bool.or_false]
  have effect := finishBranch_effect s s.ctr taken false lk target
  rwa [unmarked] at effect

/-- Settles O32: the branches end alike; each has its own target and its own tests. -/
theorem branches : Obligations.Branches := by
  unfold Obligations.Branches
  intro s li bo bi bd aa lk
  refine ⟨?b, ?bc, ?bclr, fun uncounted => ?bcctr⟩
  case b =>
    rw [← branchTarget_eq]
    exact finishBranch_effect_uncounted s true lk _
  case bc =>
    rw [← branchTarget_eq]
    exact branchConditional_effect s bo bi _ lk
  case bclr => exact branchConditional_effect s bo bi s.lr lk
  case bcctr =>
    have taken : branchTaken s bo bi = condOk bo bi s := by
      rw [branchTaken, uncounted, Bool.true_or, Bool.true_and]
      rfl
    rw [taken, exec_user (i := .bcctrx bo bi lk) rfl rfl uncounted]
    exact finishBranch_effect_uncounted s _ lk s.ctr

/-! ## The condition register (O33) -/

theorem finishCrBit_effect (s : State) (d : BitVec 5) (v : Bool) : crBitEffect s d v (finishCrBit d v s) := by
  refine ⟨_, rfl, rfl, fun _ => rfl, ?bit, fun q other => ?kept⟩
  case bit => rw [State.advance_crBit, State.setCrBit_crBit, if_pos rfl]
  case kept => rw [State.advance_crBit, State.setCrBit_crBit, if_neg other]

/-- One CR field written, and the rest of CR kept. -/
theorem setCrField_kept (s : State) (f : BitVec 3) (v : BitVec 4) :
    (s.setCrField f v).crField f = v ∧ crKept s (s.setCrField f v) [f] := by
  refine ⟨by rw [State.setCrField_crField, if_pos rfl], fun q other => ?_⟩
  rw [State.setCrField_crField, if_neg (by simpa using other)]

/-- Settles O33: the logical instructions write one bit, `mcrf` one field. -/
theorem conditionLogic : Obligations.ConditionLogic := by
  unfold Obligations.ConditionLogic
  intro s d a b crfd crfs
  refine ⟨finishCrBit_effect s d _, finishCrBit_effect s d _, ?xor, finishCrBit_effect s d _, finishCrBit_effect s d _, ?eqv,
    finishCrBit_effect s d _, finishCrBit_effect s d _, ?mcrf⟩
  case xor =>
    rw [← Bool.bne_eq_xor]
    exact finishCrBit_effect s d _
  case eqv =>
    have same : (!(s.crBit a ^^ s.crBit b)) = (s.crBit a == s.crBit b) := by cases s.crBit a <;> cases s.crBit b <;> rfl
    rw [same]
    exact finishCrBit_effect s d _
  case mcrf =>
    obtain ⟨written, kept⟩ := setCrField_kept s crfd (s.crField crfs)
    exact ⟨_, rfl, rfl, fun _ => rfl, written, kept⟩

end Sys2Proof.Machine
end

section
/-!
PROOFS. Processor control (48_processor_control R521 to R530): the moves of CR and XER, of the MSR and of the special-purpose
registers. The marks of an MSR move are written out once (`markMsr_eq`); the special-purpose registers are taken number by number,
as `readSpr` and `writeSpr` take them.
-/

namespace Sys2Proof.Machine

/-! ## CR and XER (O34) -/

/-- Field `i` of a CR mask, set where CRM selects it (R522). -/
def selectField (crm : BitVec 8) (mask : Word) (i : Nat) : Word :=
  if crm.getMsbD i then mask ||| fieldWord (BitVec.ofNat 3 i) 0xF else mask

theorem selectField_getMsbD (crm : BitVec 8) (mask : Word) {i k : Nat} (hi : i < 8) (hk : k < 32) :
    (selectField crm mask i).getMsbD k = (mask.getMsbD k || (decide (k / 4 = i) && crm.getMsbD i)) := by
  have number : (BitVec.ofNat 3 i).toNat = i := by rw [BitVec.toNat_ofNat, Nat.mod_eq_of_lt hi]
  have ones : (0xF : BitVec 4).getMsbD (k % 4) = true := by
    have all : ∀ j : Fin 4, (0xF : BitVec 4).getMsbD j.val = true := by decide
    exact all ⟨k % 4, Nat.mod_lt _ (by decide)⟩
  unfold selectField
  split
  · next selected => rw [BitVec.getMsbD_or, fieldWord_getMsbD _ _ _ hk, number, ones, selected]
  · next other => rw [Bool.eq_false_iff.mpr other, Bool.and_false, Bool.or_false]

/-- The fields of a CR mask below field `n`. -/
theorem selectFields_getMsbD (crm : BitVec 8) {n k : Nat} (hn : n ≤ 8) (hk : k < 32) :
    ((List.range n).foldl (selectField crm) 0).getMsbD k = (decide (k / 4 < n) && crm.getMsbD (k / 4)) := by
  induction n with
  | zero => simp
  | succ n ih =>
    rw [List.range_succ, List.foldl_append, List.foldl_cons, List.foldl_nil, selectField_getMsbD crm _ (by omega) hk,
      ih (by omega)]
    by_cases here : k / 4 = n
    · simp [here]
    · have below : k / 4 < n + 1 ↔ k / 4 < n := by omega
      simp [here, below]

/-- Bit `k` of the mask of `mtcrf` is the bit of CRM for the field of `k` (R522). -/
theorem crmMask_getMsbD (crm : BitVec 8) {k : Nat} (hk : k < 32) : (crmMask crm).getMsbD k = crm.getMsbD (k / 4) := by
  have fields := selectFields_getMsbD crm (Nat.le_refl 8) hk
  rw [decide_eq_true (by omega), Bool.true_and] at fields
  exact fields

/-- A move to rD from elsewhere. -/
theorem integerEffect_of_setGpr {s : State} {i : Instr} {rd : BitVec 5} {v : Dword} (e : exec i s = done (s.setGpr rd v)) :
    integerEffect s rd v none none false (exec i s) := by
  rw [e]
  exact integerEffect_done s rd v none none false

/-- Settles O34: `mtcrf` merges under its mask, and `mcrxr` moves four bits. -/
theorem moveConditionRegister : Obligations.MoveConditionRegister := by
  unfold Obligations.MoveConditionRegister
  intro s r crm crfd
  refine ⟨?mfcr, ?mtcrf, ?mcrxr⟩
  case mfcr => exact integerEffect_of_setGpr rfl
  case mtcrf =>
    refine ⟨_, rfl, rfl, fun _ => rfl, fun k hk => ?_⟩
    rw [← low_getMsbD, ← crmMask_getMsbD crm hk]
    exact merge_getMsbD ..
  case mcrxr =>
    obtain ⟨written, kept⟩ := setCrField_kept s crfd (slice 4 s.xer 0)
    refine ⟨_, rfl, rfl, fun _ => rfl, written, kept, fun k hk => ?_⟩
    have mask : ∀ k : Fin 32, (0x0FFFFFFF : Word).getMsbD k.val = decide (4 ≤ k.val) := by decide
    have bit := mask ⟨k, hk⟩
    calc (s.xer &&& 0x0FFFFFFF).getMsbD k = (s.xer.getMsbD k && (0x0FFFFFFF : Word).getMsbD k) := BitVec.getMsbD_and
      _ = (decide (4 ≤ k) && s.xer.getMsbD k) := by rw [bit, Bool.and_comm]

/-! ## The MSR (O35) -/

/-- The marks of an MSR move, written out (70 R660). -/
theorem markMsr_eq (s before : State) : s.markMsr before = { s with stale := { s.stale with
    views := if s.ir != before.ir || s.pr != before.pr then addNew before.fetchView s.stale.views else s.stale.views,
    dr := s.stale.dr || s.dr != before.dr,
    sf := s.stale.sf || s.mode64 != before.mode64,
    sfCut := s.stale.sfCut || (s.mode64 != before.mode64 && !s.mode64 && high before.advance.nia != 0) } } := by
  unfold State.markMsr
  cases fetches : s.ir != before.ir || s.pr != before.pr <;> cases data : s.dr != before.dr <;>
    cases mode : s.mode64 != before.mode64 <;>
    simp [State.markFetch, keepView, State.markDr, State.markMode, State.mode64, State.sf]

theorem mem_addNew {α : Type} [DecidableEq α] (x y : α) (l : List α) : y ∈ addNew x l ↔ y = x ∨ y ∈ l := by
  unfold addNew
  split
  · next known => exact ⟨.inr, fun h => h.elim (fun e => e ▸ known) id⟩
  · exact List.mem_cons

/-- The next instruction in sequence stays a multiple of 4 when it is seen under another mode. -/
theorem State.ea32_aligned (s t : State) : t.ea32 s.nextPc &&& ~~~ 3 = t.ea32 s.nextPc := by
  have twice (x : Dword) : x &&& ~~~ 3 &&& ~~~ 3 = x &&& ~~~ 3 := by rw [BitVec.and_assoc, BitVec.and_self]
  unfold State.ea32
  split
  · exact twice _
  · have low_and (x y : Dword) : low (x &&& y) = low x &&& low y := BitVec.setWidth_and
    have zext_and (x y : Word) : zext (x &&& y) = zext x &&& zext y := BitVec.setWidth_and
    rw [State.nextPc, low_and, zext_and, BitVec.and_assoc]
    congr 1

theorem finishMsr_eq (s : State) (v : Dword) : finishMsr v s = .next { s with
    msr := s.norm v, nia := (s.setMsr v).ea32 s.nextPc, stale := ((s.setMsr v).markMsr s).stale,
    fpPending := s.fpPending || (!s.fe && (s.setMsr v).fe && s.fpscr.getMsbD 1) } := by
  rw [finishMsr, notePendingFp_eq, markMsr_eq, markMsr_eq, ← State.ea32_aligned s (s.setMsr v)]
  rfl

theorem finishMsr_effect (s : State) (v : Dword) :
    ∃ t, finishMsr v s = .next t ∧ t.msr = s.norm v ∧ msrMoveEffect s t := by
  refine ⟨_, finishMsr_eq s v, rfl, ?marks, rfl, rfl, fun _ => rfl⟩
  case marks =>
    rw [markMsr_eq]
    refine ⟨fun w => ?_, rfl⟩
    change w ∈ (if _ then _ else _) ↔ _
    split
    · next changed =>
      rw [mem_addNew, or_comm]
      simp only [Bool.or_eq_true, bne_iff_ne] at changed
      exact or_congr_right (iff_self_and.mpr fun _ => changed)
    · next same =>
      simp only [Bool.or_eq_true, bne_iff_ne] at same
      exact (or_iff_left (fun h => same h.2)).symm

/-- Settles O35: the moves to the MSR end alike, with the whole register or its low half. -/
theorem moveMachineState : Obligations.MoveMachineState := by
  unfold Obligations.MoveMachineState
  intro s r supervisor
  refine ⟨?mfmsr, fun wide => ?mtmsrd, fun option => ?mtmsr⟩
  case mfmsr => exact integerEffect_of_setGpr (exec_supervisor supervisor rfl rfl rfl rfl rfl)
  case mtmsrd =>
    obtain ⟨t, next, msr, effect⟩ := finishMsr_effect s (s.getGpr r)
    refine ⟨t, (exec_supervisor (i := .mtmsrd r) supervisor rfl wide rfl rfl rfl).trans next, ?_, effect⟩
    rw [msr, State.norm, if_pos wide]
  case mtmsr =>
    obtain ⟨t, next, msr, effect⟩ := finishMsr_effect s (joinWords (high s.msr) (low (s.getGpr r)))
    refine ⟨t, (exec_supervisor (i := .mtmsr r) supervisor rfl (not_or_of_or option) rfl rfl rfl).trans next, ?_, fun wide => ?_,
      fun narrow => ?_, effect⟩
    · rw [msr, State.norm]
      split <;> simp
    · rw [msr, State.norm, if_pos wide, high_joinWords]
    · rw [msr, State.norm, narrow, if_neg Bool.false_ne_true, high_zext]

/-! ## Special-purpose registers (O36, O37) -/

section
variable {s : State} {n : BitVec 10} {write : Bool}

/-- The checks of a move of a register that the mode may name (48 R527 (d)). -/
theorem preCheck_bySpr {i : Instr} (moves : requirement i = ⟨.always, false, .bySpr n write⟩)
    (level : n.getLsbD 4 = false ∨ s.pr = false) (defined : sprDefined s.cfg n.toNat write = true) : preCheck i s = none := by
  refine preCheck_none (by rw [moves]; rfl) (fun h => by rw [moves] at h; cases h) ?_
  rw [moves]
  have allowed : (sprSupervisor n && s.pr) = false := by
    rw [sprSupervisor, Bool.and_eq_false_iff]
    exact level
  simp [checkPrivilege, allowed, defined]

theorem exec_mtspr (rs : BitVec 5) (level : n.getLsbD 4 = false ∨ s.pr = false) (defined : sprDefined s.cfg n.toNat true = true) :
    exec (.mtspr rs n) s = done (writeSpr s n.toNat (s.getGpr rs)) :=
  exec_of_guarded rfl (preCheck_bySpr rfl level defined) rfl

theorem exec_mfspr (rd : BitVec 5) (level : n.getLsbD 4 = false ∨ s.pr = false) (defined : sprDefined s.cfg n.toNat false = true) :
    exec (.mfspr rd n) s = done (s.setGpr rd (readSpr s n.toNat)) :=
  exec_of_guarded rfl (preCheck_bySpr rfl level defined) rfl

/-- `mftb` may read both its registers in either mode (R530). -/
theorem exec_mftb (rd : BitVec 5) (h : n.toNat = 268 ∨ n.toNat = 269) :
    exec (.mftb rd n) s = done (s.setGpr rd (readTbr s n.toNat)) := by
  refine exec_of_guarded rfl (preCheck_none rfl (fun fp => by cases fp) ?_) rfl
  change checkPrivilege s (.byTbr n) = none
  simp [checkPrivilege, h]

end

/-- Settles O37: each register by its number. -/
theorem specialRegisters : Obligations.SpecialRegisters := by
  unfold Obligations.SpecialRegisters
  intro s r
  refine ⟨exec_mtspr r (.inl rfl) rfl, exec_mtspr r (.inl rfl) rfl, exec_mtspr r (.inl rfl) rfl, ?xer, ?lr, ?ctr, ?tb, ?tbu,
    fun supervisor => ⟨?pvr, ⟨_, exec_mtspr r (.inr supervisor) rfl, ?tbl, ?tblKept, rfl, fun _ => rfl⟩,
      ⟨_, exec_mtspr r (.inr supervisor) rfl, ?tbuWritten, ?tbuKept, rfl, fun _ => rfl⟩⟩⟩
  case xer => exact integerEffect_of_setGpr (exec_mfspr r (.inl rfl) rfl)
  case lr => exact integerEffect_of_setGpr (exec_mfspr r (.inl rfl) rfl)
  case ctr => exact integerEffect_of_setGpr (exec_mfspr r (.inl rfl) rfl)
  case tb => exact integerEffect_of_setGpr (exec_mftb r (.inl rfl))
  case tbu => exact integerEffect_of_setGpr (exec_mftb r (.inr rfl))
  case pvr => exact integerEffect_of_setGpr (exec_mfspr r (.inr supervisor) rfl)
  case tbl => exact low_joinWords _ _
  case tblKept => exact high_joinWords _ _
  case tbuWritten => exact high_joinWords _ _
  case tbuKept => exact low_joinWords _ _

end Sys2Proof.Machine
end

section
/-!
PROOFS. The special-purpose registers read back what is written to them (48_processor_control R528, R529): what `readSpr` reads after
`writeSpr`, what `writeSpr` leaves alone, and its marks.
-/

namespace Sys2Proof.Machine

/-! ## The numbers that read back (O36) -/

/-- The registers that can be written and read back, with their widths (10_state R43): those of 32 bits, the SPRGs, the other ones of
64 bits, the IBATs and the DBATs. -/
theorem sprWidth_cases {c : Config} {n w : Nat} (h : sprWidth c n = some w) :
    (w = 32 ∧ (n = 1 ∨ n = 18 ∨ n = 22 ∨ n = 282)) ∨
    (w = 64 ∧ ((∃ k, k < 4 ∧ n = 272 + k) ∨ (n = 8 ∨ n = 9 ∨ n = 19 ∨ n = 25 ∨ n = 26 ∨ n = 27 ∨ n = 1013 ∨ n = 280) ∨
      (528 ≤ n ∧ n < 536) ∨ (536 ≤ n ∧ n < 544))) := by
  unfold sprWidth at h
  split_ifs at h with word dword asr ear <;> injection h with h
  · exact .inl ⟨h.symm, by omega⟩
  · refine .inr ⟨h.symm, ?_⟩
    by_cases sprg : 272 ≤ n ∧ n ≤ 275
    · exact .inl ⟨n - 272, by omega⟩
    · exact .inr (by omega)
  · exact .inr ⟨h.symm, by simp [asr]⟩
  · exact .inl ⟨h.symm, by simp [ear]⟩

/-- Such a register is defined for both directions. -/
theorem sprDefined_of_sprWidth_some {c : Config} {n w : Nat} (h : sprWidth c n = some w) (write : Bool) :
    sprDefined c n write = true := by
  have both : sprBoth c n = true := by
    unfold sprWidth at h
    split_ifs at h with word dword asr ear
    · obtain rfl | rfl | rfl := word <;> rfl
    · simp only [sprBoth, Bool.or_eq_true, beq_iff_eq, Bool.and_eq_true, decide_eq_true_eq]
      grind
    · simp [sprBoth, asr]
    · simp [sprBoth, ear]
  rw [sprDefined, both, Bool.true_or]

/-- A value cut to 32 bits is its low word. -/
theorem ofNat_mod_word (v : Dword) : BitVec.ofNat 64 (v.toNat % 2 ^ 32) = zext (low v) := by
  apply BitVec.eq_of_toNat_eq
  simp [zext, low]

theorem ofNat_mod_dword (v : Dword) : BitVec.ofNat 64 (v.toNat % 2 ^ 64) = v := by
  rw [Nat.mod_eq_of_lt v.isLt, BitVec.ofNat_toNat, BitVec.setWidth_eq]

theorem State.norm_idem (s : State) (v : Dword) : s.norm (s.norm v) = s.norm v := by
  unfold State.norm
  split
  · rfl
  · rw [low_zext]

/-! ## What is read after a write -/

theorem readSpr_writeSpr_word (s : State) (v : Dword) {n : Nat} (h : n = 1 ∨ n = 18 ∨ n = 22 ∨ n = 282) :
    readSpr (writeSpr s n v) n = zext (low v) := by
  obtain rfl | rfl | rfl | rfl := h <;> rfl

section
variable {n : Nat}

theorem readSpr_ibat (s : State) (h : 528 ≤ n ∧ n < 536) : readSpr s n = s.ibat[n - 528]'(by omega) := by
  unfold readSpr
  iterate 17 rw [if_neg (by omega)]
  exact dif_pos h

theorem readSpr_dbat (s : State) (h : 536 ≤ n ∧ n < 544) : readSpr s n = s.dbat[n - 536]'(by omega) := by
  unfold readSpr
  iterate 17 rw [if_neg (by omega)]
  rw [dif_neg (by omega)]
  exact dif_pos h

theorem writeSpr_ibat (s : State) (v : Dword) (h : 528 ≤ n ∧ n < 536) :
    writeSpr s n v = { s with ibat := s.ibat.set (n - 528) (s.norm v) (by omega) }.markFetch s := by
  unfold writeSpr
  iterate 18 rw [if_neg (by omega)]
  exact dif_pos h

theorem writeSpr_dbat (s : State) (v : Dword) (h : 536 ≤ n ∧ n < 544) :
    writeSpr s n v = { s with dbat := s.dbat.set (n - 536) (s.norm v) (by omega) }.markData := by
  unfold writeSpr
  iterate 18 rw [if_neg (by omega)]
  rw [dif_neg (by omega)]
  exact dif_pos h

theorem readSpr_writeSpr_bat (s : State) (v : Dword) (h : (528 ≤ n ∧ n < 536) ∨ (536 ≤ n ∧ n < 544)) :
    readSpr (writeSpr s n v) n = s.norm v := by
  obtain bat | bat := h
  · rw [readSpr_ibat _ bat, writeSpr_ibat s v bat]
    exact Vector.getElem_set_self _
  · rw [readSpr_dbat _ bat, writeSpr_dbat s v bat]
    exact Vector.getElem_set_self _

/-- The IBATs are read by their own numbers only. -/
theorem readSpr_with_ibat (s : State) (file : Vector Dword 8) (h : ¬ (528 ≤ n ∧ n < 536)) :
    readSpr { s with ibat := file } n = readSpr s n := by
  unfold readSpr
  simp only [dif_neg h]

/-- The DBATs are read by their own numbers only. -/
theorem readSpr_with_dbat (s : State) (file : Vector Dword 8) (h : ¬ (536 ≤ n ∧ n < 544)) :
    readSpr { s with dbat := file } n = readSpr s n := by
  unfold readSpr
  simp only [dif_neg h]

/-- The SPRGs are read by their own numbers only. -/
theorem readSpr_with_sprg (s : State) (file : Vector Dword 4) (h : ∀ k < 4, n ≠ 272 + k) :
    readSpr { s with sprg := file } n = readSpr s n := by
  have numbers := And.intro (h 0 (by decide)) <| And.intro (h 1 (by decide)) <| And.intro (h 2 (by decide)) (h 3 (by decide))
  unfold readSpr
  simp only [numbers, if_false]

theorem readSpr_sprg (s : State) {k : Nat} (h : k < 4) : readSpr s (272 + k) = s.sprg[k] := by
  have each : ∀ k : Fin 4, readSpr s (272 + k.val) = s.sprg[k.val] := by
    intro k
    fin_cases k <;> rfl
  exact each ⟨k, h⟩

theorem writeSpr_sprg (s : State) (v : Dword) {k : Nat} (h : k < 4) :
    writeSpr s (272 + k) v = { s with sprg := s.sprg.set k (s.norm v) h } := by
  have each : ∀ k : Fin 4, writeSpr s (272 + k.val) v = { s with sprg := s.sprg.set k.val (s.norm v) k.isLt } := by
    intro k
    fin_cases k <;> rfl
  exact each ⟨k, h⟩

end

theorem readSpr_writeSpr_sprg (s : State) (v : Dword) {k : Nat} (h : k < 4) :
    readSpr (writeSpr s (272 + k) v) (272 + k) = s.norm v := by
  rw [readSpr_sprg _ h, writeSpr_sprg s v h]
  exact Vector.getElem_set_self h

/-- The double-word registers that are no SPRGs and no BATs. -/
theorem readSpr_writeSpr_single (s : State) (v : Dword) {n : Nat}
    (h : n = 8 ∨ n = 9 ∨ n = 19 ∨ n = 25 ∨ n = 26 ∨ n = 27 ∨ n = 1013 ∨ n = 280) : readSpr (writeSpr s n v) n = s.norm v := by
  obtain rfl | rfl | rfl | rfl | rfl | rfl | rfl | rfl := h <;> rfl

/-- A register reads back what was written to it, cut to its width. -/
theorem readSpr_writeSpr (s : State) (v : Dword) {n w : Nat} (h : sprWidth s.cfg n = some w) :
    s.norm (readSpr (writeSpr s n v) n) = s.norm (BitVec.ofNat 64 (v.toNat % 2 ^ w)) := by
  obtain ⟨rfl, word⟩ | ⟨rfl, sprg | single | bat⟩ := sprWidth_cases h
  case inl => rw [readSpr_writeSpr_word s v word, ofNat_mod_word]
  case inr.inl =>
    obtain ⟨k, hk, rfl⟩ := sprg
    rw [readSpr_writeSpr_sprg s v hk, ofNat_mod_dword, State.norm_idem]
  case inr.inr.inl => rw [readSpr_writeSpr_single s v single, ofNat_mod_dword, State.norm_idem]
  case inr.inr.inr => rw [readSpr_writeSpr_bat s v bat, ofNat_mod_dword, State.norm_idem]

/-- A write of one register leaves what the others read. -/
theorem readSpr_writeSpr_other (s : State) (v : Dword) {n m w : Nat} (h : sprWidth s.cfg n = some w) (other : m ≠ n) :
    readSpr (writeSpr s n v) m = readSpr s m := by
  obtain ⟨-, word⟩ | ⟨-, sprg | single | bat | bat⟩ := sprWidth_cases h
  case inl =>
    obtain rfl | rfl | rfl | rfl := word <;>
    · unfold readSpr
      simp only [if_neg other]
      rfl
  case inr.inl =>
    obtain ⟨k, hk, rfl⟩ := sprg
    rw [writeSpr_sprg s v hk]
    by_cases same : ∀ j < 4, m ≠ 272 + j
    · exact readSpr_with_sprg s _ same
    · push Not at same
      obtain ⟨j, hj, rfl⟩ := same
      rw [readSpr_sprg _ hj, readSpr_sprg _ hj]
      exact Vector.getElem_set_ne hk hj (by omega)
  case inr.inr.inl =>
    obtain rfl | rfl | rfl | rfl | rfl | rfl | rfl | rfl := single <;>
    · unfold readSpr
      simp only [if_neg other]
      rfl
  case inr.inr.inr.inl =>
    rw [writeSpr_ibat s v bat]
    by_cases same : 528 ≤ m ∧ m < 536
    · rw [readSpr_ibat _ same, readSpr_ibat _ same]
      exact Vector.getElem_set_ne (by omega) (by omega) (by omega)
    · exact readSpr_with_ibat s _ same
  case inr.inr.inr.inr =>
    rw [writeSpr_dbat s v bat]
    by_cases same : 536 ≤ m ∧ m < 544
    · rw [readSpr_dbat _ same, readSpr_dbat _ same]
      exact Vector.getElem_set_ne (by omega) (by omega) (by omega)
    · exact readSpr_with_dbat s _ same

/-! ## What a write leaves, and its marks -/

/-- `t` differs from `s` in registers that `mtspr` can name, and in marks. -/
def State.SameButSprs (s t : State) : Prop :=
  t = { s with
    xer := t.xer, lr := t.lr, ctr := t.ctr, dsisr := t.dsisr, dar := t.dar, dec := t.dec, sdr1 := t.sdr1, srr0 := t.srr0,
    srr1 := t.srr1, sprg := t.sprg, asr := t.asr, ear := t.ear, dabr := t.dabr, ibat := t.ibat, dbat := t.dbat,
    decPending := t.decPending, stale := t.stale }

section
variable {s t : State} (h : s.SameButSprs t)
include h

theorem State.SameButSprs.cfg : t.cfg = s.cfg := by rw [h]

theorem State.SameButSprs.pr : t.pr = s.pr := by rw [h]; rfl

theorem State.SameButSprs.memory : sameMemory s t := fun a => by rw [h]

theorem State.SameButSprs.advance : t.advance = { s with
    xer := t.xer, lr := t.lr, ctr := t.ctr, dsisr := t.dsisr, dar := t.dar, dec := t.dec, sdr1 := t.sdr1, srr0 := t.srr0,
    srr1 := t.srr1, sprg := t.sprg, asr := t.asr, ear := t.ear, dabr := t.dabr, ibat := t.ibat, dbat := t.dbat,
    decPending := t.decPending, stale := t.stale, nia := s.nextPc } := by
  rw [h]
  rfl

end

theorem writeSpr_sameButSprs (s : State) (v : Dword) {n w : Nat} (h : sprWidth s.cfg n = some w) :
    s.SameButSprs (writeSpr s n v) := by
  obtain ⟨-, word⟩ | ⟨-, sprg | single | bat | bat⟩ := sprWidth_cases h
  case inl => obtain rfl | rfl | rfl | rfl := word <;> rfl
  case inr.inl =>
    obtain ⟨k, hk, rfl⟩ := sprg
    rw [writeSpr_sprg s v hk]
    rfl
  case inr.inr.inl => obtain rfl | rfl | rfl | rfl | rfl | rfl | rfl | rfl := single <;> rfl
  case inr.inr.inr.inl => rw [writeSpr_ibat s v bat]; rfl
  case inr.inr.inr.inr => rw [writeSpr_dbat s v bat]; rfl

/-- Views kept for fetches in `before`. -/
theorem keepView_marksFetch {s t : State} {m : StaleMarks} (views : m.views = s.stale.views) (h : t.stale = keepView s m) :
    marksFetch s t m := by
  rw [marksFetch, h]
  exact ⟨fun v => by rw [← views]; exact mem_addNew .., rfl⟩

theorem writeSpr_marks (s : State) (v : Dword) {n w : Nat} (h : sprWidth s.cfg n = some w) : marksSpr s (writeSpr s n v) n := by
  obtain ⟨-, word⟩ | ⟨-, sprg | single | bat | bat⟩ := sprWidth_cases h
  case inl => obtain rfl | rfl | rfl | rfl := word <;> rfl
  case inr.inl =>
    obtain ⟨k, hk, rfl⟩ := sprg
    rw [writeSpr_sprg s v hk]
    unfold marksSpr
    iterate 5 rw [if_neg (by omega)]
  case inr.inr.inl =>
    obtain rfl | rfl | rfl | rfl | rfl | rfl | rfl | rfl := single
    case inr.inr.inr.inl => exact keepView_marksFetch rfl rfl
    case inr.inr.inr.inr.inr.inr.inr => exact keepView_marksFetch rfl rfl
    all_goals rfl
  case inr.inr.inr.inl =>
    rw [marksSpr, if_neg (by omega), if_pos (by omega), writeSpr_ibat s v bat]
    exact keepView_marksFetch rfl rfl
  case inr.inr.inr.inr =>
    rw [marksSpr, if_neg (by omega), if_neg (by omega), if_pos (by omega), writeSpr_dbat s v bat]
    rfl

/-- Only a write of DEC makes the decrementer exception pending (60 R617). -/
theorem writeSpr_decPending (s : State) (v : Dword) {n w : Nat} (h : sprWidth s.cfg n = some w) :
    (writeSpr s n v).decPending = (s.decPending || (n == 22 && !s.dec.msb && (writeSpr s n v).dec.msb)) := by
  obtain ⟨-, word⟩ | ⟨-, sprg | single | bat | bat⟩ := sprWidth_cases h
  case inl =>
    obtain rfl | rfl | rfl | rfl := word
    case inr.inr.inl => rfl
    all_goals exact (Bool.or_false _).symm
  case inr.inl =>
    obtain ⟨k, hk, rfl⟩ := sprg
    have other : (272 + k == 22) = false := beq_eq_false_iff_ne.mpr (by omega)
    rw [writeSpr_sprg s v hk, other]
    exact (Bool.or_false _).symm
  case inr.inr.inl =>
    obtain rfl | rfl | rfl | rfl | rfl | rfl | rfl | rfl := single <;> exact (Bool.or_false _).symm
  case inr.inr.inr.inl =>
    have other : (n == 22) = false := beq_eq_false_iff_ne.mpr (by omega)
    rw [writeSpr_ibat s v bat, other]
    exact (Bool.or_false _).symm
  case inr.inr.inr.inr =>
    have other : (n == 22) = false := beq_eq_false_iff_ne.mpr (by omega)
    rw [writeSpr_dbat s v bat, other]
    exact (Bool.or_false _).symm

/-- Settles O36: a write and the reads that follow it, by the lemmas on `readSpr` and `writeSpr` above. -/
theorem specialRegistersReadBack : Obligations.SpecialRegistersReadBack := by
  unfold Obligations.SpecialRegistersReadBack
  intro s rs rd n w supervisor width
  have same := writeSpr_sameButSprs s (s.getGpr rs) width
  have cfg : (writeSpr s n.toNat (s.getGpr rs)).advance.cfg = s.cfg := same.cfg
  have level : (writeSpr s n.toNat (s.getGpr rs)).advance.pr = false := same.pr.trans supervisor
  have norm (x : Dword) : (writeSpr s n.toNat (s.getGpr rs)).advance.norm x = s.norm x := by
    unfold State.norm
    rw [cfg]
  refine ⟨_, _, exec_mtspr rs (.inr supervisor) (sprDefined_of_sprWidth_some width true),
    exec_mfspr rd (.inr level) (by rw [cfg]; exact sprDefined_of_sprWidth_some width false), ?back, ?kept, rfl, ?others,
    ?pending, writeSpr_marks s _ width, ?frame, ?memory⟩
  case back =>
    rw [State.advance_getGpr, State.setGpr_getGpr, if_pos rfl, norm]
    exact readSpr_writeSpr s _ width
  case kept =>
    intro q hq
    rw [State.advance_getGpr, State.setGpr_getGpr, if_neg (by simpa using hq)]
  case others =>
    intro m w' width' other
    refine ⟨_, _, exec_mfspr rd (.inr supervisor) (sprDefined_of_sprWidth_some width' false),
      exec_mfspr rd (.inr level) (by rw [cfg]; exact sprDefined_of_sprWidth_some width' false), ?_⟩
    have numbers : m.toNat ≠ n.toNat := fun e => other (BitVec.eq_of_toNat_eq e)
    rw [State.advance_getGpr, State.setGpr_getGpr, if_pos rfl, State.advance_getGpr, State.setGpr_getGpr, if_pos rfl, norm]
    exact congrArg s.norm (readSpr_writeSpr_other s _ width numbers)
  case pending =>
    have number : (n == 22) = (n.toNat == 22) := by
      rw [Bool.eq_iff_iff, beq_iff_eq, beq_iff_eq, ← BitVec.toNat_inj]
      rfl
    rw [number]
    exact writeSpr_decPending s _ width
  case frame => exact same.advance
  case memory => exact same.memory

end Sys2Proof.Machine
end

section
/-!
PROOFS. The state after reset (70_reset_and_hazards R650), the outside world at an instruction boundary (60_exceptions R616, R617, R621,
R629; 49_sync_cache_segment_tlb R557), and the barriers and hints (49 R550 to R552, R561, R562, R592).
-/

namespace Sys2Proof.Machine

/-! ## Reset (O8, O9) -/

/-- Settles O8: R650's values are those of `State.resetOf`; the MSR has SF by the implementation. -/
theorem resetValues : Obligations.ResetValues := by
  unfold Obligations.ResetValues
  intro c
  have msr : ∀ wide : Bool, State.resetMsr wide &&& ~~~ 0x1040 = (if wide then 0x8000000000000000 else 0) ∧
      (State.resetMsr wide).getMsbD 57 = true := by decide
  have entry (k : Fin 16) : (State.resetOf c).slb.get k = { dw0 := 0, dw1 := 0, byMove := false } := Vector.getElem_replicate k.isLt
  have single (r : BitVec 5) : (State.resetOf c).isSingle r = false := Vector.getElem_replicate r.toFin.isLt
  have ear : (0 : Word).getMsbD 0 = false := by decide
  refine ⟨⟨(msr c.impl64).1, rfl, rfl, fun k => ?slb, ear, rfl, single, rfl, rfl, rfl, rfl, rfl, rfl, rfl, rfl⟩,
    rfl, (msr c.impl64).2, rfl, rfl, rfl⟩
  case slb =>
    rw [entry k]
    decide

/-- Settles O9: every register of width XLEN is 0 but the MSR, whose SF bit is set on a 64-bit implementation only. -/
theorem resetMeetsInvariant : Obligations.ResetMeetsInvariant := by
  unfold Obligations.ResetMeetsInvariant
  intro c
  have zero : (State.resetOf c).fits 0 := .inr (by decide)
  have file {n : Nat} (k : Fin n) : (State.resetOf c).fits ((Vector.replicate n (0 : Dword)).get k) := by
    have element : (Vector.replicate n (0 : Dword)).get k = 0 := Vector.getElem_replicate k.isLt
    rw [element]
    exact zero
  have msr : (State.resetOf c).fits (State.resetMsr c.impl64) := by
    unfold State.fits
    change c.impl64 = true ∨ _
    cases c.impl64 with
    | true => exact .inl rfl
    | false => exact .inr (by decide)
  exact
    { memory := reset_memory_wf c
      pc := ⟨(by decide : (0xFFF00100 : Dword).extractLsb' 0 2 = 0), .inr (by decide : high 0xFFF00100 = 0)⟩
      fpscr := (by decide : fpscrSummary 0 = 0)
      narrow :=
        { gpr := fun r => file r.toFin, lr := zero, ctr := zero, msr := msr, srr0 := zero, srr1 := zero, dar := zero, sdr1 := zero,
          asr := zero, dabr := zero, sprg := file, ibat := file, dbat := file } }

/-! ## The outside world (O7) -/

theorem State.tick_effect (s : State) (n : Nat) : tickEffect s (s.tick n) n := by
  have bound := s.dec.isLt
  refine ⟨?tb, ?dec, ?pending, rfl⟩
  case tb => rw [State.tick, BitVec.toNat_add, BitVec.toNat_ofNat, Nat.add_mod_mod]
  case dec =>
    rw [State.tick, BitVec.toNat_sub, BitVec.toNat_ofNat]
    omega
  case pending => rw [State.tick, Bool.or_eq_true, decide_eq_true_iff]

/-- The physical address of a byte of a boundary record. -/
def cellAddress (c : Host.Cell) : Nat := c.1 % 2 ^ 64

/-- The granules of `granuleOf` have the size of R8. -/
theorem granuleOf_eq (s : State) (pa : Nat) : s.granuleOf pa = pa / granuleBytes s.cfg := by
  have size : 2 ^ granuleExponent s.cfg = granuleBytes s.cfg := by
    have monotone : Monotone (fun k : Nat => 2 ^ k) := fun _ _ h => Nat.pow_le_pow_right (by decide) h
    have least : 2 ^ (if s.cfg.impl64 then 3 else 2) = if s.cfg.impl64 then 8 else 4 := by split <;> rfl
    rw [granuleExponent, granuleBytes, ← least]
    exact monotone.map_max
  rw [State.granuleOf, size]

/-- One byte that another agent stores. -/
theorem State.otherStore_eq (s : State) (c : Host.Cell) : s.otherStore c = { s with
    mem := s.mem.write (cellAddress c) c.2, staleInsn := addNew (s.blockOf (cellAddress c)) s.staleInsn,
    icbiDone := s.icbiDone.filter (fun n => n != s.blockOf (cellAddress c)),
    reserve := s.reserve && cellAddress c / granuleBytes s.cfg != s.reserveAddr.toNat / granuleBytes s.cfg } := by
  have address : (BitVec.ofNat 64 c.1).toNat = cellAddress c := BitVec.toNat_ofNat ..
  have granules (s : State) (pa : Nat) := granuleOf_eq s pa
  unfold State.otherStore
  simp only [address, granules]
  split
  · next same =>
    have same : s.reserveAddr.toNat / granuleBytes s.cfg = cellAddress c / granuleBytes s.cfg := same
    simp [State.storeByte, same]
  · next other =>
    have other : ¬ s.reserveAddr.toNat / granuleBytes s.cfg = cellAddress c / granuleBytes s.cfg := other
    have ne : (cellAddress c / granuleBytes s.cfg != s.reserveAddr.toNat / granuleBytes s.cfg) = true := by
      rw [bne_iff_ne]
      exact fun e => other e.symm
    simp [State.storeByte, ne]

theorem State.otherStores_append (s : State) (cells : List Host.Cell) (c : Host.Cell) :
    s.otherStores (cells ++ [c]) = (s.otherStores cells).otherStore c := by
  rw [State.otherStores, List.foldl_append]
  rfl

theorem State.otherStores_frame (s : State) (cells : List Host.Cell) : s.otherStores cells = { s with
    mem := (s.otherStores cells).mem, staleInsn := (s.otherStores cells).staleInsn, icbiDone := (s.otherStores cells).icbiDone,
    reserve := (s.otherStores cells).reserve } := by
  induction cells using List.reverseRecOn with
  | nil => rfl
  | append_singleton cells c ih =>
    rw [State.otherStores_append, State.otherStore_eq]
    rw [ih]

section
variable (s : State) (cells : List Host.Cell)

theorem State.otherStores_cfg : (s.otherStores cells).cfg = s.cfg := by rw [State.otherStores_frame]

theorem State.otherStores_reserveAddr : (s.otherStores cells).reserveAddr = s.reserveAddr := by rw [State.otherStores_frame]

theorem State.otherStores_blockOf (a : Nat) : (s.otherStores cells).blockOf a = s.blockOf a := by
  rw [State.otherStores_frame]
  rfl

/-- The last byte stored to an address counts. -/
theorem State.otherStores_read (a : Nat) : (s.otherStores cells).mem.read a =
    match (cells.filter (fun c => cellAddress c == a)).getLast? with
    | some c => some c.2
    | none => s.mem.read a := by
  induction cells using List.reverseRecOn with
  | nil => rfl
  | append_singleton cells c ih =>
    rw [State.otherStores_append, State.otherStore_eq, List.filter_append]
    by_cases here : cellAddress c = a
    · simp [here]
    · simp [here, Ne.symm here, ih]

theorem State.otherStores_reserve : (s.otherStores cells).reserve = true ↔ s.reserve = true ∧
    ∀ c ∈ cells, cellAddress c / granuleBytes s.cfg ≠ s.reserveAddr.toNat / granuleBytes s.cfg := by
  induction cells using List.reverseRecOn with
  | nil => simp [State.otherStores]
  | append_singleton cells c ih =>
    rw [State.otherStores_append, State.otherStore_eq, State.otherStores_cfg, State.otherStores_reserveAddr, Bool.and_eq_true, ih,
      bne_iff_ne, and_assoc]
    simp [or_imp, forall_and]

theorem State.mem_otherStores_staleInsn (n : Nat) : n ∈ (s.otherStores cells).staleInsn ↔
    n ∈ s.staleInsn ∨ ∃ c ∈ cells, n = s.blockOf (cellAddress c) := by
  induction cells using List.reverseRecOn with
  | nil => simp [State.otherStores]
  | append_singleton cells c ih =>
    rw [State.otherStores_append, State.otherStore_eq, State.otherStores_blockOf, mem_addNew, ih]
    simp only [List.mem_append, List.mem_singleton, or_and_right, exists_or, exists_eq_left]
    rw [or_left_comm, or_comm (a := n = _)]

theorem State.mem_otherStores_icbiDone (n : Nat) : n ∈ (s.otherStores cells).icbiDone ↔
    n ∈ s.icbiDone ∧ ¬ ∃ c ∈ cells, n = s.blockOf (cellAddress c) := by
  induction cells using List.reverseRecOn with
  | nil => simp [State.otherStores]
  | append_singleton cells c ih =>
    rw [State.otherStores_append, State.otherStore_eq, State.otherStores_blockOf, List.mem_filter, ih, bne_iff_ne]
    simp [or_and_right, exists_or]
    tauto

end

theorem mem_foldl_dropPage (e : TlbEntry) (tlb : List TlbEntry) (pages : List (BitVec 16)) :
    e ∈ pages.foldl dropPage tlb ↔ e ∈ tlb ∧ e.page ∉ pages := by
  induction pages generalizing tlb with
  | nil => simp
  | cons p pages ih => rw [List.foldl_cons, ih, dropPage, List.mem_filter, bne_iff_ne, List.mem_cons, not_or, and_assoc]

theorem mem_foldl_addNew (n : Nat) (l m : List Nat) : n ∈ m.foldl (fun l n => addNew n l) l ↔ n ∈ l ∨ n ∈ m := by
  induction m generalizing l with
  | nil => simp
  | cons x m ih => rw [List.foldl_cons, ih, mem_addNew, List.mem_cons, or_comm (a := n = x), or_assoc]

theorem environment_records : recordActs := by
  intro s b rest record
  -- the state before the stores
  let u := State.tick { s with env := rest } b.ticks
  have acts : s.environment = State.applyBoundary { s with env := rest } b := by rw [State.environment, record]
  rw [acts]
  refine ⟨?ticks, u.otherStores_read b.stores, ?reserve, u.mem_otherStores_staleInsn b.stores, fun n => ?icbis, fun e => ?tlbies, ?frame⟩
  case ticks =>
    have kept : (u.otherStores b.stores).tb = u.tb ∧ (u.otherStores b.stores).dec = u.dec ∧
        (u.otherStores b.stores).decPending = u.decPending := by
      rw [State.otherStores_frame]
      exact ⟨rfl, rfl, rfl⟩
    obtain ⟨tb, dec, pending⟩ := kept
    obtain ⟨counts, falls, becomes, -⟩ := s.tick_effect b.ticks
    exact ⟨(congrArg BitVec.toNat tb).trans counts, (congrArg (fun d : Word => (d.toNat : Int)) dec).trans falls,
      (Bool.eq_iff_iff.mp pending).trans becomes, rfl⟩
  case reserve =>
    change ((u.otherStores b.stores).reserve && !b.loseReservation) = true ↔ _
    rw [Bool.and_eq_true, State.otherStores_reserve, Bool.not_eq_true', and_assoc, and_comm (b := b.loseReservation = false)]
    rfl
  case icbis =>
    exact (mem_foldl_addNew n _ b.icbis).trans (or_congr_left (u.mem_otherStores_icbiDone b.stores n))
  case tlbies =>
    have tlb : (u.otherStores b.stores).tlb = s.tlb := by
      rw [State.otherStores_frame]
      rfl
    have dropped := mem_foldl_dropPage e (u.otherStores b.stores).tlb b.tlbies
    rw [tlb] at dropped
    exact (iff_of_eq (congrArg (fun l => e ∈ b.tlbies.foldl dropPage l) tlb)).trans dropped
  case frame =>
    rw [State.applyBoundary, State.otherStores_frame]
    rfl

/-- Settles O7: ticks, one boundary record, and none. -/
theorem ticksCount : Obligations.TicksCount :=
  ⟨State.tick_effect, environment_records, fun s none => by rw [State.environment, none]⟩

/-! ## Barriers and hints (O45) -/

/-- Settles O45. -/
theorem barriers : Obligations.Barriers := by
  unfold Obligations.Barriers
  intro s ra rb
  refine ⟨rfl, rfl, rfl, rfl, fun supervisor option => ?tlbsync, ?isync⟩
  case tlbsync => exact exec_supervisor (i := .tlbsync) supervisor rfl option rfl rfl rfl
  case isync => exact ⟨_, rfl, contextSync_blocksSynced s, rfl⟩

end Sys2Proof.Machine
end

section
/-!
PROOFS. What an instruction boundary takes (60_exceptions R615 to R619): the exceptions in their order, and how a fetch stops
(60 R612, R627; 70_reset_and_hazards R660, R661).
-/

namespace Sys2Proof.Machine

/-! ## How a fetch stops (O6) -/

section
variable {u : State}

/-- A fetch is stale where the statements say so (log 14). -/
theorem staleFetch_iff (ea : Dword) : u.staleFetch ea = true ↔ u.stale.sfCut = true ∨ (u.stale.sf = true ∧ high ea ≠ 0) ∨
    ∃ v ∈ u.stale.views, fetchResult v.mmu v.user u ea ≠ fetchResult u.mmuView u.pr u ea := by
  rw [State.staleFetch, Bool.or_eq_true, Bool.or_eq_true, List.any_eq_true, Bool.and_eq_true, bne_iff_ne, or_assoc, or_comm, or_assoc]
  simp only [bne_iff_ne]

theorem fetch_stale (stale : u.staleFetch (u.ea32 u.nia) = true) : fetch u = .faults .staleTranslation := by
  simp only [fetch, stale, if_true]

/-- An address that may not be fetched from raises ISI, and no entry of the lookaside buffers is loaded. -/
theorem fetch_fails (current : u.staleFetch (u.ea32 u.nia) = false) {c : XlateCause}
    (fails : fetchResult u.mmuView u.pr u (u.ea32 u.nia) = .fails c) : fetch u = .raises (.isi c) u := by
  simp only [fetch, current, Bool.false_eq_true, if_false, fails]

section
variable {ea : Dword} (on : u.ir = true)
include on

theorem fetchXlate_of_ir : fetchXlate u.mmuView u.pr u ea = Config.translate u.mmuView u.mem .fetch u.pr ea := by
  rw [fetchXlate, if_pos (show u.mmuView.ir = true from on)]

theorem fetchResult_fails {c : XlateCause} (fails : (Config.translate u.mmuView u.mem .fetch u.pr ea).result = .fails c) :
    fetchResult u.mmuView u.pr u ea = .fails c := by
  simp only [fetchResult, fetchXlate_of_ir on, fails]

theorem fetchResult_noExecute {f : BitVec 52} {a : Attributes}
    (translates : (Config.translate u.mmuView u.mem .fetch u.pr ea).result = .frame f a)
    (forbidden : a.guarded = true ∨ directSegment u (Config.translate u.mmuView u.mem .fetch u.pr ea) ea) :
    fetchResult u.mmuView u.pr u ea = .fails .noExecute := by
  have view : u.mmuView.ir = true := on
  have noExecute : (a.guarded || directStore u.mmuView u.cfg.impl64 (Config.translate u.mmuView u.mem .fetch u.pr ea) ea) = true := by
    rw [Bool.or_eq_true, directStore_iff]
    exact forbidden
  simp only [fetchResult, fetchXlate_of_ir on, translates, noExecute, view, Bool.and_self, if_true]

end

theorem readInstruction_stale {pa : Dword} (stale : staleWord u pa) : readInstruction pa u = .faults .staleInstruction := by
  obtain ⟨-, e⟩ | ⟨current, -⟩ | ⟨current, -⟩ := readInstruction_cases pa u
  · exact e
  · exact absurd stale current
  · exact absurd stale current

theorem readInstruction_unwritten {pa : Dword} {a : Nat} (current : ¬ staleWord u pa) (h : u.firstUnwritten (bytesFrom pa 4) = some a) :
    readInstruction pa u = .faults (.unwrittenRead a) := by
  have fresh := Bool.eq_false_iff.mpr (mt (u.blocksOfWord_stale pa).mp current)
  rw [readInstruction, fresh, if_neg Bool.false_ne_true, Memory.readAll_of_firstUnwritten h]

theorem fetch_stops (u : State) : fetchStops u ((fetch u).finish runWord) := by
  refine ⟨fun stale => ?stale, fun current on => ⟨fun c fails => ?fails, fun f a translates forbidden => ?noExecute⟩,
    fun pa v fetches => ⟨fun stale => ?block, fun fresh a unwritten => ?unwritten⟩⟩
  case stale => rw [fetch_stale ((staleFetch_iff _).mpr stale), Access.faults_finish]
  case fails =>
    rw [fetch_fails current (fetchResult_fails on fails)]
    rfl
  case noExecute =>
    rw [fetch_fails current (fetchResult_noExecute on translates forbidden)]
    rfl
  case block =>
    rw [fetch_of_fetchesFrom fetches, readInstruction_stale ((staleWord_of_fetchesFrom fetches pa).mpr stale), Access.faults_finish]
  case unwritten =>
    rw [fetch_of_fetchesFrom fetches, readInstruction_unwritten (mt (staleWord_of_fetchesFrom fetches pa).mp fresh) unwritten,
      Access.faults_finish]

end

/-! ## The order of the exceptions (O6) -/

section
variable {s : State} (le : s.le = false) (pow : s.pow = false)
include le pow

theorem step_of_recognised {r : Result} (taken : recognise s.environment = some r) : step s = r := by
  simp only [step, le, pow, Bool.false_eq_true, if_false, taken]

theorem step_of_none (none : recognise s.environment = none) : step s = (fetch s.environment).finish runWord := by
  simp only [step, le, pow, Bool.false_eq_true, if_false, none]

end

/-- Settles O6: `recognise` asks for the exceptions in the order of the statement, and the fetch stops as `fetch_stops` says. -/
theorem boundaryTakes : Obligations.BoundaryTakes := by
  unfold Obligations.BoundaryTakes
  intro s u fpDue
  refine ⟨fun le => ?little, fun le pow => ?power, fun le pow => ⟨fun reset => ?reset, fun noReset =>
    ⟨fun mcheck on => ?mcheck, fun mcheck off => ?checkstop, fun noMcheck => ⟨fun fp => ?fp, fun noFp =>
      ⟨fun ext on => ?external, fun noExt => ⟨fun dec on => ?dec, fun noDec => ⟨fun trace => ?trace, fun noTrace => ?fetch⟩⟩⟩⟩⟩⟩⟩
  case little => simp only [step, le, if_true]
  case power => simp only [step, le, pow, Bool.false_eq_true, if_false, if_true]
  case reset => exact step_of_recognised le pow (if_pos reset)
  all_goals have afterReset : recognise u = _ := if_neg (Bool.eq_false_iff.mp noReset)
  case mcheck =>
    refine step_of_recognised le pow (afterReset.trans ?_)
    rw [if_pos mcheck, if_pos on]
    rfl
  case checkstop =>
    refine step_of_recognised le pow (afterReset.trans ?_)
    rw [if_pos mcheck, if_neg (Bool.eq_false_iff.mp off)]
  all_goals rw [if_neg (Bool.eq_false_iff.mp noMcheck)] at afterReset
  case fp => exact step_of_recognised le pow (afterReset.trans (if_pos fp))
  all_goals rw [if_neg (Bool.eq_false_iff.mp noFp)] at afterReset
  case external => exact step_of_recognised le pow (afterReset.trans (if_pos (Bool.and_eq_true_iff.mpr ⟨ext, on⟩)))
  all_goals rw [if_neg (Bool.eq_false_iff.mp noExt)] at afterReset
  case dec => exact step_of_recognised le pow (afterReset.trans (if_pos (Bool.and_eq_true_iff.mpr ⟨dec, on⟩)))
  all_goals rw [if_neg (Bool.eq_false_iff.mp noDec)] at afterReset
  case trace => exact step_of_recognised le pow (afterReset.trans (if_pos trace))
  case fetch =>
    rw [step_of_none le pow (afterReset.trans (if_neg (Bool.eq_false_iff.mp noTrace)))]
    exact fetch_stops u

end Sys2Proof.Machine
end

section
/-!
PROOFS. Reservations (49_sync_cache_segment_tlb R553 to R556): the access stops the instruction or it goes through; a store conditional
then ends in one way (`finishConditional_end`), whether it stores or not.
-/

namespace Sys2Proof.Machine

/-! ## Load and reserve (O43) -/

theorem loadReserve_effect (s : State) (rd : BitVec 5) (ea : Dword) (n : Nat) : reserveEffect s rd ea n (loadReserve rd ea n s) := by
  refine ⟨fun misaligned => ?misaligned, fun aligned => ?aligned⟩
  case misaligned =>
    rw [loadReserve, misaligned]
    rfl
  case aligned =>
    rw [loadReserve, if_pos aligned]
    refine ⟨reach_stops .., fun pa u reaches => ?_⟩
    obtain ⟨a, reached⟩ := reach_of_reachesAt reaches
    have loads := readAt_loadsFrom (s := s) (u := u) (bytesFrom pa n)
      (fun bytes u => (u.setReserve pa).setGpr rd (zeroLoaded bytes)) (fun bytes => by rw [reachesAt_frame reaches]; rfl)
    simp only [← unsignedValue_eq] at loads
    rw [reached, Access.ok_finish]
    simp only [← unsignedValue_eq]
    exact loads

/-- Settles O43: both are `loadReserve`. -/
theorem loadAndReserve : Obligations.LoadAndReserve := by
  unfold Obligations.LoadAndReserve
  intro s rd ra rb
  refine ⟨loadReserve_effect s rd _ 4, fun wide => ?_⟩
  rw [exec_only64 (i := .ldarx rd ra rb) wide rfl rfl rfl]
  exact loadReserve_effect s rd _ 8

/-! ## Store conditional (O44) -/

/-- A store conditional that has its access, from `s` by way of `u`, has stored or not, and completes in `t`. -/
structure ConditionalEnd (s u : State) (pa : Dword) (bytes : List Byte) (stored : Bool) (t : State) : Prop where
  reserve : t.reserve = false
  crKept : crKept s t [0]
  cr0 : t.crField 0 = (if stored then 2 else 0) ||| (if s.so then 1 else 0)
  holds : stored = true → t.holds pa bytes
  elsewhere : ∀ a, (stored = true → ∀ k, k < bytes.length → a ≠ (pa + BitVec.ofNat 64 k).toNat) → t.mem.read a = s.mem.read a
  marks : marksStored s t (fun a => stored = true ∧ ∃ k, k < bytes.length ∧ a = (pa + BitVec.ofNat 64 k).toNat)
  frame : t = { u with
    reserve := false, cr := t.cr, mem := t.mem, staleInsn := t.staleInsn, icbiDone := t.icbiDone, nia := s.nextPc, draws := t.draws }

/-- CR0 of a store conditional, written as a number. -/
theorem storedField_eq (stored so : Bool) : fourBits false false stored so = (if stored then 2 else 0) ||| (if so then 1 else 0) := by
  cases stored <;> cases so <;> rfl

/-- The bytes of a block are those at its offsets. -/
theorem exists_mem_bytesFrom {pa : Dword} {n : Nat} {p : Dword → Prop} :
    (∃ q ∈ bytesFrom pa n, p q) ↔ ∃ k, k < n ∧ p (pa + BitVec.ofNat 64 k) := by
  simp [bytesFrom]

/-- What a store conditional has done to memory before it writes CR0: `w` has the bytes, or memory as it was. -/
structure ConditionalStore (s u : State) (pa : Dword) (bytes : List Byte) (stored : Bool) (w : State) : Prop where
  holds : stored = true → w.holds pa bytes
  elsewhere : ∀ a, (stored = true → ∀ k, k < bytes.length → a ≠ (pa + BitVec.ofNat 64 k).toNat) → w.mem.read a = s.mem.read a
  marks : marksStored s w (fun a => stored = true ∧ ∃ k, k < bytes.length ∧ a = (pa + BitVec.ofNat 64 k).toNat)
  frame : w = { s with
    tlb := u.tlb, slb := u.slb, mem := w.mem, staleInsn := w.staleInsn, icbiDone := w.icbiDone, draws := w.draws }

section
variable {s u v : State} {pa : Dword} {bytes : List Byte} {stored : Bool}

/-- CR0 is written, the reservation is given up, and the pc advances. -/
theorem ConditionalStore.ends {w : State} (access : u = { s with tlb := u.tlb, slb := u.slb })
    (h : ConditionalStore s u pa bytes stored w) :
    ConditionalEnd s u pa bytes stored (w.recordStored stored).clearReserve.advance := by
  obtain ⟨written, kept⟩ := setCrField_kept w 0 (fourBits false false stored w.so)
  have cr : ∀ f, w.crField f = s.crField f := fun f => by rw [h.frame]; rfl
  have so : w.so = s.so := by rw [h.frame]; rfl
  refine ⟨rfl, fun f hf => (kept f hf).trans (cr f), ?cr0, h.holds, h.elsewhere, h.marks, ?frame⟩
  case cr0 => rw [← so, ← storedField_eq]; exact written
  case frame =>
    rw [access]
    rw [h.frame]
    rfl

theorem conditionalStore_not (same : v = { s with tlb := u.tlb, slb := u.slb, draws := v.draws }) :
    ConditionalStore s u pa bytes false v := by
  refine ⟨nofun, fun a _ => by rw [same], ⟨fun b => ?stale, fun b => ?icbi⟩, ?frame⟩
  case stale => rw [same]; simp
  case icbi => rw [same]; simp
  case frame => rw [same]

theorem conditionalStore_stores (same : v = { s with tlb := u.tlb, slb := u.slb, draws := v.draws }) (size : bytes.length ≤ 2 ^ 64) :
    ConditionalStore s u pa bytes true (v.storeAll (bytesFrom pa bytes.length) bytes) := by
  have frame := v.storeAll_frame (bytesFrom pa bytes.length) bytes
  obtain ⟨stale, icbi⟩ := storeAll_marks v (bytesFrom pa bytes.length) bytes (bytesFrom_length ..)
  have marked (b : Nat) : (∃ a, (∃ q ∈ bytesFrom pa bytes.length, a = q.toNat) ∧ b = v.blockOf a) ↔
      ∃ a, (true = true ∧ ∃ k, k < bytes.length ∧ a = (pa + BitVec.ofNat 64 k).toNat) ∧ b = s.blockOf a := by
    have blocks : v.blockOf = s.blockOf := by rw [same]; rfl
    simp only [exists_mem_bytesFrom, blocks, true_and]
  refine ⟨fun _ => storeAll_holds v pa bytes size, fun a other => ?elsewhere, ⟨fun b => ?stale, fun b => ?icbi⟩, ?frame⟩
  case elsewhere => rw [storeAll_elsewhere v pa bytes a (other rfl), same]
  case stale => rw [stale, marked, same]
  case icbi => rw [icbi, marked, same]
  case frame =>
    rw [frame]
    rw [same]

/-- How a store conditional whose access has left `u` ends; a value may have been drawn to decide whether it stores. -/
theorem finishConditional_end (access : u = { s with tlb := u.tlb, slb := u.slb }) (drawn : v = { u with draws := v.draws })
    (size : bytes.length ≤ 2 ^ 64) (stored : Bool) :
    ∃ t, finishConditional stored pa bytes v = .next t ∧ ConditionalEnd s u pa bytes stored t := by
  have same : v = { s with tlb := u.tlb, slb := u.slb, draws := v.draws } := by
    rw [drawn]
    rw [access]
  cases stored with
  | false => exact ⟨_, rfl, (conditionalStore_not same).ends access⟩
  | true => exact ⟨_, rfl, (conditionalStore_stores same size).ends access⟩

end

theorem storeConditional_effect (s : State) (ea : Dword) {bytes : List Byte} (size : bytes.length ≤ 2 ^ 64) :
    conditionalEffect s (storeConditional ea bytes s) ea bytes := by
  refine ⟨fun misaligned => ?misaligned, fun aligned => ?aligned⟩
  case misaligned =>
    rw [storeConditional, misaligned]
    rfl
  case aligned =>
    rw [storeConditional, if_pos aligned]
    refine ⟨reach_stops .., fun pa u reaches => ?_⟩
    obtain ⟨a, reached⟩ := reach_of_reachesAt reaches
    have access := reachesAt_frame reaches
    have reserve : u.reserve = s.reserve := by rw [access]
    have address : u.reserveAddr = s.reserveAddr := by rw [access]
    rw [reached, Access.ok_finish, ← reserve, ← address]
    split
    · next held =>
      split
      · next same =>
        obtain ⟨t, next, ends⟩ := finishConditional_end (v := u) access rfl size true
        exact ⟨t, true, next, ends.reserve, ends.crKept, ends.cr0, fun _ _ => rfl, fun none => absurd held (by simp [none]), ends.holds,
          ends.elsewhere, ends.marks, ends.frame⟩
      · next other =>
        obtain ⟨t, next, ends⟩ := finishConditional_end (v := u.drew) access rfl size (u.draw 1).msb
        exact ⟨t, _, next, ends.reserve, ends.crKept, ends.cr0, fun _ same => absurd same other,
          fun none => absurd held (by simp [none]), ends.holds, ends.elsewhere, ends.marks, ends.frame⟩
    · next none =>
      obtain ⟨t, next, ends⟩ := finishConditional_end (v := u) access rfl size false
      exact ⟨t, false, next, ends.reserve, ends.crKept, ends.cr0, fun held => absurd held none, fun _ => rfl, ends.holds,
        ends.elsewhere, ends.marks, ends.frame⟩

/-- Settles O44: both are the function `storeConditional` (which has the name of the obligation), of the low-order bytes of rS. -/
theorem storeConditional_holds : Obligations.StoreConditional := by
  unfold Obligations.StoreConditional
  intro s rs ra rb
  have size (n : Nat) (h : n ≤ 8) : (toBytes n (s.getGpr rs)).length ≤ 2 ^ 64 := by
    rw [toBytes_length]
    omega
  rw [lowBytes_eq, lowBytes_eq]
  refine ⟨storeConditional_effect s _ (size 4 (by decide)), fun wide => ?_⟩
  rw [exec_only64 (i := .stdcxDot rs ra rb) wide rfl rfl rfl]
  exact storeConditional_effect s _ (size 8 (by decide))

end Sys2Proof.Machine
end

section
/-!
PROOFS. The cache operations (49_sync_cache_segment_tlb R559 to R568) and external control (R569, R570). A block is stored to as a whole:
which bytes those are, and that no address wraps, is said once (`blockAddress_toNat`, `inBlock_iff`).
-/

namespace Sys2Proof.Machine

/-! ## The bytes of a block (O46) -/

section
variable {s : State} (small : s.cfg.cacheBlockLog ≤ 63) (pa : Dword)
include small

/-- A block ends within the address space: its size divides it. -/
theorem block_end_le : (s.blockOf pa.toNat + 1) * s.blockBytes ≤ 2 ^ 64 := by
  have parts : 2 ^ (64 - s.cfg.cacheBlockLog) * s.blockBytes = 2 ^ 64 := by
    rw [State.blockBytes, ← pow_add, Nat.sub_add_cancel (by omega)]
  have number : s.blockOf pa.toNat < 2 ^ (64 - s.cfg.cacheBlockLog) := by
    apply Nat.div_lt_of_lt_mul
    rw [mul_comm]
    exact lt_of_lt_of_eq pa.isLt parts.symm
  rw [← parts]
  exact Nat.mul_le_mul_right _ number

/-- The address of byte `k` of a block. -/
theorem blockAddress_toNat {k : Nat} (hk : k < s.blockBytes) :
    (s.blockStart pa + BitVec.ofNat 64 k).toNat = s.blockOf pa.toNat * s.blockBytes + k := by
  have last := block_end_le small pa
  rw [Nat.add_mul, Nat.one_mul] at last
  rw [State.blockStart, ← BitVec.ofNat_add, BitVec.toNat_ofNat]
  exact Nat.mod_eq_of_lt (by omega)

/-- The bytes of a block are those at its addresses. -/
theorem inBlock_iff (a : Nat) : inBlock s pa a ↔ ∃ k, k < s.blockBytes ∧ a = (s.blockStart pa + BitVec.ofNat 64 k).toNat := by
  have positive : 0 < s.blockBytes := Nat.two_pow_pos _
  constructor
  · intro same
    have same : a / s.blockBytes = s.blockOf pa.toNat := same
    refine ⟨a % s.blockBytes, Nat.mod_lt _ positive, ?_⟩
    rw [blockAddress_toNat small pa (Nat.mod_lt _ positive), ← same]
    exact (Nat.div_add_mod' a s.blockBytes).symm
  · rintro ⟨k, hk, rfl⟩
    rw [blockAddress_toNat small pa hk]
    change (s.blockOf pa.toNat * s.blockBytes + k) / s.blockBytes = _
    rw [Nat.mul_comm, Nat.mul_add_div positive, Nat.div_eq_of_lt hk, Nat.add_zero]

theorem mem_blockAddresses_iff (a : Nat) : (∃ q ∈ s.blockAddresses pa, a = q.toNat) ↔ inBlock s pa a := by
  rw [State.blockAddresses, exists_mem_bytesFrom, inBlock_iff small pa]

end

/-- Storing all the bytes of a block, where the access has left `u`; `d` values have been drawn in all. -/
theorem blockEffect_storeAll {s u : State} (small : s.cfg.cacheBlockLog ≤ 63) (access : u = { s with tlb := u.tlb, slb := u.slb })
    (pa : Dword) {bytes : List Byte} (size : bytes.length = s.blockBytes) {p : Byte → Prop} (values : ∀ b ∈ bytes, p b) (d : Nat) :
    blockEffect s u pa p (done { u.storeAll (s.blockAddresses pa) bytes with draws := d }) := by
  have length : (s.blockAddresses pa).length = bytes.length := by rw [State.blockAddresses, bytesFrom_length, size]
  have bound : s.blockBytes ≤ 2 ^ 64 := Nat.pow_le_pow_right (by decide) (by omega)
  have blocks : u.blockOf = s.blockOf := by rw [access]; rfl
  obtain ⟨stale, icbi⟩ := storeAll_marks u (s.blockAddresses pa) bytes length
  have marked (b : Nat) : (∃ a, (∃ q ∈ s.blockAddresses pa, a = q.toNat) ∧ b = u.blockOf a) ↔
      ∃ a, a = pa.toNat ∧ b = s.blockOf a := by
    simp only [mem_blockAddresses_iff small, blocks, exists_eq_left]
    exact ⟨fun ⟨a, same, e⟩ => e.trans same, fun e => ⟨pa.toNat, rfl, e⟩⟩
  refine ⟨_, rfl, fun a _ inside => ?bytes, fun a outside => ?others, ⟨fun b => ?stale, fun b => ?icbi⟩, ?frame⟩
  case bytes =>
    obtain ⟨k, hk, rfl⟩ := (inBlock_iff small pa a).mp inside
    have here : k < bytes.length := by rw [size]; exact hk
    have read := State.storeAll_read u (s.blockAddresses pa) bytes length (bytesFrom_nodup _ _ bound) k here
    simp only [State.blockAddresses, bytesFrom_getElem] at read
    exact ⟨bytes[k], read, values _ (List.getElem_mem here)⟩
  case others =>
    have same : u.mem = s.mem := by rw [access]
    rw [← same]
    exact State.storeAll_read_other u _ bytes a fun q hq e => outside ((mem_blockAddresses_iff small pa a).mp ⟨q, hq, e.symm⟩)
  case stale =>
    refine (stale b).trans ?_
    rw [marked, access]
  case icbi =>
    refine (icbi b).trans ?_
    rw [marked, access]
  case frame =>
    rw [State.storeAll_frame]
    rw [access]
    rfl

section
variable {s u : State} (access : u = { s with tlb := u.tlb, slb := u.slb })
include access

theorem blockBytes_of_access : u.blockBytes = s.blockBytes := by rw [access]; rfl

theorem blockAddresses_of_access (pa : Dword) : u.blockAddresses pa = s.blockAddresses pa := by rw [access]; rfl

theorem clearBlock_effect (small : s.cfg.cacheBlockLog ≤ 63) (pa : Dword) :
    blockEffect s u pa (fun b => b = 0) (done (u.clearBlock pa)) := by
  rw [State.clearBlock, blockBytes_of_access access, blockAddresses_of_access access]
  exact blockEffect_storeAll small access pa List.length_replicate (fun b hb => List.eq_of_mem_replicate hb)
    (u.storeAll (s.blockAddresses pa) (List.replicate s.blockBytes 0)).draws

theorem undefineBlock_effect (small : s.cfg.cacheBlockLog ≤ 63) (pa : Dword) :
    blockEffect s u pa (fun _ => True) (done (u.undefineBlock pa)) := by
  have size : (u.drawnBytes s.blockBytes).length = s.blockBytes := by rw [State.drawnBytes, List.length_map, List.length_range]
  rw [State.undefineBlock, blockBytes_of_access access, blockAddresses_of_access access]
  exact blockEffect_storeAll small access pa size (fun _ _ => trivial) _

end

/-! ## The cache operations (O46) -/

theorem translatesTo_frame {s u : State} {kind : AccessKind} {ea pa : Dword} {a : Attributes} (h : translatesTo s kind ea pa a u) :
    u = { s with tlb := u.tlb, slb := u.slb } :=
  translateData_frame (translateData_of_translatesTo h)

/-- An instruction that ends with what its access at `ea` reaches. -/
theorem blockAccess_reach {s : State} {kind : AccessKind} {ea : Dword} {r : Result} {k : Dword → State → Prop}
    {f : Dword × Attributes → State → Result} (e : r = (reach s kind ea).finish f)
    (ends : ∀ pa a u, u = { s with tlb := u.tlb, slb := u.slb } → r = f (pa, a) u → k pa u) : blockAccess s kind ea r k := by
  refine ⟨e ▸ reach_stops s kind ea f, fun pa u reaches => ?_⟩
  obtain ⟨a, reached⟩ := reach_of_reachesAt reaches
  exact ends pa a u (reachesAt_frame reaches) (by rw [e, reached, Access.ok_finish])

theorem dcbz_effect {s : State} (small : s.cfg.cacheBlockLog ≤ 63) (ra rb : BitVec 5) :
    dcbzEffect s (eaX s ra rb) (exec (.dcbz ra rb) s) := by
  change dcbzEffect s (eaX s ra rb) (execDcbz ra rb s)
  refine ⟨translateData_stops .., fun pa a u translates => ?_⟩
  have access := translatesTo_frame translates
  have trap : dcbzTraps u a = true ↔ (a.inhibited || a.writeThrough) = true ∧ s.cfg.dcbzUncached = .trap := by
    rw [dcbzTraps, Bool.and_eq_true, beq_iff_eq, access]
  rw [execDcbz, translateData_of_translatesTo translates, Access.ok_finish]
  refine ⟨fun traps => ?traps, fun clears => ?clears⟩
  case traps =>
    rw [if_pos (trap.mpr traps)]
    rfl
  case clears =>
    rw [if_neg (mt trap.mp clears)]
    refine ⟨checkBreak_stops translates _, fun synchronized unmatched => ?_⟩
    rw [checkBreak_of_translatesTo translates synchronized unmatched, Access.ok_finish]
    exact clearBlock_effect access small pa

theorem translateData_stale {s : State} {ea : Dword} (kind : AccessKind) (stale : staleAccess s ea) :
    translateData s kind ea = .faults .staleTranslation := by
  rw [translateData, if_pos ((staleData_iff s ea).mpr stale)]

theorem translateData_fails {s : State} {kind : AccessKind} {ea : Dword} (current : ¬ staleAccess s ea) (on : s.dr = true) {c : XlateCause}
    (fails : (Config.translate s.mmuView s.mem kind s.pr ea).result = .fails c) :
    translateData s kind ea = .raises (.dsi ea (dsiStatus c ||| storeStatus kind)) s := by
  rw [translateData, if_neg (mt (staleData_iff s ea).mp current), on]
  simp only [Bool.not_true, Bool.false_eq_true, if_false, fails]

theorem dcba_effect {s : State} (small : s.cfg.cacheBlockLog ≤ 63) (option : s.cfg.optDcba = true) (ra rb : BitVec 5) :
    dcbaEffect s (eaX s ra rb) (exec (.dcba ra rb) s) := by
  have e := exec_of_guarded (i := .dcba ra rb) (s := s) rfl (preCheck_none option (fun fp => by cases fp) rfl) rfl
  rw [e]
  refine ⟨fun stale => ?stale, fun current on c fails => ?fails, fun pa a u translates => ⟨fun inhibited => ?inhibited, fun cached => ?cached⟩⟩
  case stale => rw [translateData_stale .store stale]
  case fails => rw [translateData_fails current on fails]; rfl
  all_goals
    have access := translatesTo_frame translates
    rw [translateData_of_translatesTo translates]
  case inhibited =>
    simp only [inhibited, if_true]
    rw [access]
    rfl
  case cached =>
    simp only [cached, Bool.false_eq_true, if_false]
    exact undefineBlock_effect access small pa

/-- Settles O46: each operation ends with what its access reaches, and stores to a block as a whole. -/
theorem cacheBlocks : Obligations.CacheBlocks := by
  unfold Obligations.CacheBlocks
  intro s ra rb small ea
  refine ⟨?touch, dcbz_effect small ra rb, fun supervisor => ?dcbi, fun option => dcba_effect small option ra rb, ?icbi⟩
  case touch =>
    have touches (i : Instr) (e : exec i s = touchBlock ea s) :
        blockAccess s .load ea (exec i s) (fun _ u => exec i s = .next { u with nia := s.nextPc }) :=
      blockAccess_reach e fun pa a u access ends => ends.trans (by rw [access]; rfl)
    rintro i (rfl | rfl)
    · exact touches _ rfl
    · exact touches _ rfl
  case dcbi =>
    refine blockAccess_reach (exec_supervisor (i := .dcbi ra rb) supervisor rfl rfl rfl rfl rfl) fun pa a u access ends => ?_
    rw [ends]
    exact undefineBlock_effect access small pa
  case icbi =>
    refine blockAccess_reach (e := rfl) fun pa a u access ends => ⟨_, ends, fun b => ?marks, ?frame⟩
    case marks =>
      refine (mem_addNew ..).trans ?_
      rw [access]
      rfl
    case frame => rw [access]; rfl

end Sys2Proof.Machine
end

section
/-!
PROOFS. External control (49_sync_cache_segment_tlb R569, R570): the checks of `reachExternal` in their order, and the two exchanges with
the device.
-/

namespace Sys2Proof.Machine

/-! ## The checks (O47) -/

/-- The DSISR bits of the statements are the model's. -/
theorem externalStatus_eq (kind : AccessKind) :
    0x00100000 ||| storeStatus kind = bitAt 11 ||| storeBit kind ∧ 0x04000000 ||| storeStatus kind = bitAt 5 ||| storeBit kind := by
  cases kind <;> decide

section
variable {s : State} {kind : AccessKind} {ea : Dword}

theorem reachExternal_disabled (current : s.stale.dr = false) (on : s.dr = true) (ear : s.stale.ear = false)
    (off : s.earEnabled = false) : reachExternal s kind ea = .raises (.dsi ea (bitAt 11 ||| storeBit kind)) s := by
  rw [reachExternal, current, on, ear, off, (externalStatus_eq kind).1]
  rfl

theorem reachExternal_misaligned (current : s.stale.dr = false) (on : s.dr = true) (ear : s.stale.ear = false)
    (enabled : s.earEnabled = true) (misaligned : alignedTo ea 4 = false) : reachExternal s kind ea = .raises (.alignment ea) s := by
  rw [reachExternal, current, on, ear, enabled, misaligned]
  rfl

/-- After the checks of the state and of the address come the translation, T, and the breakpoint. -/
theorem reachExternal_translates (current : s.stale.dr = false) (on : s.dr = true) (ear : s.stale.ear = false)
    (enabled : s.earEnabled = true) (aligned : alignedTo ea 4 = true) : reachExternal s kind ea =
      (translateData s kind ea).bind fun pa t =>
        if s.externalDirect kind ea then .raises (.dsi ea (bitAt 5 ||| storeBit kind)) t
        else (checkBreak t kind ea).bind fun _ u => .ok pa.1 u := by
  rw [reachExternal, current, on, ear, enabled, aligned, (externalStatus_eq kind).2]
  rfl

end

/-- An instruction that ends with `f` where every check passes. -/
theorem externalEffect_reach {s : State} {kind : AccessKind} {ea : Dword} {r : Result} {k : Dword → State → Prop}
    {f : Dword → State → Result} (e : r = (reachExternal s kind ea).finish f)
    (ends : ∀ pa u, u = { s with tlb := u.tlb, slb := u.slb } → r = f pa u → k pa u) : externalEffect s kind ea r k := by
  refine ⟨fun stale => ?dr, fun current off => ?real, fun current on stale => ?ear, fun ⟨current, on, ear⟩ off => ?disabled,
    fun ⟨current, on, ear⟩ enabled misaligned => ?misaligned, fun ⟨current, on, ear⟩ enabled aligned => ?checked⟩
  case dr => rw [e, reachExternal, stale]; rfl
  case real => rw [e, reachExternal, current, off]; rfl
  case ear => rw [e, reachExternal, current, on, stale]; rfl
  case disabled =>
    rw [e, reachExternal_disabled current on ear off]
    rfl
  case misaligned =>
    rw [e, reachExternal_misaligned current on ear enabled misaligned]
    rfl
  case checked =>
    rw [reachExternal_translates current on ear enabled aligned, Access.bind_finish] at e
    refine ⟨e ▸ translateData_stops s kind ea _, fun pa a u translates => ?_⟩
    rw [translateData_of_translatesTo translates, Access.ok_finish] at e
    refine ⟨fun direct => ?direct, fun ordinary => ?ordinary⟩
    case direct =>
      have t : s.externalDirect kind ea = true := direct
      rw [e, t, if_pos rfl]
      rfl
    case ordinary =>
      have t : s.externalDirect kind ea = false := Bool.eq_false_iff.mpr ordinary
      rw [t, if_neg Bool.false_ne_true, Access.bind_finish] at e
      refine ⟨e ▸ checkBreak_stops translates _, fun synchronized unmatched => ends pa u (translatesTo_frame translates) ?_⟩
      rw [e, checkBreak_of_translatesTo translates synchronized unmatched]
      rfl

/-- RID is the last six bits of EAR. -/
theorem earRid_eq (s : State) : s.earRid = slice 6 s.ear 26 := by
  apply BitVec.eq_of_toNat_eq
  simp [State.earRid, slice]

/-- Settles O47: the two differ in what they exchange. -/
theorem externalControl : Obligations.ExternalControl := by
  unfold Obligations.ExternalControl
  intro s r ra rb option
  have eciwx := exec_of_guarded (i := .eciwx r ra rb) (s := s) rfl (preCheck_none option (fun fp => by cases fp) rfl) rfl
  have ecowx := exec_of_guarded (i := .ecowx r ra rb) (s := s) rfl (preCheck_none option (fun fp => by cases fp) rfl) rfl
  refine ⟨externalEffect_reach eciwx fun pa u access ends => ⟨_, ends, ?word, ?kept, ?memory, ?frame⟩,
    externalEffect_reach ecowx fun pa u access ends => ends.trans ?sent⟩
  case word =>
    change (u.setGpr r _).getGpr r = _
    rw [State.setGpr_getGpr, if_pos rfl, State.norm_zext, earRid_eq, access]
  case kept =>
    intro q hq
    change (u.setGpr r _).getGpr q = _
    rw [State.setGpr_getGpr, if_neg (by simpa using hq), access]
    rfl
  case memory =>
    intro a
    change u.mem.read a = _
    rw [access]
  case frame => rw [access]; rfl
  case sent =>
    rw [earRid_eq]
    rw [access]
    rfl

end Sys2Proof.Machine
end

section
/-!
PROOFS. The segment register moves and the invalidations of the lookaside buffers (49_sync_cache_segment_tlb R580 to R591). The layout of
the SLB entries that moves write and read is said field by field (`slbDw0_*`, `slbDw1_*`, `slbImage_*`).
-/

namespace Sys2Proof.Machine

/-! ## The layout of an SLB entry (O48) -/

theorem slice_toNat {w : Nat} (n : Nat) (x : BitVec w) (a : Nat) : (slice n x a).toNat = x.toNat / 2 ^ (w - a - n) % 2 ^ n := by
  rw [slice, BitVec.extractLsb'_toNat, Nat.shiftRight_eq_div_pow]

section
variable (n : BitVec 4) (v : Dword)

theorem slbDw0_toNat : (slbDw0 n v).toNat = n.toNat * 2 ^ 28 + 2 ^ 7 + v.toNat / 2 ^ 27 % 2 ^ 5 * 2 ^ 2 := by
  simp only [slbDw0, toNat_append_eq, slice_toNat, BitVec.ofNat_eq_ofNat, BitVec.toNat_ofNat, Nat.reduceSub]
  omega

theorem slbDw0_segment : slice 36 (slbDw0 n v) 0 = n.setWidth 36 := by
  have lt := n.isLt
  apply BitVec.eq_of_toNat_eq
  rw [slice_toNat, slbDw0_toNat, BitVec.toNat_setWidth]
  omega

theorem slbDw0_valid : (slbDw0 n v).getMsbD 56 = true := by
  rw [BitVec.getMsbD_eq_getLsbD, ← BitVec.testBit_toNat, slbDw0_toNat, Nat.testBit_eq_decide_div_mod_eq]
  simp
  omega

theorem slbDw0_keys : slice 5 (slbDw0 n v) 57 = slice 5 v 32 := by
  apply BitVec.eq_of_toNat_eq
  rw [slice_toNat, slbDw0_toNat, slice_toNat]
  omega

theorem slbDw1_toNat (high : BitVec 25) : (slbDw1 high v).toNat = high.toNat * 2 ^ 39 + v.toNat % 2 ^ 27 * 2 ^ 12 := by
  simp only [slbDw1, toNat_append_eq, slice_toNat, BitVec.ofNat_eq_ofNat, BitVec.toNat_ofNat, Nat.reduceSub]
  omega

theorem slbDw1_vsidLow (high : BitVec 25) : slice 27 (slbDw1 high v) 25 = slice 27 v 37 := by
  apply BitVec.eq_of_toNat_eq
  rw [slice_toNat, slbDw1_toNat, slice_toNat]
  omega

theorem slbDw1_vsidHigh (high : BitVec 25) : slice 25 (slbDw1 high v) 0 = high := by
  have lt := high.isLt
  apply BitVec.eq_of_toNat_eq
  rw [slice_toNat, slbDw1_toNat]
  omega

end

section
variable (e : SlbEntry)

theorem slbImage_toNat : (slbImage e).toNat =
    e.dw1.toNat / 2 ^ 39 % 2 ^ 25 * 2 ^ 32 + e.dw0.toNat / 2 ^ 2 % 2 ^ 5 * 2 ^ 27 + e.dw1.toNat / 2 ^ 12 % 2 ^ 27 := by
  simp only [slbImage, toNat_append_eq, slice_toNat, BitVec.ofNat_eq_ofNat, BitVec.toNat_ofNat, Nat.reduceSub]
  omega

theorem slbImage_fields : slice 7 (slbImage e) 0 = 0 ∧ slice 25 (slbImage e) 7 = slice 25 e.dw1 0 ∧
    slice 5 (slbImage e) 32 = slice 5 e.dw0 57 ∧ slice 27 (slbImage e) 37 = slice 27 e.dw1 25 := by
  have below : (slbImage e).toNat < 2 ^ 57 := by
    rw [slbImage_toNat]
    omega
  refine ⟨BitVec.eq_of_toNat_eq ((slice_toNat ..).trans ?_), ?_, ?_, ?_⟩
  · rw [Nat.div_eq_of_lt below]
    rfl
  all_goals
    apply BitVec.eq_of_toNat_eq
    simp only [slice_toNat, slbImage_toNat, Nat.reduceSub]
    omega

end

/-- A segment register or SLB entry after a write, by numbers. -/
theorem segments_get_set {α : Type} (v : Vector α 16) (m n : BitVec 4) (x : α) :
    (v.set n.toFin.val x n.toFin.isLt).get m.toFin = if m = n then x else v.get m.toFin := by
  refine (vector_get_set v n.toFin m.toFin x).trans ?_
  by_cases same : m = n
  · rw [if_pos same, if_pos (congrArg BitVec.toFin same)]
  · rw [if_neg same, if_neg fun e => same (BitVec.eq_of_toFin_eq e)]

/-! ## The segment register moves (O48) -/

/-- The mark of one segment. -/
theorem markSegment_marks {s t : State} {g : BitVec 36}
    (h : t.stale = keepView s { s.stale with segments := addNew g s.stale.segments }) : marksSegments s t (fun x => x = g) := by
  refine ⟨fun x => ?_, ?_⟩
  · rw [h]
    exact (mem_addNew ..).trans or_comm
  · rw [h]
    exact keepView_marksFetch rfl h

/-- A view kept twice is kept once. -/
theorem addNew_addNew {α : Type} [DecidableEq α] (x : α) (l : List α) : addNew x (addNew x l) = addNew x l :=
  if_pos ((mem_addNew ..).mpr (.inl rfl))

/-- The marks of an SLB entry: its new segment and the one it served. -/
theorem markEntry_marks {s t : State} {n : BitVec 4} (wide : t.cfg.impl64 = true) (h : t.stale = s.stale) :
    marksSegments s (t.markEntry s n) (fun g => g = n.setWidth 36 ∨ g = slice 36 (s.slb.get n.toFin).dw0 0) := by
  have both : (t.markEntry s n).stale = { s.stale with
      segments := addNew (slice 36 (s.slb.get n.toFin).dw0 0) (addNew (n.setWidth 36) s.stale.segments),
      views := addNew s.fetchView s.stale.views } := by
    rw [State.markEntry, if_pos wide]
    simp only [State.markSegment, keepView, addNew_addNew, h]
  refine ⟨fun g => ?_, fun v => ?_, ?_⟩
  · rw [both]
    simp only [mem_addNew]
    tauto
  · rw [both]
    exact mem_addNew ..
  · rw [both]

section
variable {s : State} {n : BitVec 4}

/-- A move to a segment register of a 32-bit implementation. -/
theorem moveToSegment_register (narrow : s.cfg.impl64 = false) (vsidHigh : BitVec 25) (v : Dword) :
    ∃ t, moveToSegment n vsidHigh v s = .next t ∧ t.sr.get n.toFin = low v ∧
      (∀ m, m ≠ n → t.sr.get m.toFin = s.sr.get m.toFin) ∧ marksSegments s t (fun g => g = n.setWidth 36) ∧
      t = { s with sr := t.sr, stale := t.stale, nia := s.nextPc } ∧ sameMemory s t := by
  have marks : (s.setSr n (low v)).markEntry s n = (s.setSr n (low v)).markSegment s (n.setWidth 36) :=
    if_neg (by rw [Bool.not_eq_true]; exact narrow)
  rw [moveToSegment, narrow, marks]
  refine ⟨_, rfl, ?written, fun m other => ?kept, markSegment_marks rfl, rfl, fun a => rfl⟩
  case written => exact (segments_get_set s.sr n n (low v)).trans (if_pos rfl)
  case kept => exact (segments_get_set s.sr m n (low v)).trans (if_neg other)

/-- A move to the SLB entry of a segment, with the bridge. -/
theorem moveToSegment_entry (wide : s.cfg.impl64 = true) (vsidHigh : BitVec 25) (v : Dword) :
    ∃ t, moveToSegment n vsidHigh v s = .next t ∧ (t.slb.get n.toFin).byMove = true ∧ (t.slb.get n.toFin).dw0.getMsbD 56 = true ∧
      slice 36 (t.slb.get n.toFin).dw0 0 = n.setWidth 36 ∧ slice 5 (t.slb.get n.toFin).dw0 57 = slice 5 v 32 ∧
      slice 27 (t.slb.get n.toFin).dw1 25 = slice 27 v 37 ∧ slice 25 (t.slb.get n.toFin).dw1 0 = vsidHigh ∧
      (∀ m, m ≠ n → t.slb.get m.toFin = s.slb.get m.toFin) ∧
      marksSegments s t (fun g => g = n.setWidth 36 ∨ g = slice 36 (s.slb.get n.toFin).dw0 0) ∧
      t = { s with slb := t.slb, stale := t.stale, nia := s.nextPc } ∧ sameMemory s t := by
  let e : SlbEntry := { dw0 := slbDw0 n v, dw1 := slbDw1 vsidHigh v, byMove := true }
  have frame : ((s.setSlb n e).markEntry s n) =
      { s with slb := s.slb.set n.toFin.val e n.toFin.isLt, stale := ((s.setSlb n e).markEntry s n).stale } := by
    unfold State.markEntry
    split <;> rfl
  have slb : ((s.setSlb n e).markEntry s n).advance.slb = s.slb.set n.toFin.val e n.toFin.isLt := congrArg State.slb frame
  have written : ((s.setSlb n e).markEntry s n).advance.slb.get n.toFin = e := by
    rw [slb]
    exact (segments_get_set s.slb n n e).trans (if_pos rfl)
  have moves : moveToSegment n vsidHigh v s = .next ((s.setSlb n e).markEntry s n).advance := by
    rw [moveToSegment, wide]
    rfl
  refine ⟨_, moves, ?byMove, ?valid, ?segment, ?keys, ?low, ?high, fun m other => ?kept, markEntry_marks wide rfl, ?frame,
    fun a => ?memory⟩
  case byMove => rw [written]
  case valid => rw [written]; exact slbDw0_valid n v
  case segment => rw [written]; exact slbDw0_segment n v
  case keys => rw [written]; exact slbDw0_keys n v
  case low => rw [written]; exact slbDw1_vsidLow v vsidHigh
  case high => rw [written]; exact slbDw1_vsidHigh v vsidHigh
  case kept =>
    rw [slb]
    exact (segments_get_set s.slb m n e).trans (if_neg other)
  case frame => rw [frame]; rfl
  case memory => rw [frame]; rfl

/-- A move from a segment register of a 32-bit implementation. -/
theorem moveFromSegment_register (narrow : s.cfg.impl64 = false) (rd : BitVec 5) :
    moveFromSegment rd n s = done (s.setGpr rd (zext (s.sr.get n.toFin))) := by
  rw [moveFromSegment, narrow]
  rfl

/-- A move from the SLB entry of a segment, with the bridge: its image where a move has written it, else a drawn value. -/
theorem moveFromSegment_entry (wide : s.cfg.impl64 = true) (rd : BitVec 5) :
    ∃ t, moveFromSegment rd n s = .next t ∧ integerFrame s t ∧ gprsKept s t [rd] ∧ t.cr = s.cr ∧ t.xer = s.xer ∧
      ((s.slb.get n.toFin).byMove = true → t.draws = s.draws ∧ t.getGpr rd = slbImage (s.slb.get n.toFin)) := by
  have kept (v : Dword) : ∀ q, q ∉ [rd] → (s.setGpr rd v).getGpr q = s.getGpr q := fun q hq => by
    rw [State.setGpr_getGpr, if_neg (by simpa using hq)]
  have undisturbed : moveFromSegment rd n s =
      if (s.slb.get n.toFin).byMove then done (s.setGpr rd (slbImage (s.slb.get n.toFin))) else done (s.setGpr rd (s.draw 64)).drew := by
    rw [moveFromSegment, wide]
    rfl
  rw [undisturbed]
  split
  · next moved =>
    refine ⟨_, rfl, ⟨rfl, fun a => rfl⟩, kept _, rfl, rfl, fun _ => ⟨rfl, ?_⟩⟩
    change (s.setGpr rd _).getGpr rd = _
    rw [State.setGpr_getGpr, if_pos rfl, State.norm, if_pos wide]
  · next other => exact ⟨_, rfl, ⟨rfl, fun a => rfl⟩, kept _, rfl, rfl, fun moved => absurd moved other⟩

end

section
variable {s : State} (supervisor : s.pr = false)
include supervisor

theorem exec_mtsr (option : s.cfg.impl64 = false ∨ s.cfg.bridge = true) (rs : BitVec 5) (n : BitVec 4) :
    exec (.mtsr rs n) s = moveToSegment n 0 (s.getGpr rs) s :=
  exec_supervisor (i := .mtsr rs n) supervisor rfl (not_or_of_or option) rfl rfl rfl

theorem exec_mtsrin (option : s.cfg.impl64 = false ∨ s.cfg.bridge = true) (rs rb : BitVec 5) :
    exec (.mtsrin rs rb) s = moveToSegment (slice 4 (s.getGpr rb) 32) 0 (s.getGpr rs) s :=
  exec_supervisor (i := .mtsrin rs rb) supervisor rfl (not_or_of_or option) rfl rfl rfl

theorem exec_mtsrd (option : (s.cfg.impl64 && s.cfg.bridge && s.cfg.bridgeMtsrd) = true) (rs : BitVec 5) (n : BitVec 4) :
    exec (.mtsrd rs n) s = moveToSegment n (slice 25 (s.getGpr rs) 7) (s.getGpr rs) s :=
  exec_supervisor (i := .mtsrd rs n) supervisor rfl option rfl rfl rfl

theorem exec_mtsrdin (option : (s.cfg.impl64 && s.cfg.bridge && s.cfg.bridgeMtsrd) = true) (rs rb : BitVec 5) :
    exec (.mtsrdin rs rb) s = moveToSegment (slice 4 (s.getGpr rb) 32) (slice 25 (s.getGpr rs) 7) (s.getGpr rs) s :=
  exec_supervisor (i := .mtsrdin rs rb) supervisor rfl option rfl rfl rfl

theorem exec_mfsr (option : s.cfg.impl64 = false ∨ s.cfg.bridge = true) (rd : BitVec 5) (n : BitVec 4) :
    exec (.mfsr rd n) s = moveFromSegment rd n s :=
  exec_supervisor (i := .mfsr rd n) supervisor rfl (not_or_of_or option) rfl rfl rfl

theorem exec_mfsrin (option : s.cfg.impl64 = false ∨ s.cfg.bridge = true) (rd rb : BitVec 5) :
    exec (.mfsrin rd rb) s = moveFromSegment rd (slice 4 (s.getGpr rb) 32) s :=
  exec_supervisor (i := .mfsrin rd rb) supervisor rfl (not_or_of_or option) rfl rfl rfl

end

theorem segmentMoves_holds : segmentMoves := by
  intro s rs rd rb n supervisor
  refine ⟨fun narrow => ⟨?toRegister, ?fromRegister, ?fromRegisterIn⟩, fun wide bridge => ⟨?toEntry, ?fromEntry⟩⟩
  case toRegister =>
    rintro i (rfl | ⟨rfl, rfl⟩)
    · rw [exec_mtsr supervisor (.inl narrow)]
      exact moveToSegment_register narrow _ _
    · rw [exec_mtsrin supervisor (.inl narrow)]
      exact moveToSegment_register narrow _ _
  case fromRegister =>
    exact integerEffect_of_setGpr ((exec_mfsr supervisor (.inl narrow) rd n).trans (moveFromSegment_register narrow rd))
  case fromRegisterIn =>
    exact integerEffect_of_setGpr ((exec_mfsrin supervisor (.inl narrow) rd rb).trans (moveFromSegment_register narrow rd))
  case toEntry =>
    have all (option : s.cfg.bridgeMtsrd = true) : (s.cfg.impl64 && s.cfg.bridge && s.cfg.bridgeMtsrd) = true := by
      rw [wide, bridge, option]
      rfl
    rintro i (rfl | ⟨rfl, rfl⟩ | ⟨option, rfl | ⟨rfl, rfl⟩⟩)
    · rw [exec_mtsr supervisor (.inr bridge)]
      exact moveToSegment_entry wide _ _
    · rw [exec_mtsrin supervisor (.inr bridge)]
      exact moveToSegment_entry wide _ _
    · rw [exec_mtsrd supervisor (all option)]
      exact moveToSegment_entry wide _ _
    · rw [exec_mtsrdin supervisor (all option)]
      exact moveToSegment_entry wide _ _
  case fromEntry =>
    have fields (m : BitVec 4) : ∃ t, moveFromSegment rd m s = .next t ∧ integerFrame s t ∧ gprsKept s t [rd] ∧ t.cr = s.cr ∧
        t.xer = s.xer ∧ ((s.slb.get m.toFin).byMove = true → t.draws = s.draws ∧ slice 7 (t.getGpr rd) 0 = 0 ∧
          slice 25 (t.getGpr rd) 7 = slice 25 (s.slb.get m.toFin).dw1 0 ∧
          slice 5 (t.getGpr rd) 32 = slice 5 (s.slb.get m.toFin).dw0 57 ∧
          slice 27 (t.getGpr rd) 37 = slice 27 (s.slb.get m.toFin).dw1 25) := by
      obtain ⟨t, next, frame, kept, cr, xer, image⟩ := moveFromSegment_entry (n := m) wide rd
      refine ⟨t, next, frame, kept, cr, xer, fun moved => ?_⟩
      obtain ⟨draws, value⟩ := image moved
      rw [value]
      exact ⟨draws, slbImage_fields _⟩
    rintro i (rfl | ⟨rfl, rfl⟩)
    · rw [exec_mfsr supervisor (.inr bridge)]
      exact fields n
    · rw [exec_mfsrin supervisor (.inr bridge)]
      exact fields _

/-! ## The lookaside buffers (O48) -/

theorem invalidEntry_madeInvalid (e : SlbEntry) : madeInvalid e (invalidEntry e) := by
  refine ⟨rfl, rfl, fun k hk => ?_⟩
  rw [invalidEntry, putBit_getMsbD _ _ _ _ (by decide) hk]
  by_cases valid : k = 56
  · simp [valid]
  · simp [valid]

theorem slb_map_get (slb : Vector SlbEntry 16) (f : SlbEntry → SlbEntry) (k : Fin 16) : (slb.map f).get k = f (slb.get k) :=
  Vector.getElem_map f k.isLt

section
variable {e : SlbEntry} {ea : Dword}

theorem invalidateFor_hit (hit : e.dw0.getMsbD 56 = true ∧ slice 36 e.dw0 0 = slice 36 ea 0) : invalidateFor ea e = invalidEntry e := by
  rw [← beq_iff_eq (a := slice 36 e.dw0 0), ← Bool.and_eq_true] at hit
  exact if_pos hit

theorem invalidateFor_miss (miss : ¬ (e.dw0.getMsbD 56 = true ∧ slice 36 e.dw0 0 = slice 36 ea 0)) : invalidateFor ea e = e := by
  rw [← beq_iff_eq (a := slice 36 e.dw0 0), ← Bool.and_eq_true] at miss
  exact if_neg miss

end

theorem bufferInvalidations_holds : bufferInvalidations := by
  intro s rb supervisor
  refine ⟨fun wide option => ?slbia, fun wide option => ?slbie, fun option => ?tlbia, fun option => ?tlbie⟩
  case slbia =>
    refine ⟨_, exec_supervisor (i := .slbia) supervisor rfl (by simp [requirement, existsOn, wide, option]) rfl rfl rfl, fun k => ?_,
      keepView_marksFetch rfl rfl, rfl, fun a => rfl⟩
    exact (slb_map_get s.slb invalidEntry k).symm ▸ invalidEntry_madeInvalid (s.slb.get k)
  case slbie =>
    refine ⟨_, exec_supervisor (i := .slbie rb) supervisor rfl (by simp [requirement, existsOn, wide, option]) rfl rfl rfl,
      fun k => ?entry, markSegment_marks rfl, rfl, fun a => rfl⟩
    have searched := slb_map_get s.slb (invalidateFor (s.getGpr rb)) k
    refine ⟨fun hit => ?hit, fun miss => ?miss⟩
    case hit =>
      rw [invalidateFor_hit hit] at searched
      exact searched.symm ▸ invalidEntry_madeInvalid (s.slb.get k)
    case miss => exact searched.trans (invalidateFor_miss miss)
  case tlbia =>
    exact ⟨_, exec_supervisor (i := .tlbia) supervisor rfl option rfl rfl rfl, rfl, keepView_marksFetch rfl rfl, rfl, fun a => rfl⟩
  case tlbie =>
    refine ⟨_, exec_supervisor (i := .tlbie rb) supervisor rfl option rfl rfl rfl, fun e => ?_, fun p => ?_, keepView_marksFetch rfl rfl,
      rfl, fun a => rfl⟩
    · change e ∈ dropPage s.tlb _ ↔ _
      rw [dropPage, List.mem_filter, bne_iff_ne]
    · exact (mem_addNew ..).trans or_comm

/-- Settles O48: the moves, and the invalidations. -/
theorem segmentsAndBuffers : Obligations.SegmentsAndBuffers := ⟨segmentMoves_holds, bufferInvalidations_holds⟩

end Sys2Proof.Machine
end
